-- ==== Sys2Proof/Word.lean ====
section
/-! DEFINITION. The word types of Kuzar (R32, R138, R181) and their plainest arithmetic. -/

namespace Sys2Proof

/-- A byte of memory. -/
abbrev Byte := BitVec 8

/-- A scalar or address register (R138). -/
abbrev Word := BitVec 64

/-- A vector register (R138, R181). -/
abbrev Vec := BitVec 2048

/-- A mask register (R138, R182). -/
abbrev Mask := BitVec 128

/-- A 64-bit value from a number, modulo 2^64. -/
abbrev word (n : Nat) : Word := BitVec.ofNat 64 n

/-- A 64-bit value from an integer, modulo 2^64. -/
abbrev wordOfInt (i : Int) : Word := BitVec.ofInt 64 i

end Sys2Proof
end

