-- ==== Sys2Proof/Syntax.lean ====
section
/-! DEFINITION. The instruction syntax: one constructor for each row of spec/opcode_table.json.
The rows are of two kinds.  Slot instructions are 32-bit slot words (R37): their arguments are the fields of
the word, each as the number the field holds, under the letter the table gives it; `g` is always the guard
(R38).  Events are the indivisible acts of the part's other agents and of the outside world
(95_what_each_step_holds.md): they have no word; which context, record, task or link acts, and what the outside
world hands in, is data of the machine's state (`Machine.EvArg`). -/

namespace Sys2Proof

/-- One indivisible act of the part: a slot instruction or an event (opcode_table.json, 304 rows). -/
inductive Instr where
  /-- NOP_S, R40: S-slot nop has no effect. -/
  | nopS (g : Nat)
  /-- YIELD, R175: A drain and progress point that holds the context for one cycle. -/
  | yield (g : Nat)
  /-- EXIT, R178: Commits, frees sump ranges and ends the context's part of the step. -/
  | exit (g : Nat)
  /-- TRAP, R177: A commit-kind trap with a code that parks the step. -/
  | trap (g c : Nat)
  /-- SYSC, R177: A commit-kind system-call trap that parks the step. -/
  | sysc (g c : Nat)
  /-- BRK, R177: A commit-kind breakpoint trap that parks the step. -/
  | brk (g c : Nat)
  /-- SYSC_RESUME, R179: A service-task step-control call that resumes a parked step. -/
  | syscResume (g : Nat)
  /-- SYSC_KILL_STEP, R179: A service-task step-control call that kills a step. -/
  | syscKillStep (g : Nat)
  /-- SYSC_LOCATE, R179: A service-task step-control call that returns a save area's virtual address. -/
  | syscLocate (g : Nat)
  /-- ADD, R157: Integer add. -/
  | add (g d a b x : Nat)
  /-- SUB, R157: Integer subtract. -/
  | sub (g d a b x : Nat)
  /-- MUL, R157: Low 64 bits of a product. -/
  | mul (g d a b x : Nat)
  /-- MULH, R157: High 64 bits of a signed product. -/
  | mulh (g d a b x : Nat)
  /-- MULHN, R157: High 64 bits of an unsigned product. -/
  | mulhn (g d a b x : Nat)
  /-- DIV, R158: Signed quotient. -/
  | div (g d a b x : Nat)
  /-- DIVN, R158: Unsigned quotient. -/
  | divn (g d a b x : Nat)
  /-- REM, R158: Signed remainder. -/
  | rem (g d a b x : Nat)
  /-- REMN, R158: Unsigned remainder. -/
  | remn (g d a b x : Nat)
  /-- AND, R157: Bitwise AND. -/
  | and (g d a b x : Nat)
  /-- OR, R157: Bitwise OR. -/
  | or (g d a b x : Nat)
  /-- XOR, R157: Bitwise XOR. -/
  | xor (g d a b x : Nat)
  /-- ANDN, R157: AND with complement. -/
  | andn (g d a b x : Nat)
  /-- SHL, R157: Shift left. -/
  | shl (g d a b x : Nat)
  /-- SHR, R157: Logical shift right. -/
  | shr (g d a b x : Nat)
  /-- SHA, R157: Arithmetic shift right. -/
  | sha (g d a b x : Nat)
  /-- MIN, R157: Signed minimum. -/
  | min (g d a b x : Nat)
  /-- MAX, R157: Signed maximum. -/
  | max (g d a b x : Nat)
  /-- MINN, R157: Unsigned minimum. -/
  | minn (g d a b x : Nat)
  /-- MAXN, R157: Unsigned maximum. -/
  | maxn (g d a b x : Nat)
  /-- CLZ, R157: Count of leading zero bits. -/
  | clz (g d a x : Nat)
  /-- POPC, R157: Count of one bits. -/
  | popc (g d a x : Nat)
  /-- ADDI, R159: Add a signed immediate. -/
  | addi (g d a x i : Nat)
  /-- MULI, R159: Multiply by a signed immediate. -/
  | muli (g d a x i : Nat)
  /-- ANDI, R159: AND with an immediate. -/
  | andi (g d a x i : Nat)
  /-- ORI, R159: OR with an immediate. -/
  | ori (g d a x i : Nat)
  /-- XORI, R159: XOR with an immediate. -/
  | xori (g d a x i : Nat)
  /-- ANDNI, R159: AND with the complement of an immediate. -/
  | andni (g d a x i : Nat)
  /-- SHLI, R159: Shift left by an immediate. -/
  | shli (g d a x i : Nat)
  /-- SHRI, R159: Logical shift right by an immediate. -/
  | shri (g d a x i : Nat)
  /-- SHAI, R159: Arithmetic shift right by an immediate. -/
  | shai (g d a x i : Nat)
  /-- MINI, R159: Signed minimum with an immediate. -/
  | mini (g d a x i : Nat)
  /-- MAXI, R159: Signed maximum with an immediate. -/
  | maxi (g d a x i : Nat)
  /-- MINNI, R159: Unsigned minimum with an immediate. -/
  | minni (g d a x i : Nat)
  /-- MAXNI, R159: Unsigned maximum with an immediate. -/
  | maxni (g d a x i : Nat)
  /-- CEQ, R161: Compare equal into a predicate pair. -/
  | ceq (g p a b x : Nat)
  /-- CNE, R161: Compare not equal. -/
  | cne (g p a b x : Nat)
  /-- CLT, R161: Compare signed less than. -/
  | clt (g p a b x : Nat)
  /-- CLE, R161: Compare signed less or equal. -/
  | cle (g p a b x : Nat)
  /-- CLTN, R161: Compare unsigned less than. -/
  | cltn (g p a b x : Nat)
  /-- CLEN, R161: Compare unsigned less or equal. -/
  | clen (g p a b x : Nat)
  /-- CEQI, R161: Compare equal with an immediate. -/
  | ceqi (g p a i : Nat)
  /-- CNEI, R161: Compare not equal with an immediate. -/
  | cnei (g p a i : Nat)
  /-- CLTI, R161: Compare signed less than an immediate. -/
  | clti (g p a i : Nat)
  /-- CLEI, R161: Compare signed less or equal to an immediate. -/
  | clei (g p a i : Nat)
  /-- CLTNI, R161: Compare unsigned less than an immediate. -/
  | cltni (g p a i : Nat)
  /-- CLENI, R161: Compare unsigned less or equal to an immediate. -/
  | cleni (g p a i : Nat)
  /-- LIH, R160: Load one halfword, clearing the other bits. -/
  | lih (g d h i : Nat)
  /-- LIH_K, R160: Load one halfword, keeping the other bits. -/
  | lihK (g d h i : Nat)
  /-- SEL, R162: Select one of two registers by a predicate. -/
  | sel (g d a b p x : Nat)
  /-- PAND, R163: Predicate AND. -/
  | pand (g d a b : Nat)
  /-- POR, R163: Predicate OR. -/
  | por (g d a b : Nat)
  /-- PXOR, R163: Predicate XOR. -/
  | pxor (g d a b : Nat)
  /-- PSET, R163: Set a predicate to a constant. -/
  | pset (g d v : Nat)
  /-- BR, R164: Relative branch. -/
  | br (g o : Nat)
  /-- CALL, R164: Relative call that writes a link. -/
  | call (g d o : Nat)
  /-- BRA, R164: Branch to a register target, writing a link. -/
  | bra (g d a x : Nat)
  /-- RET, R164: Return to a register target. -/
  | ret (g a x : Nat)
  /-- LP_BEG_REG, R166: Open a hardware loop level with a count taken from a register. -/
  | lpBegReg (g l a : Nat)
  /-- LP_BEG_IMM, R166: Open a hardware loop level with an immediate count. -/
  | lpBegImm (g l c : Nat)
  /-- LP_IDX, R168: Read a loop index. -/
  | lpIdx (g d k : Nat)
  /-- LP_BRK, R169: Leave the innermost loop. -/
  | lpBrk (g : Nat)
  /-- XCP, R170: Copy between files, or a lane of a vector, into an s or a register. -/
  | xcp (g f d s a l x : Nat)
  /-- XBASE, R171: Set or add an index base. -/
  | xbase (g b r m k : Nat)
  /-- GETM, R172: Read NMR. -/
  | getm (g d : Nat)
  /-- SETM, R172: Write the selected NMR fields. -/
  | setm (g a m : Nat)
  /-- FL_GET, R173: Read FFLAGS, a counter or an identity item. -/
  | flGet (g d s : Nat)
  /-- FL_CLR, R174: Clear FFLAGS bits, the overflow mask or a counter. -/
  | flClr (g s m : Nat)
  /-- TLAUNCH, R363: Launch a task in the caller's revision and return its number. -/
  | tlaunch (g d a x : Nat)
  /-- TFORK, R363: Launch a task in a revision forked from the caller's. -/
  | tfork (g d a x : Nat)
  /-- TJOIN, R365: Wait for a child's closure, merge it, and return the status. -/
  | tjoin (g d a x : Nat)
  /-- TJOIN_ALL, R365: Join every unjoined child of the step in fork order. -/
  | tjoinAll (g : Nat)
  /-- TKILL, R367: Kill a task and its descendants. -/
  | tkill (g a x : Nat)
  /-- RGN_SET, R368: Replace or clear a region of the caller's task. -/
  | rgnSet (g a x : Nat)
  /-- STG_ADV_IMM, R369: Advance the stage by an immediate, gated. -/
  | stgAdvImm (g i : Nat)
  /-- STG_ADV_REG, R369: Advance the stage by a register value, gated. -/
  | stgAdvReg (g a x : Nat)
  /-- STG_SET_IMM, R369: Jump the stage to an immediate, gated. -/
  | stgSetImm (g i : Nat)
  /-- STG_SET_REG, R369: Jump the stage to a register value, gated. -/
  | stgSetReg (g a x : Nat)
  /-- STG_WL_IMM, R370: Wait on an earlier step's stage counter, with an immediate stage. -/
  | stgWlImm (g d i : Nat)
  /-- STG_WL_REG, R370: Wait on an earlier step's stage counter, with a register stage. -/
  | stgWlReg (g d a x : Nat)
  /-- STG_RD, R371: Read a step's stage counter from the cache. -/
  | stgRd (g d k x : Nat)
  /-- TID_SET, R310: Write a TID entry from four s-registers. -/
  | tidSet (g t a x : Nat)
  /-- TID_GET, R311: Read one word of a TID entry. -/
  | tidGet (g t d x w : Nat)
  /-- HEADER, R34: A slot-0 header that sets drain, mark, scope, flag wait/post and LB borrowing for the bundle. -/
  | header (d k s y n c t l : Nat)
  /-- NOP_M, R40: M-slot nop. -/
  | nopM (g : Nat)
  /-- WAITC_IMM, R236: Wait until an ordering counter is at most an immediate. -/
  | waitcImm (g k i : Nat)
  /-- WAITC_REG, R236: Wait until an ordering counter is at most a register value. -/
  | waitcReg (g k a x : Nat)
  /-- XF, R87: Cross-path fence marker. -/
  | xf (g a b : Nat)
  /-- PHASE, R98: Gang barrier with the set-overlap check. -/
  | phase (g : Nat)
  /-- RWS_R, R238: Declare a read-set range. -/
  | rwsR (g p a l x : Nat)
  /-- RWS_W, R238: Declare a write-set range. -/
  | rwsW (g p a l x : Nat)
  /-- FPOST, R232: Gated post to a flag of a gang context. -/
  | fpost (g t f n : Nat)
  /-- FSET, R233: Set the context's own flag. -/
  | fset (g f a x : Nat)
  /-- RC_INC_REG, R235: Add a register amount to a route counter. -/
  | rcIncReg (g c b x : Nat)
  /-- RC_INC_IMM, R235: Add an immediate to a route counter. -/
  | rcIncImm (g c x m : Nat)
  /-- RC_SNAP, R235: Snapshot and clear all 64 route counters. -/
  | rcSnap (g a x : Nat)
  /-- LB, R223: Load a sign-extended byte. -/
  | lb (g f d b x o : Nat)
  /-- LBN, R223: Load a zero-extended byte. -/
  | lbn (g f d b x o : Nat)
  /-- LH, R223: Load a sign-extended halfword. -/
  | lh (g f d b x o : Nat)
  /-- LHN, R223: Load a zero-extended halfword. -/
  | lhn (g f d b x o : Nat)
  /-- LW, R223: Load a sign-extended word. -/
  | lw (g f d b x o : Nat)
  /-- LWN, R223: Load a zero-extended word. -/
  | lwn (g f d b x o : Nat)
  /-- LD, R223: Load a doubleword. -/
  | ld (g f d b x o : Nat)
  /-- SB, R223: Gated byte store. -/
  | sb (g f s b x o : Nat)
  /-- SH, R223: Gated halfword store. -/
  | sh (g f s b x o : Nat)
  /-- SW, R223: Gated word store. -/
  | sw (g f s b x o : Nat)
  /-- SD, R223: Gated doubleword store. -/
  | sd (g f s b x o : Nat)
  /-- VLD, R224: Load a 256-byte vector. -/
  | vld (g f d b m x o : Nat)
  /-- VST, R224: Gated store of a 256-byte vector. -/
  | vst (g f d b m x o : Nat)
  /-- VLDX, R225: Indexed gather. -/
  | vldx (g f d b m x i : Nat)
  /-- VSTX, R225: Gated indexed scatter. -/
  | vstx (g f d b m x i : Nat)
  /-- VLDB, R224: Load one element and broadcast it. -/
  | vldb (g f d b m x o : Nat)
  /-- SPL, R226: Load from the spill store. -/
  | spl (g f r x o : Nat)
  /-- SPS, R226: Gated store to the spill store. -/
  | sps (g f r x o : Nat)
  /-- QBIND, R228: Bind a queue handle. -/
  | qbind (g q a b : Nat)
  /-- QLD, R229: Acquire and load from a queue slot. -/
  | qld (g q f d k o : Nat)
  /-- QST, R229: Acquire and store into a queue slot. -/
  | qst (g q f d k o : Nat)
  /-- QADV_P, R230: Producer publishes filled slots. -/
  | qadvP (g q n : Nat)
  /-- QADV_C, R230: Consumer releases consumed slots. -/
  | qadvC (g q n : Nat)
  /-- QSTAT, R231: Acquire slots and read the queue state. -/
  | qstat (g q d k : Nat)
  /-- ATOM_ADD, R234: Atomic add at the atomic unit. -/
  | atomAdd (g d a b x : Nat)
  /-- ATOM_MIN, R234: Atomic minimum. -/
  | atomMin (g d a b n x : Nat)
  /-- ATOM_MAX, R234: Atomic maximum. -/
  | atomMax (g d a b n x : Nat)
  /-- ATOM_XCHG, R234: Atomic exchange. -/
  | atomXchg (g d a b x : Nat)
  /-- ATOM_CAS, R234: Atomic compare and swap. -/
  | atomCas (g d a b c x : Nat)
  /-- ATOM_INCB, R234: Atomic bounded increment with a predicate result. -/
  | atomIncb (g d a p c x : Nat)
  /-- AADD, R227: Add a register to an address register's LSA. -/
  | aadd (g d a x b : Nat)
  /-- AADDI, R227: Add an immediate to an LSA. -/
  | aaddi (g d a x i : Nat)
  /-- ASHL, R227: Add a shifted register to an LSA. -/
  | ashl (g d a x b k : Nat)
  /-- AMOV, R227: Move an address register, optionally setting ES. -/
  | amov (g d a x e s : Nat)
  /-- SPH_CP, R268: Siphon contiguous copy. -/
  | sphCp (g d s c x u v : Nat)
  /-- SPH_GTH, R271: Siphon indexed gather into the well. -/
  | sphGth (g d t c x : Nat)
  /-- SPH_SCT, R271: Siphon plain indexed scatter. -/
  | sphSct (g t s c x : Nat)
  /-- SPH_SCT_ADD, R271: Siphon exact-add indexed scatter. -/
  | sphSctAdd (g t s c x : Nat)
  /-- SPH_RED, R268: Siphon reduce-copy of exact-transport elements. -/
  | sphRed (g d s c x u v : Nat)
  /-- SPH_FILL, R268: Siphon fill with an 8-byte pattern. -/
  | sphFill (g d p c x v : Nat)
  /-- SPH_ATOM, R272: Siphon atomic on any target, with the old value written into the well. -/
  | sphAtom (g d t c x o : Nat)
  /-- SPH_CNL, R273: Cancel committed restartable siphon commands. -/
  | sphCnl (g a l x : Nat)
  /-- SPH_PRE, R268: Prefetch device memory into the read buffer. -/
  | sphPre (g s c x : Nat)
  /-- SPH_STAT, R274: Read siphon pending-record status. -/
  | sphStat (g d s x : Nat)
  /-- SPH_IMM, R268: Siphon write of up to 8 bytes from a register. -/
  | sphImm (g d v c x w : Nat)
  /-- NOP_V, R40: V-slot nop. -/
  | nopV (g : Nat)
  /-- FFMA, R187: Fused multiply-add on the v-file. -/
  | ffma (g d a b m t r : Nat)
  /-- FFMS, R187: Fused multiply-subtract on the v-file. -/
  | ffms (g d a b m t r : Nat)
  /-- FNMA, R187: Negated fused multiply-add on the v-file. -/
  | fnma (g d a b m t r : Nat)
  /-- FADD, R187: Floating add on the v-file. -/
  | fadd (g d a b m t r : Nat)
  /-- FSUB, R187: Floating subtract on the v-file. -/
  | fsub (g d a b m t r : Nat)
  /-- FMUL, R187: Floating multiply on the v-file. -/
  | fmul (g d a b m t r : Nat)
  /-- FDIV, R187: Floating divide on the v-file. -/
  | fdiv (g d a b m t r : Nat)
  /-- FSQRT, R188: Correctly rounded square root. -/
  | fsqrt (g d a m t r : Nat)
  /-- FRCP, R188: Correctly rounded reciprocal. -/
  | frcp (g d a m t r : Nat)
  /-- FRSQ, R188: Correctly rounded reciprocal square root. -/
  | frsq (g d a m t r : Nat)
  /-- FEXP2, R188: Correctly rounded 2^x. -/
  | fexp2 (g d a m t r : Nat)
  /-- FLOG2, R188: Correctly rounded log2 x. -/
  | flog2 (g d a m t r : Nat)
  /-- FCVT, R192: Convert between element types on the v-file. -/
  | fcvt (g d a e s m r : Nat)
  /-- FMIN, R189: Floating minimum on the v-file. -/
  | fmin (g d a b m t : Nat)
  /-- FMAX, R189: Floating maximum on the v-file. -/
  | fmax (g d a b m t : Nat)
  /-- FABS, R190: Clear the sign bit. -/
  | fabs (g d a m t : Nat)
  /-- FNEG, R190: Invert the sign bit. -/
  | fneg (g d a m t : Nat)
  /-- FSCL, R191: Scale by a power of two. -/
  | fscl (g d a b m t : Nat)
  /-- FCMP, R193: Floating compare into a mask. -/
  | fcmp (g e a b m t c : Nat)
  /-- ICMP, R193: Integer compare into a mask. -/
  | icmp (g e a b m t c : Nat)
  /-- IADD, R194: Lane-wise integer add. -/
  | iadd (g d a b m n s : Nat)
  /-- ISUB, R194: Lane-wise integer subtract. -/
  | isub (g d a b m n s : Nat)
  /-- IMUL, R194: Lane-wise integer multiply. -/
  | imul (g d a b m n s : Nat)
  /-- IMIN, R194: Lane-wise integer minimum. -/
  | imin (g d a b m n s : Nat)
  /-- IMAX, R194: Lane-wise integer maximum. -/
  | imax (g d a b m n s : Nat)
  /-- IAND, R194: Lane-wise AND. -/
  | iand (g d a b m n s : Nat)
  /-- IOR, R194: Lane-wise OR. -/
  | ior (g d a b m n s : Nat)
  /-- IXOR, R194: Lane-wise XOR. -/
  | ixor (g d a b m n s : Nat)
  /-- ISHL, R194: Lane-wise shift left. -/
  | ishl (g d a b m n s : Nat)
  /-- ISHR, R194: Lane-wise logical shift right. -/
  | ishr (g d a b m n s : Nat)
  /-- ISHA, R194: Lane-wise arithmetic shift right. -/
  | isha (g d a b m n s : Nat)
  /-- VSEL, R196: Merge lanes under a mask. -/
  | vsel (g d a m s : Nat)
  /-- VPERM, R197: Permute lanes by an index vector. -/
  | vperm (g d a b s : Nat)
  /-- VBC_LANE, R198: Broadcast a lane of a register. -/
  | vbcLane (g d s a l : Nat)
  /-- VBC_IMM, R198: Broadcast an immediate, low or high. -/
  | vbcImm (g d s p i : Nat)
  /-- VMOV, R196: Zeroing masked copy. -/
  | vmov (g d a m s : Nat)
  /-- VSUM, R199: Pairwise-order sum reduction. -/
  | vsum (g d a m t : Nat)
  /-- VMAXR, R199: Maximum reduction. -/
  | vmaxr (g d a m t : Nat)
  /-- VMINR, R199: Minimum reduction. -/
  | vminr (g d a m t : Nat)
  /-- VEXPMAX, R200: Largest exponent and class summary over the lanes. -/
  | vexpmax (g d a m t : Nat)
  /-- VNZS, R201: List the live lanes. -/
  | vnzs (g d a m e s f : Nat)
  /-- VCMPK, R202: Pack the active mask units. -/
  | vcmpk (g d a m e s : Nat)
  /-- FCLS, R203: Classify floating lanes. -/
  | fcls (g d a m t : Nat)
  /-- MAND, R204: Mask AND. -/
  | mand (g e a b : Nat)
  /-- MOR, R204: Mask OR. -/
  | mor (g e a b : Nat)
  /-- MNOT, R204: Mask NOT. -/
  | mnot (g e a : Nat)
  /-- MPOP, R204: Mask population count and lowest set bit. -/
  | mpop (g d a : Nat)
  /-- VSP, R205: Report whether the spout latch holds a row, and its tag. -/
  | vsp (g d p : Nat)
  /-- NOP_X, R40: X-slot nop. -/
  | nopX (g : Nat)
  /-- FFMA_W, R186: Fused multiply-add on the w-file. -/
  | ffmaW (g d a b m t r : Nat)
  /-- FFMS_W, R186: Fused multiply-subtract on the w-file. -/
  | ffmsW (g d a b m t r : Nat)
  /-- FNMA_W, R186: Negated fused multiply-add on the w-file. -/
  | fnmaW (g d a b m t r : Nat)
  /-- FADD_W, R186: Floating add on the w-file. -/
  | faddW (g d a b m t r : Nat)
  /-- FSUB_W, R186: Floating subtract on the w-file. -/
  | fsubW (g d a b m t r : Nat)
  /-- FMUL_W, R186: Floating multiply on the w-file. -/
  | fmulW (g d a b m t r : Nat)
  /-- FCVT_W, R186: Conversion on the w-file. -/
  | fcvtW (g d a e s m r : Nat)
  /-- FMIN_W, R186: Floating minimum on the w-file. -/
  | fminW (g d a b m t : Nat)
  /-- FMAX_W, R186: Floating maximum on the w-file. -/
  | fmaxW (g d a b m t : Nat)
  /-- FABS_W, R186: Clear the sign bit on the w-file. -/
  | fabsW (g d a m t : Nat)
  /-- FNEG_W, R186: Invert the sign bit on the w-file. -/
  | fnegW (g d a m t : Nat)
  /-- FSCL_W, R186: Scale by a power of two on the w-file. -/
  | fsclW (g d a b m t : Nat)
  /-- IADD_W, R186: Integer add on the w-file. -/
  | iaddW (g d a b m n s : Nat)
  /-- ISUB_W, R186: Integer subtract on the w-file. -/
  | isubW (g d a b m n s : Nat)
  /-- IMUL_W, R186: Integer multiply on the w-file. -/
  | imulW (g d a b m n s : Nat)
  /-- IMIN_W, R186: Integer minimum on the w-file. -/
  | iminW (g d a b m n s : Nat)
  /-- IMAX_W, R186: Integer maximum on the w-file. -/
  | imaxW (g d a b m n s : Nat)
  /-- IAND_W, R186: AND on the w-file. -/
  | iandW (g d a b m n s : Nat)
  /-- IOR_W, R186: OR on the w-file. -/
  | iorW (g d a b m n s : Nat)
  /-- IXOR_W, R186: XOR on the w-file. -/
  | ixorW (g d a b m n s : Nat)
  /-- ISHL_W, R186: Shift left on the w-file. -/
  | ishlW (g d a b m n s : Nat)
  /-- ISHR_W, R186: Logical shift right on the w-file. -/
  | ishrW (g d a b m n s : Nat)
  /-- ISHA_W, R186: Arithmetic shift right on the w-file. -/
  | ishaW (g d a b m n s : Nat)
  /-- MLD, R312: Load a stationary tile into the context's slot. -/
  | mld (g t a x o : Nat)
  /-- MCB, R313: Load a TID's codebook. -/
  | mcb (g t a x : Nat)
  /-- MSC, R313: Load the context's scale table. -/
  | msc (g a x : Nat)
  /-- BAG_OPEN, R315: Open a bag and claim or continue its sump range. -/
  | bagOpen (g c x e : Nat)
  /-- BAG_ROWS, R317: Feed well or queue rows to the open bag. -/
  | bagRows (g c x q n : Nat)
  /-- BAG_PUMP, R318: Gated row-pump feed of indexed table rows. -/
  | bagPump (g c x : Nat)
  /-- BAG_CLOSE, R319: End the open bag. -/
  | bagClose (g : Nat)
  /-- BAG_REP, R320: Snapshot the bag's row progress into the well. -/
  | bagRep (g a x : Nat)
  /-- SUMP_DR, R321: Drain a sump range to the well and/or the latch. -/
  | sumpDr (g c x t r f s : Nat)
  /-- SUMP_CLR, R322: Clear a sump range, optionally freeing it and clearing WX and WO. -/
  | sumpClr (g h c x f : Nat)
  /-- ZLD, R324: Load pairs into a stream register. -/
  | zld (g z a b x : Nat)
  /-- ZST, R324: Store a stream register's pairs, ungated. -/
  | zst (g z a x : Nat)
  /-- ZIS, R325: Key intersection of two streams. -/
  | zis (g z a b o : Nat)
  /-- ZUN, R325: Key union of two streams. -/
  | zun (g z a b o : Nat)
  /-- ZSB, R325: Key difference of two streams. -/
  | zsb (g z a b : Nat)
  /-- ZMA, R326: Exact sparse dot product rounded once to f32. -/
  | zma (g d a b : Nat)
  /-- ZLEN, R327: Length of a stream register. -/
  | zlen (g d z : Nat)
  /-- ISSUE_BUNDLE, R51: A context fetches a bundle, passes its drain, waits and checks, and issues all its slots in one issue cycle. -/
  | issueBundle
  /-- RESULT_LAND, R49: A pending register write falls due and is applied at the start of the owning context's issue cycle, with collisions
  resolved and its flags landed. -/
  | resultLand
  /-- STORE_PERFORM, R82: The write-out queue sends one committed store or scatter per clock cycle to its bank. -/
  | storePerform
  /-- ATOMIC_PERFORM, R217: A core-path atomic reaches the cistern atomic unit and is performed indivisibly on its word. -/
  | atomicPerform
  /-- FLAG_POST_EFFECT, R216: A released flag post takes effect at its target, summed with the cycle's other posts and clipped. -/
  | flagPostEffect
  /-- OVERLAP_YIELD, R141: The younger context's overlap count reaches 64, and the older context is held for one cycle. -/
  | overlapYield
  /-- WATCHDOG_TRAP, R154: The watchdog count reaches 2^28 without a progress point, and the context takes the watchdog trap. -/
  | watchdogTrap
  /-- KILL, R149: A kill reaches a context, which stops issuing and discards its gate, array hold and pending writes. -/
  | kill
  /-- SIPHON_TRANSFER, R255: A committed siphon command moves its bytes under its form and scope. -/
  | siphonTransfer
  /-- SIPHON_COMPLETE, R241: A command's last byte is performed at its scope, and its counters fall and its flag is posted. -/
  | siphonComplete
  /-- RESERVE_REFUSAL_RETRY, R254: The back-off after an empty revision reserve expires, and acceptance steps 6 to 8 run again. -/
  | reserveRefusalRetry
  /-- FAULT_RECORD_OFFER, R251: An engine offers a fault record; the unit writes it, advances HEAD and posts the service flag, or refuses
  it. -/
  | faultRecordOffer
  /-- FAULT_RECORD_RETRY, R252: The back-off for a refused fault record expires, and the record is offered again. -/
  | faultRecordRetry
  /-- PREEMPT_REQUEST, R342: The task engine chooses a victim step and asks for its tiles. -/
  | preemptRequest
  /-- PREEMPT_WITHDRAW, R343: A pre-emption request not honoured within 2^22 clock cycles is withdrawn. -/
  | preemptWithdraw
  /-- GANG_PREEMPT, R343: Once every context has stopped, the gang's siphons quiesce and its save areas and images are saved. -/
  | gangPreempt
  /-- STEP_PLACE, R339: The walker places a ready step on free tiles, writes the gang map and starts all its contexts together. -/
  | stepPlace
  /-- STEP_RESUME, R263: A pre-empted step is placed again, with counters, allocations and tile images restored and pending records
  re-issued. -/
  | stepResume
  /-- STEP_RETIRE, R95: A step whose contexts have exited retires once all its accesses are performed. -/
  | stepRetire
  /-- TASK_COMPLETE, R337: A task whose steps have retired auto-joins its children and writes its completion record. -/
  | taskComplete
  /-- TASK_AGEING, R338: Every 2^20 clock cycles of waiting raises a ready task's effective priority. -/
  | taskAgeing
  /-- STAGE_APPLY, R344: The stage board applies the released stage effects of a step, once per clock cycle. -/
  | stageApply
  /-- STAGE_CACHE_UPDATE, R345: An applied stage value reaches a cistern's cache. -/
  | stageCacheUpdate
  /-- FORK_SNAPSHOT, R347: Once earlier committed commands are done, the task engine copies the parent's tables and creates the child
  revision. -/
  | forkSnapshot
  /-- JOIN_MERGE, R351: Once a child's revision is closed, the merge engine merges its pages into the parent and writes the merge report. -/
  | joinMerge
  /-- REVISION_RESERVE_RETRY, R359: The back-off after a refused fork or merge frame expires, and the operation is retried. -/
  | revisionReserveRetry
  /-- ARRAY_OP_START, R144: A committed array operation is released from the array hold and begins at the matrix engine. -/
  | arrayOpStart
  /-- ROW_IN, R280: A row reaches the sump or spout 48 clock cycles after it enters the array, and its products are added. -/
  | rowIn
  /-- PUMP_FEED_BEGIN, R298: A pump feed begins reading its lists once its stores are performed, and runs the entry checks. -/
  | pumpFeedBegin
  /-- PUMP_FETCH_RETURN, R297: A pump fetch of a key returns, arrives, or fails and faults or parks its entries. -/
  | pumpFetchReturn
  /-- PUMP_WALK_RETRY, R297: The back-off of a parked WAIT key expires, and its walk is retried. -/
  | pumpWalkRetry
  /-- QUEUE_STAGE_ADVANCE, R20: After a stage's last operand read, the matrix engine advances the consumer pointer and posts the producer
  flag. -/
  | queueStageAdvance
  /-- BAG_CLOSE_COMPLETE, R287: Once every feed has settled, the close writes the bag report and posts the completion flag. -/
  | bagCloseComplete
  /-- DRAIN_ROW, R291: A drain emits one tag group per clock cycle to the well and/or the latch, and c.drn falls after the last. -/
  | drainRow
  /-- SPOUT_LATCH_ENTRY, R293: A latch-bound row enters the free spout latch, and its steer flags land. -/
  | spoutLatchEntry
  /-- TLB_INVALIDATE_COMPLETE, R383: A TLB invalidation completes once old entries are gone and committed commands holding old frames are
  done. -/
  | tlbInvalidateComplete
  /-- ROOT_LAUNCH, R29: A host write to ROOT launches the root task, or is refused and sets LR. -/
  | rootLaunch
  /-- FLAG_WINDOW_POST, R382: A host write to a flag-window cell posts its value to that flag. -/
  | flagWindowPost
  /-- TLBINV, R383: A host write to TLBINV starts the invalidation of a revision's TLB entries. -/
  | tlbinv
  /-- CLRMIN, R380: Writing CLRMIN clears FAILS and MIN at the next start. -/
  | clrmin
  /-- RST, R380: Writing RST resets the module, and every task is lost. -/
  | rst
  /-- DACK, R380: Writing DACK acknowledges the dump, so STATE returns to 4 after the next start. -/
  | dack
  /-- LR_CLEAR, R379: Writing 1 to STATUS.LR clears the launch-refused bit. -/
  | lrClear
  /-- REGISTER_WRITE, R381: A write to a configuration register takes effect only when STATE is 4 and no root task is live, and otherwise
  sets LR. -/
  | registerWrite
  /-- HOST_MEM_WRITE, R377: A host CXL.mem write is performed at its HBM controller and invalidates matching read-buffer lines. -/
  | hostMemWrite
  /-- HOST_MEM_READ, R377: A host CXL.mem read is served at the HBM controller. -/
  | hostMemRead
  /-- MAILBOX_SPDM, R390: An SPDM request over the DOE mailbox is answered, with signed measurements where asked. -/
  | mailboxSpdm
  /-- ERROR_LOG_READ, R393: A mailbox request returns the error logs. -/
  | errorLogRead
  /-- ERROR_LOG_CLEAR, R393: A mailbox request clears the error logs. -/
  | errorLogClear
  /-- BOOT_START, R387: A power-on or reset begins start-up at the root-of-trust ROM, or enters minimal mode when FAILS is 3. -/
  | bootStart
  /-- BOOT_STAGE_DONE, R387: A start-up stage finishes its work and verifies the next stage, or fails. -/
  | bootStageDone
  /-- BOOT_WATCHDOG, R389: The boot watchdog expires, and the start fails with reason 0x06. -/
  | bootWatchdog
  /-- FLIT_CRC_FAIL, R384: A gale flit fails its CRC and is replayed in order from the replay buffer. -/
  | flitCrcFail
  /-- LANE_PERSISTENT_FAULT, R385: A lane reaches 16 replays in 1 ms, and the link retrains at half width or goes down. -/
  | lanePersistentFault
  /-- FATAL_ERROR, R394: A fatal error stops every context, sets STATE 6 and reports through AER. -/
  | fatalError
  /-- DUMP_COMPLETE, R395: Firmware finishes writing the dump and its digest, and STATE becomes 7. -/
  | dumpComplete
  /-- THERMAL_TRIP, R398: The junction reaches 105 °C: a fatal error during a run, or a failed start during start-up. -/
  | thermalTrip
  /-- CLOCK_CHANGE, R6: The power manager changes the arithmetic clock between clock cycles. -/
  | clockChange
  /-- PEER_CONTAINED, R396: A device of the domain is contained, and its memory is treated as lost. -/
  | peerContained
  /-- GALE_REMOTE_ACCESS, R264: A read, write, atomic or exact add arriving over the gale links from another device of the domain is served
  at this device's HBM controller and invalidates the matching lines of its siphon read buffers. -/
  | galeRemoteAccess
  /-- LINK_RETRAIN_COMPLETE, R385: A gale link that began retraining on one lane group finishes within 50 µs and resumes sending the flits
  held in its replay buffer at 112 GB/s. -/
  | linkRetrainComplete
  /-- ARRAY_OP_COMPLETE, R279: A begun array operation that takes many clock cycles, such as an mld tile load or a sump.clr, finishes at the
  matrix engine: the slot holds the tile or is emptied with a deferred machine check, and a freed range becomes claimable. -/
  | arrayOpComplete
  /-- POWER_TRIP, R388: A power trip during start-up stops that start with reason 0x08 and counts as a failed start, and during a run it is
  a fatal error. -/
  | powerTrip
  /-- MAILBOX_IMAGE_REPLACE, R389: The host replaces a start-up image through the mailbox, as it must do to leave minimal mode after a bad
  image. -/
  | mailboxImageReplace
  deriving DecidableEq, Repr, Inhabited

end Sys2Proof
end

