-- ==== Sys2Proof/WellFormed.lean ====
section
/-! DEFINITION. Well-formed instructions: every field fits its bits (R37 and the formats), and the slot word
keeps the items of R45 that one word alone can break (items 1, 3, 4 and 7, and R35 for a header).  What only
a whole bundle can break (items 2, 5 and 6) is checked with the bundle in Decode.  An event has no fields.  The codes
0xFF00 to 0xFF02 of `sysc` are the words of the three step-control rows (R179), so a `sysc` has another code. -/

namespace Sys2Proof

/-- Every number of the list fits the field width it is paired with. -/
def fits (l : List (Nat × Nat)) : Bool :=
  l.all fun p => decide (p.1 < 2 ^ p.2)

/-- The lowest item number among the broken ones. -/
def firstBroken : List (Nat × Bool) → Option Nat
  | [] => none
  | (n, ok) :: rest => if ok then firstBroken rest else some n

/-- Every field of a slot word fits its bits; an event has none. -/
def Instr.fieldsFit : Instr → Bool
  | .issueBundle => true
  | .resultLand => true
  | .storePerform => true
  | .atomicPerform => true
  | .flagPostEffect => true
  | .overlapYield => true
  | .watchdogTrap => true
  | .kill => true
  | .siphonTransfer => true
  | .siphonComplete => true
  | .reserveRefusalRetry => true
  | .faultRecordOffer => true
  | .faultRecordRetry => true
  | .preemptRequest => true
  | .preemptWithdraw => true
  | .gangPreempt => true
  | .stepPlace => true
  | .stepResume => true
  | .stepRetire => true
  | .taskComplete => true
  | .taskAgeing => true
  | .stageApply => true
  | .stageCacheUpdate => true
  | .forkSnapshot => true
  | .joinMerge => true
  | .revisionReserveRetry => true
  | .arrayOpStart => true
  | .rowIn => true
  | .pumpFeedBegin => true
  | .pumpFetchReturn => true
  | .pumpWalkRetry => true
  | .queueStageAdvance => true
  | .bagCloseComplete => true
  | .drainRow => true
  | .spoutLatchEntry => true
  | .tlbInvalidateComplete => true
  | .rootLaunch => true
  | .flagWindowPost => true
  | .tlbinv => true
  | .clrmin => true
  | .rst => true
  | .dack => true
  | .lrClear => true
  | .registerWrite => true
  | .hostMemWrite => true
  | .hostMemRead => true
  | .mailboxSpdm => true
  | .errorLogRead => true
  | .errorLogClear => true
  | .bootStart => true
  | .bootStageDone => true
  | .bootWatchdog => true
  | .flitCrcFail => true
  | .lanePersistentFault => true
  | .fatalError => true
  | .dumpComplete => true
  | .thermalTrip => true
  | .clockChange => true
  | .peerContained => true
  | .nopS g => fits [(g, 4)]
  | .yield g => fits [(g, 4)]
  | .exit g => fits [(g, 4)]
  | .trap g c => fits [(g, 4), (c, 16)]
  | .sysc g c => fits [(g, 4), (c, 16)]
  | .brk g c => fits [(g, 4), (c, 16)]
  | .syscResume g => fits [(g, 4)]
  | .syscKillStep g => fits [(g, 4)]
  | .syscLocate g => fits [(g, 4)]
  | .add g d a b x => fits [(g, 4), (d, 5), (a, 5), (b, 5), (x, 1)]
  | .sub g d a b x => fits [(g, 4), (d, 5), (a, 5), (b, 5), (x, 1)]
  | .mul g d a b x => fits [(g, 4), (d, 5), (a, 5), (b, 5), (x, 1)]
  | .mulh g d a b x => fits [(g, 4), (d, 5), (a, 5), (b, 5), (x, 1)]
  | .mulhn g d a b x => fits [(g, 4), (d, 5), (a, 5), (b, 5), (x, 1)]
  | .div g d a b x => fits [(g, 4), (d, 5), (a, 5), (b, 5), (x, 1)]
  | .divn g d a b x => fits [(g, 4), (d, 5), (a, 5), (b, 5), (x, 1)]
  | .rem g d a b x => fits [(g, 4), (d, 5), (a, 5), (b, 5), (x, 1)]
  | .remn g d a b x => fits [(g, 4), (d, 5), (a, 5), (b, 5), (x, 1)]
  | .and g d a b x => fits [(g, 4), (d, 5), (a, 5), (b, 5), (x, 1)]
  | .or g d a b x => fits [(g, 4), (d, 5), (a, 5), (b, 5), (x, 1)]
  | .xor g d a b x => fits [(g, 4), (d, 5), (a, 5), (b, 5), (x, 1)]
  | .andn g d a b x => fits [(g, 4), (d, 5), (a, 5), (b, 5), (x, 1)]
  | .shl g d a b x => fits [(g, 4), (d, 5), (a, 5), (b, 5), (x, 1)]
  | .shr g d a b x => fits [(g, 4), (d, 5), (a, 5), (b, 5), (x, 1)]
  | .sha g d a b x => fits [(g, 4), (d, 5), (a, 5), (b, 5), (x, 1)]
  | .min g d a b x => fits [(g, 4), (d, 5), (a, 5), (b, 5), (x, 1)]
  | .max g d a b x => fits [(g, 4), (d, 5), (a, 5), (b, 5), (x, 1)]
  | .minn g d a b x => fits [(g, 4), (d, 5), (a, 5), (b, 5), (x, 1)]
  | .maxn g d a b x => fits [(g, 4), (d, 5), (a, 5), (b, 5), (x, 1)]
  | .clz g d a x => fits [(g, 4), (d, 5), (a, 5), (x, 1)]
  | .popc g d a x => fits [(g, 4), (d, 5), (a, 5), (x, 1)]
  | .addi g d a x i => fits [(g, 4), (d, 5), (a, 5), (x, 1), (i, 9)]
  | .muli g d a x i => fits [(g, 4), (d, 5), (a, 5), (x, 1), (i, 9)]
  | .andi g d a x i => fits [(g, 4), (d, 5), (a, 5), (x, 1), (i, 9)]
  | .ori g d a x i => fits [(g, 4), (d, 5), (a, 5), (x, 1), (i, 9)]
  | .xori g d a x i => fits [(g, 4), (d, 5), (a, 5), (x, 1), (i, 9)]
  | .andni g d a x i => fits [(g, 4), (d, 5), (a, 5), (x, 1), (i, 9)]
  | .shli g d a x i => fits [(g, 4), (d, 5), (a, 5), (x, 1), (i, 6)]
  | .shri g d a x i => fits [(g, 4), (d, 5), (a, 5), (x, 1), (i, 6)]
  | .shai g d a x i => fits [(g, 4), (d, 5), (a, 5), (x, 1), (i, 6)]
  | .mini g d a x i => fits [(g, 4), (d, 5), (a, 5), (x, 1), (i, 9)]
  | .maxi g d a x i => fits [(g, 4), (d, 5), (a, 5), (x, 1), (i, 9)]
  | .minni g d a x i => fits [(g, 4), (d, 5), (a, 5), (x, 1), (i, 9)]
  | .maxni g d a x i => fits [(g, 4), (d, 5), (a, 5), (x, 1), (i, 9)]
  | .ceq g p a b x => fits [(g, 4), (p, 4), (a, 5), (b, 5), (x, 1)]
  | .cne g p a b x => fits [(g, 4), (p, 4), (a, 5), (b, 5), (x, 1)]
  | .clt g p a b x => fits [(g, 4), (p, 4), (a, 5), (b, 5), (x, 1)]
  | .cle g p a b x => fits [(g, 4), (p, 4), (a, 5), (b, 5), (x, 1)]
  | .cltn g p a b x => fits [(g, 4), (p, 4), (a, 5), (b, 5), (x, 1)]
  | .clen g p a b x => fits [(g, 4), (p, 4), (a, 5), (b, 5), (x, 1)]
  | .ceqi g p a i => fits [(g, 4), (p, 4), (a, 5), (i, 12)]
  | .cnei g p a i => fits [(g, 4), (p, 4), (a, 5), (i, 12)]
  | .clti g p a i => fits [(g, 4), (p, 4), (a, 5), (i, 12)]
  | .clei g p a i => fits [(g, 4), (p, 4), (a, 5), (i, 12)]
  | .cltni g p a i => fits [(g, 4), (p, 4), (a, 5), (i, 12)]
  | .cleni g p a i => fits [(g, 4), (p, 4), (a, 5), (i, 12)]
  | .lih g d h i => fits [(g, 4), (d, 5), (h, 2), (i, 16)]
  | .lihK g d h i => fits [(g, 4), (d, 5), (h, 2), (i, 16)]
  | .sel g d a b p x => fits [(g, 4), (d, 5), (a, 5), (b, 5), (p, 4), (x, 1)]
  | .pand g d a b => fits [(g, 4), (d, 4), (a, 4), (b, 4)]
  | .por g d a b => fits [(g, 4), (d, 4), (a, 4), (b, 4)]
  | .pxor g d a b => fits [(g, 4), (d, 4), (a, 4), (b, 4)]
  | .pset g d v => fits [(g, 4), (d, 4), (v, 1)]
  | .br g o => fits [(g, 4), (o, 22)]
  | .call g d o => fits [(g, 4), (d, 5), (o, 17)]
  | .bra g d a x => fits [(g, 4), (d, 5), (a, 5), (x, 1)]
  | .ret g a x => fits [(g, 4), (a, 5), (x, 1)]
  | .lpBegReg g l a => fits [(g, 4), (l, 9), (a, 5)]
  | .lpBegImm g l c => fits [(g, 4), (l, 9), (c, 12)]
  | .lpIdx g d k => fits [(g, 4), (d, 5), (k, 3)]
  | .lpBrk g => fits [(g, 4)]
  | .xcp g f d s a l x => fits [(g, 4), (f, 1), (d, 5), (s, 2), (a, 5), (l, 5), (x, 1)]
  | .xbase g b r m k => fits [(g, 4), (b, 2), (r, 1), (m, 1), (k, 5)]
  | .getm g d => fits [(g, 4), (d, 5)]
  | .setm g a m => fits [(g, 4), (a, 5), (m, 5)]
  | .flGet g d s => fits [(g, 4), (d, 5), (s, 3)]
  | .flClr g s m => fits [(g, 4), (s, 2), (m, 7)]
  | .tlaunch g d a x => fits [(g, 4), (d, 5), (a, 5), (x, 1)]
  | .tfork g d a x => fits [(g, 4), (d, 5), (a, 5), (x, 1)]
  | .tjoin g d a x => fits [(g, 4), (d, 5), (a, 5), (x, 1)]
  | .tjoinAll g => fits [(g, 4)]
  | .tkill g a x => fits [(g, 4), (a, 5), (x, 1)]
  | .rgnSet g a x => fits [(g, 4), (a, 5), (x, 1)]
  | .stgAdvImm g i => fits [(g, 4), (i, 16)]
  | .stgAdvReg g a x => fits [(g, 4), (a, 5), (x, 1)]
  | .stgSetImm g i => fits [(g, 4), (i, 16)]
  | .stgSetReg g a x => fits [(g, 4), (a, 5), (x, 1)]
  | .stgWlImm g d i => fits [(g, 4), (d, 4), (i, 15)]
  | .stgWlReg g d a x => fits [(g, 4), (d, 4), (a, 5), (x, 1)]
  | .stgRd g d k x => fits [(g, 4), (d, 5), (k, 4), (x, 1)]
  | .tidSet g t a x => fits [(g, 4), (t, 6), (a, 5), (x, 1)]
  | .tidGet g t d x w => fits [(g, 4), (t, 6), (d, 5), (x, 1), (w, 2)]
  | .header d k s y n c t l => fits [(d, 1), (k, 1), (s, 2), (y, 2), (n, 5), (c, 4), (t, 2), (l, 11)]
  | .nopM g => fits [(g, 4)]
  | .waitcImm g k i => fits [(g, 4), (k, 3), (i, 16)]
  | .waitcReg g k a x => fits [(g, 4), (k, 3), (a, 5), (x, 1)]
  | .xf g a b => fits [(g, 4), (a, 3), (b, 3)]
  | .phase g => fits [(g, 4)]
  | .rwsR g p a l x => fits [(g, 4), (p, 3), (a, 5), (l, 5), (x, 1)]
  | .rwsW g p a l x => fits [(g, 4), (p, 3), (a, 5), (l, 5), (x, 1)]
  | .fpost g t f n => fits [(g, 4), (t, 4), (f, 5), (n, 4)]
  | .fset g f a x => fits [(g, 4), (f, 5), (a, 5), (x, 1)]
  | .rcIncReg g c b x => fits [(g, 4), (c, 5), (b, 5), (x, 1)]
  | .rcIncImm g c x m => fits [(g, 4), (c, 5), (x, 1), (m, 8)]
  | .rcSnap g a x => fits [(g, 4), (a, 5), (x, 1)]
  | .lb g f d b x o => fits [(g, 4), (f, 1), (d, 5), (b, 5), (x, 1), (o, 9)]
  | .lbn g f d b x o => fits [(g, 4), (f, 1), (d, 5), (b, 5), (x, 1), (o, 9)]
  | .lh g f d b x o => fits [(g, 4), (f, 1), (d, 5), (b, 5), (x, 1), (o, 9)]
  | .lhn g f d b x o => fits [(g, 4), (f, 1), (d, 5), (b, 5), (x, 1), (o, 9)]
  | .lw g f d b x o => fits [(g, 4), (f, 1), (d, 5), (b, 5), (x, 1), (o, 9)]
  | .lwn g f d b x o => fits [(g, 4), (f, 1), (d, 5), (b, 5), (x, 1), (o, 9)]
  | .ld g f d b x o => fits [(g, 4), (f, 1), (d, 5), (b, 5), (x, 1), (o, 9)]
  | .sb g f s b x o => fits [(g, 4), (f, 1), (s, 5), (b, 5), (x, 1), (o, 10)]
  | .sh g f s b x o => fits [(g, 4), (f, 1), (s, 5), (b, 5), (x, 1), (o, 10)]
  | .sw g f s b x o => fits [(g, 4), (f, 1), (s, 5), (b, 5), (x, 1), (o, 10)]
  | .sd g f s b x o => fits [(g, 4), (f, 1), (s, 5), (b, 5), (x, 1), (o, 10)]
  | .vld g f d b m x o => fits [(g, 4), (f, 1), (d, 5), (b, 5), (m, 3), (x, 1), (o, 6)]
  | .vst g f d b m x o => fits [(g, 4), (f, 1), (d, 5), (b, 5), (m, 3), (x, 1), (o, 6)]
  | .vldx g f d b m x i => fits [(g, 4), (f, 1), (d, 5), (b, 5), (m, 3), (x, 1), (i, 5)]
  | .vstx g f d b m x i => fits [(g, 4), (f, 1), (d, 5), (b, 5), (m, 3), (x, 1), (i, 5)]
  | .vldb g f d b m x o => fits [(g, 4), (f, 1), (d, 5), (b, 5), (m, 3), (x, 1), (o, 6)]
  | .spl g f r x o => fits [(g, 4), (f, 2), (r, 5), (x, 1), (o, 12)]
  | .sps g f r x o => fits [(g, 4), (f, 2), (r, 5), (x, 1), (o, 12)]
  | .qbind g q a b => fits [(g, 4), (q, 4), (a, 5), (b, 5)]
  | .qld g q f d k o => fits [(g, 4), (q, 4), (f, 2), (d, 5), (k, 6), (o, 4)]
  | .qst g q f d k o => fits [(g, 4), (q, 4), (f, 2), (d, 5), (k, 6), (o, 4)]
  | .qadvP g q n => fits [(g, 4), (q, 4), (n, 13)]
  | .qadvC g q n => fits [(g, 4), (q, 4), (n, 13)]
  | .qstat g q d k => fits [(g, 4), (q, 4), (d, 5), (k, 6)]
  | .atomAdd g d a b x => fits [(g, 4), (d, 5), (a, 5), (b, 5), (x, 1)]
  | .atomMin g d a b n x => fits [(g, 4), (d, 5), (a, 5), (b, 5), (n, 1), (x, 1)]
  | .atomMax g d a b n x => fits [(g, 4), (d, 5), (a, 5), (b, 5), (n, 1), (x, 1)]
  | .atomXchg g d a b x => fits [(g, 4), (d, 5), (a, 5), (b, 5), (x, 1)]
  | .atomCas g d a b c x => fits [(g, 4), (d, 5), (a, 5), (b, 5), (c, 5), (x, 1)]
  | .atomIncb g d a p c x => fits [(g, 4), (d, 5), (a, 5), (p, 4), (c, 5), (x, 1)]
  | .aadd g d a x b => fits [(g, 4), (d, 5), (a, 5), (x, 1), (b, 5)]
  | .aaddi g d a x i => fits [(g, 4), (d, 5), (a, 5), (x, 1), (i, 11)]
  | .ashl g d a x b k => fits [(g, 4), (d, 5), (a, 5), (x, 1), (b, 5), (k, 3)]
  | .amov g d a x e s => fits [(g, 4), (d, 5), (a, 5), (x, 1), (e, 2), (s, 1)]
  | .sphCp g d s c x u v => fits [(g, 4), (d, 5), (s, 5), (c, 5), (x, 1), (u, 1), (v, 1)]
  | .sphGth g d t c x => fits [(g, 4), (d, 5), (t, 5), (c, 5), (x, 1)]
  | .sphSct g t s c x => fits [(g, 4), (t, 5), (s, 5), (c, 5), (x, 1)]
  | .sphSctAdd g t s c x => fits [(g, 4), (t, 5), (s, 5), (c, 5), (x, 1)]
  | .sphRed g d s c x u v => fits [(g, 4), (d, 5), (s, 5), (c, 5), (x, 1), (u, 1), (v, 1)]
  | .sphFill g d p c x v => fits [(g, 4), (d, 5), (p, 5), (c, 5), (x, 1), (v, 1)]
  | .sphAtom g d t c x o => fits [(g, 4), (d, 5), (t, 5), (c, 5), (x, 1), (o, 3)]
  | .sphCnl g a l x => fits [(g, 4), (a, 5), (l, 1), (x, 1)]
  | .sphPre g s c x => fits [(g, 4), (s, 5), (c, 5), (x, 1)]
  | .sphStat g d s x => fits [(g, 4), (d, 5), (s, 2), (x, 1)]
  | .sphImm g d v c x w => fits [(g, 4), (d, 5), (v, 5), (c, 5), (x, 1), (w, 1)]
  | .nopV g => fits [(g, 4)]
  | .ffma g d a b m t r => fits [(g, 4), (d, 5), (a, 5), (b, 5), (m, 3), (t, 3), (r, 3)]
  | .ffms g d a b m t r => fits [(g, 4), (d, 5), (a, 5), (b, 5), (m, 3), (t, 3), (r, 3)]
  | .fnma g d a b m t r => fits [(g, 4), (d, 5), (a, 5), (b, 5), (m, 3), (t, 3), (r, 3)]
  | .fadd g d a b m t r => fits [(g, 4), (d, 5), (a, 5), (b, 5), (m, 3), (t, 3), (r, 3)]
  | .fsub g d a b m t r => fits [(g, 4), (d, 5), (a, 5), (b, 5), (m, 3), (t, 3), (r, 3)]
  | .fmul g d a b m t r => fits [(g, 4), (d, 5), (a, 5), (b, 5), (m, 3), (t, 3), (r, 3)]
  | .fdiv g d a b m t r => fits [(g, 4), (d, 5), (a, 5), (b, 5), (m, 3), (t, 3), (r, 3)]
  | .fsqrt g d a m t r => fits [(g, 4), (d, 5), (a, 5), (m, 3), (t, 3), (r, 3)]
  | .frcp g d a m t r => fits [(g, 4), (d, 5), (a, 5), (m, 3), (t, 3), (r, 3)]
  | .frsq g d a m t r => fits [(g, 4), (d, 5), (a, 5), (m, 3), (t, 3), (r, 3)]
  | .fexp2 g d a m t r => fits [(g, 4), (d, 5), (a, 5), (m, 3), (t, 3), (r, 3)]
  | .flog2 g d a m t r => fits [(g, 4), (d, 5), (a, 5), (m, 3), (t, 3), (r, 3)]
  | .fcvt g d a e s m r => fits [(g, 4), (d, 5), (a, 5), (e, 4), (s, 4), (m, 3), (r, 3)]
  | .fmin g d a b m t => fits [(g, 4), (d, 5), (a, 5), (b, 5), (m, 3), (t, 3)]
  | .fmax g d a b m t => fits [(g, 4), (d, 5), (a, 5), (b, 5), (m, 3), (t, 3)]
  | .fabs g d a m t => fits [(g, 4), (d, 5), (a, 5), (m, 3), (t, 3)]
  | .fneg g d a m t => fits [(g, 4), (d, 5), (a, 5), (m, 3), (t, 3)]
  | .fscl g d a b m t => fits [(g, 4), (d, 5), (a, 5), (b, 5), (m, 3), (t, 3)]
  | .fcmp g e a b m t c => fits [(g, 4), (e, 3), (a, 5), (b, 5), (m, 3), (t, 3), (c, 3)]
  | .icmp g e a b m t c => fits [(g, 4), (e, 3), (a, 5), (b, 5), (m, 3), (t, 3), (c, 3)]
  | .iadd g d a b m n s => fits [(g, 4), (d, 5), (a, 5), (b, 5), (m, 3), (n, 1), (s, 2)]
  | .isub g d a b m n s => fits [(g, 4), (d, 5), (a, 5), (b, 5), (m, 3), (n, 1), (s, 2)]
  | .imul g d a b m n s => fits [(g, 4), (d, 5), (a, 5), (b, 5), (m, 3), (n, 1), (s, 2)]
  | .imin g d a b m n s => fits [(g, 4), (d, 5), (a, 5), (b, 5), (m, 3), (n, 1), (s, 2)]
  | .imax g d a b m n s => fits [(g, 4), (d, 5), (a, 5), (b, 5), (m, 3), (n, 1), (s, 2)]
  | .iand g d a b m n s => fits [(g, 4), (d, 5), (a, 5), (b, 5), (m, 3), (n, 1), (s, 2)]
  | .ior g d a b m n s => fits [(g, 4), (d, 5), (a, 5), (b, 5), (m, 3), (n, 1), (s, 2)]
  | .ixor g d a b m n s => fits [(g, 4), (d, 5), (a, 5), (b, 5), (m, 3), (n, 1), (s, 2)]
  | .ishl g d a b m n s => fits [(g, 4), (d, 5), (a, 5), (b, 5), (m, 3), (n, 1), (s, 2)]
  | .ishr g d a b m n s => fits [(g, 4), (d, 5), (a, 5), (b, 5), (m, 3), (n, 1), (s, 2)]
  | .isha g d a b m n s => fits [(g, 4), (d, 5), (a, 5), (b, 5), (m, 3), (n, 1), (s, 2)]
  | .vsel g d a m s => fits [(g, 4), (d, 5), (a, 5), (m, 3), (s, 2)]
  | .vperm g d a b s => fits [(g, 4), (d, 5), (a, 5), (b, 5), (s, 2)]
  | .vbcLane g d s a l => fits [(g, 4), (d, 5), (s, 2), (a, 5), (l, 6)]
  | .vbcImm g d s p i => fits [(g, 4), (d, 5), (s, 2), (p, 1), (i, 10)]
  | .vmov g d a m s => fits [(g, 4), (d, 5), (a, 5), (m, 3), (s, 2)]
  | .vsum g d a m t => fits [(g, 4), (d, 5), (a, 5), (m, 3), (t, 4)]
  | .vmaxr g d a m t => fits [(g, 4), (d, 5), (a, 5), (m, 3), (t, 4)]
  | .vminr g d a m t => fits [(g, 4), (d, 5), (a, 5), (m, 3), (t, 4)]
  | .vexpmax g d a m t => fits [(g, 4), (d, 5), (a, 5), (m, 3), (t, 3)]
  | .vnzs g d a m e s f => fits [(g, 4), (d, 5), (a, 5), (m, 3), (e, 3), (s, 2), (f, 1)]
  | .vcmpk g d a m e s => fits [(g, 4), (d, 5), (a, 5), (m, 3), (e, 3), (s, 2)]
  | .fcls g d a m t => fits [(g, 4), (d, 5), (a, 5), (m, 3), (t, 3)]
  | .mand g e a b => fits [(g, 4), (e, 3), (a, 3), (b, 3)]
  | .mor g e a b => fits [(g, 4), (e, 3), (a, 3), (b, 3)]
  | .mnot g e a => fits [(g, 4), (e, 3), (a, 3)]
  | .mpop g d a => fits [(g, 4), (d, 5), (a, 3)]
  | .vsp g d p => fits [(g, 4), (d, 5), (p, 4)]
  | .nopX g => fits [(g, 4)]
  | .ffmaW g d a b m t r => fits [(g, 4), (d, 5), (a, 5), (b, 5), (m, 3), (t, 3), (r, 3)]
  | .ffmsW g d a b m t r => fits [(g, 4), (d, 5), (a, 5), (b, 5), (m, 3), (t, 3), (r, 3)]
  | .fnmaW g d a b m t r => fits [(g, 4), (d, 5), (a, 5), (b, 5), (m, 3), (t, 3), (r, 3)]
  | .faddW g d a b m t r => fits [(g, 4), (d, 5), (a, 5), (b, 5), (m, 3), (t, 3), (r, 3)]
  | .fsubW g d a b m t r => fits [(g, 4), (d, 5), (a, 5), (b, 5), (m, 3), (t, 3), (r, 3)]
  | .fmulW g d a b m t r => fits [(g, 4), (d, 5), (a, 5), (b, 5), (m, 3), (t, 3), (r, 3)]
  | .fcvtW g d a e s m r => fits [(g, 4), (d, 5), (a, 5), (e, 4), (s, 4), (m, 3), (r, 3)]
  | .fminW g d a b m t => fits [(g, 4), (d, 5), (a, 5), (b, 5), (m, 3), (t, 3)]
  | .fmaxW g d a b m t => fits [(g, 4), (d, 5), (a, 5), (b, 5), (m, 3), (t, 3)]
  | .fabsW g d a m t => fits [(g, 4), (d, 5), (a, 5), (m, 3), (t, 3)]
  | .fnegW g d a m t => fits [(g, 4), (d, 5), (a, 5), (m, 3), (t, 3)]
  | .fsclW g d a b m t => fits [(g, 4), (d, 5), (a, 5), (b, 5), (m, 3), (t, 3)]
  | .iaddW g d a b m n s => fits [(g, 4), (d, 5), (a, 5), (b, 5), (m, 3), (n, 1), (s, 2)]
  | .isubW g d a b m n s => fits [(g, 4), (d, 5), (a, 5), (b, 5), (m, 3), (n, 1), (s, 2)]
  | .imulW g d a b m n s => fits [(g, 4), (d, 5), (a, 5), (b, 5), (m, 3), (n, 1), (s, 2)]
  | .iminW g d a b m n s => fits [(g, 4), (d, 5), (a, 5), (b, 5), (m, 3), (n, 1), (s, 2)]
  | .imaxW g d a b m n s => fits [(g, 4), (d, 5), (a, 5), (b, 5), (m, 3), (n, 1), (s, 2)]
  | .iandW g d a b m n s => fits [(g, 4), (d, 5), (a, 5), (b, 5), (m, 3), (n, 1), (s, 2)]
  | .iorW g d a b m n s => fits [(g, 4), (d, 5), (a, 5), (b, 5), (m, 3), (n, 1), (s, 2)]
  | .ixorW g d a b m n s => fits [(g, 4), (d, 5), (a, 5), (b, 5), (m, 3), (n, 1), (s, 2)]
  | .ishlW g d a b m n s => fits [(g, 4), (d, 5), (a, 5), (b, 5), (m, 3), (n, 1), (s, 2)]
  | .ishrW g d a b m n s => fits [(g, 4), (d, 5), (a, 5), (b, 5), (m, 3), (n, 1), (s, 2)]
  | .ishaW g d a b m n s => fits [(g, 4), (d, 5), (a, 5), (b, 5), (m, 3), (n, 1), (s, 2)]
  | .mld g t a x o => fits [(g, 4), (t, 6), (a, 5), (x, 1), (o, 8)]
  | .mcb g t a x => fits [(g, 4), (t, 6), (a, 5), (x, 1)]
  | .msc g a x => fits [(g, 4), (a, 5), (x, 1)]
  | .bagOpen g c x e => fits [(g, 4), (c, 5), (x, 1), (e, 14)]
  | .bagRows g c x q n => fits [(g, 4), (c, 5), (x, 1), (q, 1), (n, 4)]
  | .bagPump g c x => fits [(g, 4), (c, 5), (x, 1)]
  | .bagClose g => fits [(g, 4)]
  | .bagRep g a x => fits [(g, 4), (a, 5), (x, 1)]
  | .sumpDr g c x t r f s => fits [(g, 4), (c, 5), (x, 1), (t, 4), (r, 3), (f, 1), (s, 2)]
  | .sumpClr g h c x f => fits [(g, 4), (h, 1), (c, 5), (x, 1), (f, 1)]
  | .zld g z a b x => fits [(g, 4), (z, 2), (a, 5), (b, 5), (x, 1)]
  | .zst g z a x => fits [(g, 4), (z, 2), (a, 5), (x, 1)]
  | .zis g z a b o => fits [(g, 4), (z, 2), (a, 2), (b, 2), (o, 2)]
  | .zun g z a b o => fits [(g, 4), (z, 2), (a, 2), (b, 2), (o, 2)]
  | .zsb g z a b => fits [(g, 4), (z, 2), (a, 2), (b, 2)]
  | .zma g d a b => fits [(g, 4), (d, 4), (a, 2), (b, 2)]
  | .zlen g d z => fits [(g, 4), (d, 4), (z, 2)]
  | .galeRemoteAccess => true
  | .linkRetrainComplete => true
  | .arrayOpComplete => true
  | .powerTrip => true
  | .mailboxImageReplace => true

/-- The first item of R45 (or R35, which item 2 names) that the slot word breaks by itself; `none` for a
legal word and for every event. -/
def Instr.brokenItem : Instr → Option Nat
  | .issueBundle => none
  | .resultLand => none
  | .storePerform => none
  | .atomicPerform => none
  | .flagPostEffect => none
  | .overlapYield => none
  | .watchdogTrap => none
  | .kill => none
  | .siphonTransfer => none
  | .siphonComplete => none
  | .reserveRefusalRetry => none
  | .faultRecordOffer => none
  | .faultRecordRetry => none
  | .preemptRequest => none
  | .preemptWithdraw => none
  | .gangPreempt => none
  | .stepPlace => none
  | .stepResume => none
  | .stepRetire => none
  | .taskComplete => none
  | .taskAgeing => none
  | .stageApply => none
  | .stageCacheUpdate => none
  | .forkSnapshot => none
  | .joinMerge => none
  | .revisionReserveRetry => none
  | .arrayOpStart => none
  | .rowIn => none
  | .pumpFeedBegin => none
  | .pumpFetchReturn => none
  | .pumpWalkRetry => none
  | .queueStageAdvance => none
  | .bagCloseComplete => none
  | .drainRow => none
  | .spoutLatchEntry => none
  | .tlbInvalidateComplete => none
  | .rootLaunch => none
  | .flagWindowPost => none
  | .tlbinv => none
  | .clrmin => none
  | .rst => none
  | .dack => none
  | .lrClear => none
  | .registerWrite => none
  | .hostMemWrite => none
  | .hostMemRead => none
  | .mailboxSpdm => none
  | .errorLogRead => none
  | .errorLogClear => none
  | .bootStart => none
  | .bootStageDone => none
  | .bootWatchdog => none
  | .flitCrcFail => none
  | .lanePersistentFault => none
  | .fatalError => none
  | .dumpComplete => none
  | .thermalTrip => none
  | .clockChange => none
  | .peerContained => none
  | .nopS _ => none
  | .yield _ => none
  | .exit _ => none
  | .trap _ _ => none
  | .sysc _ c => firstBroken [(1, c / 256 != 255 || 3 ≤ c % 256)]
  | .brk _ _ => none
  | .syscResume _ => none
  | .syscKillStep _ => none
  | .syscLocate _ => none
  | .add _ _ _ _ _ => none
  | .sub _ _ _ _ _ => none
  | .mul _ _ _ _ _ => none
  | .mulh _ _ _ _ _ => none
  | .mulhn _ _ _ _ _ => none
  | .div _ _ _ _ _ => none
  | .divn _ _ _ _ _ => none
  | .rem _ _ _ _ _ => none
  | .remn _ _ _ _ _ => none
  | .and _ _ _ _ _ => none
  | .or _ _ _ _ _ => none
  | .xor _ _ _ _ _ => none
  | .andn _ _ _ _ _ => none
  | .shl _ _ _ _ _ => none
  | .shr _ _ _ _ _ => none
  | .sha _ _ _ _ _ => none
  | .min _ _ _ _ _ => none
  | .max _ _ _ _ _ => none
  | .minn _ _ _ _ _ => none
  | .maxn _ _ _ _ _ => none
  | .clz _ _ _ _ => none
  | .popc _ _ _ _ => none
  | .addi _ _ _ _ _ => none
  | .muli _ _ _ _ _ => none
  | .andi _ _ _ _ _ => none
  | .ori _ _ _ _ _ => none
  | .xori _ _ _ _ _ => none
  | .andni _ _ _ _ _ => none
  | .shli _ _ _ _ _ => none
  | .shri _ _ _ _ _ => none
  | .shai _ _ _ _ _ => none
  | .mini _ _ _ _ _ => none
  | .maxi _ _ _ _ _ => none
  | .minni _ _ _ _ _ => none
  | .maxni _ _ _ _ _ => none
  | .ceq _ p _ _ _ => firstBroken [(4, p % 2 == 0 && 2 ≤ p)]
  | .cne _ p _ _ _ => firstBroken [(4, p % 2 == 0 && 2 ≤ p)]
  | .clt _ p _ _ _ => firstBroken [(4, p % 2 == 0 && 2 ≤ p)]
  | .cle _ p _ _ _ => firstBroken [(4, p % 2 == 0 && 2 ≤ p)]
  | .cltn _ p _ _ _ => firstBroken [(4, p % 2 == 0 && 2 ≤ p)]
  | .clen _ p _ _ _ => firstBroken [(4, p % 2 == 0 && 2 ≤ p)]
  | .ceqi _ p _ _ => firstBroken [(4, p % 2 == 0 && 2 ≤ p)]
  | .cnei _ p _ _ => firstBroken [(4, p % 2 == 0 && 2 ≤ p)]
  | .clti _ p _ _ => firstBroken [(4, p % 2 == 0 && 2 ≤ p)]
  | .clei _ p _ _ => firstBroken [(4, p % 2 == 0 && 2 ≤ p)]
  | .cltni _ p _ _ => firstBroken [(4, p % 2 == 0 && 2 ≤ p)]
  | .cleni _ p _ _ => firstBroken [(4, p % 2 == 0 && 2 ≤ p)]
  | .lih _ _ _ _ => none
  | .lihK _ _ _ _ => none
  | .sel _ _ _ _ _ _ => none
  | .pand _ d _ _ => firstBroken [(4, 2 ≤ d)]
  | .por _ d _ _ => firstBroken [(4, 2 ≤ d)]
  | .pxor _ d _ _ => firstBroken [(4, 2 ≤ d)]
  | .pset _ d _ => firstBroken [(4, 2 ≤ d)]
  | .br _ _ => none
  | .call _ _ _ => none
  | .bra _ _ _ _ => none
  | .ret _ _ _ => none
  | .lpBegReg _ _ _ => none
  | .lpBegImm _ _ _ => none
  | .lpIdx _ _ _ => none
  | .lpBrk _ => none
  | .xcp _ _ _ s a l _ => firstBroken [(1, 2 ≤ s || l == 0), (3, s != 3 || a < 16)]
  | .xbase _ _ _ _ _ => none
  | .getm _ _ => none
  | .setm _ _ _ => none
  | .flGet _ _ _ => none
  | .flClr _ s m => firstBroken [(1, s == 0 || m == 0)]
  | .tlaunch _ _ _ _ => none
  | .tfork _ _ _ _ => none
  | .tjoin _ _ _ _ => none
  | .tjoinAll _ => none
  | .tkill _ _ _ => none
  | .rgnSet _ _ _ => none
  | .stgAdvImm _ _ => none
  | .stgAdvReg _ _ _ => none
  | .stgSetImm _ _ => none
  | .stgSetReg _ _ _ => none
  | .stgWlImm _ d _ => firstBroken [(1, d != 0)]
  | .stgWlReg _ d _ _ => firstBroken [(1, d != 0)]
  | .stgRd _ _ _ _ => none
  | .tidSet _ _ _ _ => none
  | .tidGet _ _ _ _ _ => none
  | .header _ _ _ y n c t l => firstBroken [(2, (y != 0 || (n == 0 && c == 0)) && (t != 0 || l == 0))]
  | .nopM _ => none
  | .waitcImm _ k _ => firstBroken [(1, k ≤ 4)]
  | .waitcReg _ k _ _ => firstBroken [(1, k ≤ 4)]
  | .xf _ a b => firstBroken [(1, a ≤ 4 && b ≤ 4)]
  | .phase _ => none
  | .rwsR _ p _ _ _ => firstBroken [(1, p ≤ 3)]
  | .rwsW _ p _ _ _ => firstBroken [(1, p ≤ 3)]
  | .fpost _ _ _ _ => none
  | .fset _ _ _ _ => none
  | .rcIncReg _ _ _ _ => none
  | .rcIncImm _ _ _ _ => none
  | .rcSnap _ _ _ => none
  | .lb _ _ _ _ _ _ => none
  | .lbn _ _ _ _ _ _ => none
  | .lh _ _ _ _ _ _ => none
  | .lhn _ _ _ _ _ _ => none
  | .lw _ _ _ _ _ _ => none
  | .lwn _ _ _ _ _ _ => none
  | .ld _ _ _ _ _ _ => none
  | .sb _ _ _ _ _ _ => none
  | .sh _ _ _ _ _ _ => none
  | .sw _ _ _ _ _ _ => none
  | .sd _ _ _ _ _ _ => none
  | .vld _ f d _ _ _ _ => firstBroken [(3, f == 0 || d < 16)]
  | .vst _ f d _ _ _ _ => firstBroken [(3, f == 0 || d < 16)]
  | .vldx _ f d _ _ _ _ => firstBroken [(3, f == 0 || d < 16)]
  | .vstx _ f d _ _ _ _ => firstBroken [(3, f == 0 || d < 16)]
  | .vldb _ f d _ _ _ _ => firstBroken [(3, f == 0 || d < 16)]
  | .spl _ f r _ o => firstBroken [(3, f != 3 || r < 16), (7, o % (if f < 2 then 8 else 256) == 0)]
  | .sps _ f r _ o => firstBroken [(3, f != 3 || r < 16), (7, o % (if f < 2 then 8 else 256) == 0)]
  | .qbind _ _ _ _ => none
  | .qld _ _ f d _ _ => firstBroken [(3, f != 3 || d < 16)]
  | .qst _ _ f d _ _ => firstBroken [(3, f != 3 || d < 16)]
  | .qadvP _ _ _ => none
  | .qadvC _ _ _ => none
  | .qstat _ _ _ _ => none
  | .atomAdd _ _ _ _ _ => none
  | .atomMin _ _ _ _ _ _ => none
  | .atomMax _ _ _ _ _ _ => none
  | .atomXchg _ _ _ _ _ => none
  | .atomCas _ _ _ _ _ _ => none
  | .atomIncb _ _ _ p _ _ => firstBroken [(4, p % 2 == 0 && 2 ≤ p)]
  | .aadd _ _ _ _ _ => none
  | .aaddi _ _ _ _ _ => none
  | .ashl _ _ _ _ _ _ => none
  | .amov _ _ _ _ e s => firstBroken [(1, s == 1 || e == 0)]
  | .sphCp _ _ _ _ _ _ _ => none
  | .sphGth _ _ _ _ _ => none
  | .sphSct _ _ _ _ _ => none
  | .sphSctAdd _ _ _ _ _ => none
  | .sphRed _ _ _ _ _ _ _ => none
  | .sphFill _ _ _ _ _ _ => none
  | .sphAtom _ _ _ _ _ o => firstBroken [(1, o ≤ 6)]
  | .sphCnl _ a l _ => firstBroken [(1, l == 0 || a == 0)]
  | .sphPre _ _ _ _ => none
  | .sphStat _ _ s _ => firstBroken [(1, s ≤ 2)]
  | .sphImm _ _ _ _ _ _ => none
  | .nopV _ => none
  | .ffma _ _ _ _ _ t r => firstBroken [(1, t ≤ 3 && r ≤ 5)]
  | .ffms _ _ _ _ _ t r => firstBroken [(1, t ≤ 3 && r ≤ 5)]
  | .fnma _ _ _ _ _ t r => firstBroken [(1, t ≤ 3 && r ≤ 5)]
  | .fadd _ _ _ _ _ t r => firstBroken [(1, t ≤ 3 && r ≤ 5)]
  | .fsub _ _ _ _ _ t r => firstBroken [(1, t ≤ 3 && r ≤ 5)]
  | .fmul _ _ _ _ _ t r => firstBroken [(1, t ≤ 3 && r ≤ 5)]
  | .fdiv _ _ _ _ _ t r => firstBroken [(1, t ≤ 3 && r ≤ 5)]
  | .fsqrt _ _ _ _ t r => firstBroken [(1, t ≤ 3 && r ≤ 5)]
  | .frcp _ _ _ _ t r => firstBroken [(1, 1 ≤ t && t ≤ 3 && r ≤ 5)]
  | .frsq _ _ _ _ t r => firstBroken [(1, 1 ≤ t && t ≤ 3 && r ≤ 5)]
  | .fexp2 _ _ _ _ t r => firstBroken [(1, 1 ≤ t && t ≤ 3 && r ≤ 5)]
  | .flog2 _ _ _ _ t r => firstBroken [(1, 1 ≤ t && t ≤ 3 && r ≤ 5)]
  | .fcvt _ _ _ e s _ r => firstBroken [(1, e != 6 && e != 7 && s != 6 && s != 7 && r ≤ 5)]
  | .fmin _ _ _ _ _ t => firstBroken [(1, t ≤ 3)]
  | .fmax _ _ _ _ _ t => firstBroken [(1, t ≤ 3)]
  | .fabs _ _ _ _ t => firstBroken [(1, t ≤ 3)]
  | .fneg _ _ _ _ t => firstBroken [(1, t ≤ 3)]
  | .fscl _ _ _ _ _ t => firstBroken [(1, t ≤ 3)]
  | .fcmp _ e _ _ _ t _ => firstBroken [(1, t ≤ 5), (4, e != 0)]
  | .icmp _ e _ _ _ _ c => firstBroken [(1, c ≤ 5), (4, e != 0)]
  | .iadd _ _ _ _ _ _ _ => none
  | .isub _ _ _ _ _ _ _ => none
  | .imul _ _ _ _ _ _ _ => none
  | .imin _ _ _ _ _ _ _ => none
  | .imax _ _ _ _ _ _ _ => none
  | .iand _ _ _ _ _ _ _ => none
  | .ior _ _ _ _ _ _ _ => none
  | .ixor _ _ _ _ _ _ _ => none
  | .ishl _ _ _ _ _ _ _ => none
  | .ishr _ _ _ _ _ _ _ => none
  | .isha _ _ _ _ _ _ _ => none
  | .vsel _ _ _ _ _ => none
  | .vperm _ _ _ _ _ => none
  | .vbcLane _ _ s _ l => firstBroken [(1, s != 3 || l < 32)]
  | .vbcImm _ _ s p _ => firstBroken [(1, p == 0 || s != 0)]
  | .vmov _ _ _ _ _ => none
  | .vsum _ _ _ _ t => firstBroken [(1, t ≤ 3 || 8 ≤ t)]
  | .vmaxr _ _ _ _ t => firstBroken [(1, t ≤ 3 || 8 ≤ t)]
  | .vminr _ _ _ _ t => firstBroken [(1, t ≤ 3 || 8 ≤ t)]
  | .vexpmax _ _ _ _ t => firstBroken [(1, t ≤ 5)]
  | .vnzs _ _ _ _ e s _ => firstBroken [(1, s != 0), (4, e != 0)]
  | .vcmpk _ _ _ _ e _ => firstBroken [(4, e != 0)]
  | .fcls _ _ _ _ t => firstBroken [(1, t ≤ 5)]
  | .mand _ e _ _ => firstBroken [(4, e != 0)]
  | .mor _ e _ _ => firstBroken [(4, e != 0)]
  | .mnot _ e _ => firstBroken [(4, e != 0)]
  | .mpop _ _ _ => none
  | .vsp _ _ p => firstBroken [(4, p % 2 == 0 && 2 ≤ p)]
  | .nopX _ => none
  | .ffmaW _ d a b _ t r => firstBroken [(1, t ≤ 3 && r ≤ 5), (3, d < 16 && a < 16 && b < 16)]
  | .ffmsW _ d a b _ t r => firstBroken [(1, t ≤ 3 && r ≤ 5), (3, d < 16 && a < 16 && b < 16)]
  | .fnmaW _ d a b _ t r => firstBroken [(1, t ≤ 3 && r ≤ 5), (3, d < 16 && a < 16 && b < 16)]
  | .faddW _ d a b _ t r => firstBroken [(1, t ≤ 3 && r ≤ 5), (3, d < 16 && a < 16 && b < 16)]
  | .fsubW _ d a b _ t r => firstBroken [(1, t ≤ 3 && r ≤ 5), (3, d < 16 && a < 16 && b < 16)]
  | .fmulW _ d a b _ t r => firstBroken [(1, t ≤ 3 && r ≤ 5), (3, d < 16 && a < 16 && b < 16)]
  | .fcvtW _ d a e s _ r => firstBroken [(1, e != 6 && e != 7 && s != 6 && s != 7 && r ≤ 5), (3, d < 16 && a < 16)]
  | .fminW _ d a b _ t => firstBroken [(1, t ≤ 3), (3, d < 16 && a < 16 && b < 16)]
  | .fmaxW _ d a b _ t => firstBroken [(1, t ≤ 3), (3, d < 16 && a < 16 && b < 16)]
  | .fabsW _ d a _ t => firstBroken [(1, t ≤ 3), (3, d < 16 && a < 16)]
  | .fnegW _ d a _ t => firstBroken [(1, t ≤ 3), (3, d < 16 && a < 16)]
  | .fsclW _ d a b _ t => firstBroken [(1, t ≤ 3), (3, d < 16 && a < 16 && b < 16)]
  | .iaddW _ d a b _ _ _ => firstBroken [(3, d < 16 && a < 16 && b < 16)]
  | .isubW _ d a b _ _ _ => firstBroken [(3, d < 16 && a < 16 && b < 16)]
  | .imulW _ d a b _ _ _ => firstBroken [(3, d < 16 && a < 16 && b < 16)]
  | .iminW _ d a b _ _ _ => firstBroken [(3, d < 16 && a < 16 && b < 16)]
  | .imaxW _ d a b _ _ _ => firstBroken [(3, d < 16 && a < 16 && b < 16)]
  | .iandW _ d a b _ _ _ => firstBroken [(3, d < 16 && a < 16 && b < 16)]
  | .iorW _ d a b _ _ _ => firstBroken [(3, d < 16 && a < 16 && b < 16)]
  | .ixorW _ d a b _ _ _ => firstBroken [(3, d < 16 && a < 16 && b < 16)]
  | .ishlW _ d a b _ _ _ => firstBroken [(3, d < 16 && a < 16 && b < 16)]
  | .ishrW _ d a b _ _ _ => firstBroken [(3, d < 16 && a < 16 && b < 16)]
  | .ishaW _ d a b _ _ _ => firstBroken [(3, d < 16 && a < 16 && b < 16)]
  | .mld _ _ _ _ _ => none
  | .mcb _ _ _ _ => none
  | .msc _ _ _ => none
  | .bagOpen _ _ _ _ => none
  | .bagRows _ _ _ q n => firstBroken [(1, q == 1 || n == 0)]
  | .bagPump _ _ _ => none
  | .bagClose _ => none
  | .bagRep _ _ _ => none
  | .sumpDr _ _ _ t r _ s => firstBroken [(1, t != 7 && r ≤ 5 && s != 0)]
  | .sumpClr _ _ _ _ _ => none
  | .zld _ _ _ _ _ => none
  | .zst _ _ _ _ => none
  | .zis _ _ _ _ _ => none
  | .zun _ _ _ _ _ => none
  | .zsb _ _ _ _ => none
  | .zma _ _ _ _ => none
  | .zlen _ _ _ => none
  | .galeRemoteAccess => none
  | .linkRetrainComplete => none
  | .arrayOpComplete => none
  | .powerTrip => none
  | .mailboxImageReplace => none

/-- A well-formed instruction: its fields fit and it breaks no item of R45 by itself. -/
def Instr.wf (i : Instr) : Bool :=
  i.fieldsFit && i.brokenItem.isNone

end Sys2Proof
end

