-- ==== Sys2Proof/Decode.lean ====
section
/-! DEFINITION. Decoding slot words and bundles, and encoding.  The rows below are the opcode maps and formats
of R34, R41 to R44 and of each entry, high bits first: `(width, some v)` is a field fixed at `v`,
`(width, none)` an operand field.  Decoding is total and rejects by name. -/

namespace Sys2Proof

/-- Why a bundle is illegal: the items of R45 by name. -/
inductive DecodeError where
  | reservedWord       -- item 1: reserved major, function or code, or a non-zero fixed field
  | badHeader          -- item 2: R35 broken, or LT names a slot R36 does not allow
  | outsideFile        -- item 3: a register outside its file
  | badDestination     -- item 4: p0, p1, m0 or an odd pair as destination
  | overlappingPreds   -- item 5: two slots name one predicate
  | twoFlagWriters     -- item 6: two FFLAGS writers
  | badSpillOffset     -- item 7: spill offset not a multiple of the access size
  deriving DecidableEq, Repr

/-- The item number of R45, as the trap detail of R150 reports it. -/
def DecodeError.item : DecodeError → Nat
  | .reservedWord => 1
  | .badHeader => 2
  | .outsideFile => 3
  | .badDestination => 4
  | .overlappingPreds => 5
  | .twoFlagWriters => 6
  | .badSpillOffset => 7

/-- The named error of an item number. -/
def DecodeError.ofItem : Nat → DecodeError
  | 2 => .badHeader
  | 3 => .outsideFile
  | 4 => .badDestination
  | 5 => .overlappingPreds
  | 6 => .twoFlagWriters
  | 7 => .badSpillOffset
  | _ => .reservedWord

/-- One row of an opcode map: the word's fields from bit 31 down, and the instruction its operands make. -/
structure Row where
  layout : List (Nat × Option Nat)
  build : List Nat → Option Instr

/-- The total width of a layout. -/
def layoutWidth : List (Nat × Option Nat) → Nat
  | [] => 0
  | (w, _) :: rest => w + layoutWidth rest

/-- Cut a word along a layout: the operand values, or `none` where a fixed field differs. -/
def unpackWord : List (Nat × Option Nat) → Nat → Option (List Nat)
  | [], _ => some []
  | (w, some v) :: rest, x =>
    if x / 2 ^ layoutWidth rest % 2 ^ w = v then unpackWord rest x else none
  | (w, none) :: rest, x =>
    match unpackWord rest x with
    | some l => some (x / 2 ^ layoutWidth rest % 2 ^ w :: l)
    | none => none

/-- The instruction a row makes of a word. -/
def Row.read (r : Row) (x : Nat) : Option Instr :=
  match unpackWord r.layout x with
  | some ops => r.build ops
  | none => none

/-- The first row that reads the word. -/
def readRows : List Row → Nat → Option Instr
  | [], _ => none
  | r :: rest, x =>
    match r.read x with
    | some i => some i
    | none => readRows rest x

/-- slot 0 (S), OP 0. -/
def rowsS0 : List Row := [
  ⟨[(4, some 0), (4, none), (24, some 4259584)],
    fun l => match l with | [g] => some (.syscResume g) | _ => none⟩,
  ⟨[(4, some 0), (4, none), (24, some 4259585)],
    fun l => match l with | [g] => some (.syscKillStep g) | _ => none⟩,
  ⟨[(4, some 0), (4, none), (24, some 4259586)],
    fun l => match l with | [g] => some (.syscLocate g) | _ => none⟩,
  ⟨[(4, some 0), (4, none), (24, some 0)],
    fun l => match l with | [g] => some (.nopS g) | _ => none⟩,
  ⟨[(4, some 0), (4, none), (24, some 1048576)],
    fun l => match l with | [g] => some (.yield g) | _ => none⟩,
  ⟨[(4, some 0), (4, none), (24, some 2097152)],
    fun l => match l with | [g] => some (.exit g) | _ => none⟩,
  ⟨[(4, some 0), (4, none), (8, some 48), (16, none)],
    fun l => match l with | [g, c] => some (.trap g c) | _ => none⟩,
  ⟨[(4, some 0), (4, none), (8, some 64), (16, none)],
    fun l => match l with | [g, c] => some (.sysc g c) | _ => none⟩,
  ⟨[(4, some 0), (4, none), (8, some 80), (16, none)],
    fun l => match l with | [g, c] => some (.brk g c) | _ => none⟩]

/-- slot 0 (S), OP 1. -/
def rowsS1 : List Row := [
  ⟨[(4, some 1), (4, none), (5, none), (5, none), (5, none), (1, none), (8, some 0)],
    fun l => match l with | [g, d, a, b, x] => some (.add g d a b x) | _ => none⟩,
  ⟨[(4, some 1), (4, none), (5, none), (5, none), (5, none), (1, none), (8, some 4)],
    fun l => match l with | [g, d, a, b, x] => some (.sub g d a b x) | _ => none⟩,
  ⟨[(4, some 1), (4, none), (5, none), (5, none), (5, none), (1, none), (8, some 8)],
    fun l => match l with | [g, d, a, b, x] => some (.mul g d a b x) | _ => none⟩,
  ⟨[(4, some 1), (4, none), (5, none), (5, none), (5, none), (1, none), (8, some 12)],
    fun l => match l with | [g, d, a, b, x] => some (.mulh g d a b x) | _ => none⟩,
  ⟨[(4, some 1), (4, none), (5, none), (5, none), (5, none), (1, none), (8, some 16)],
    fun l => match l with | [g, d, a, b, x] => some (.mulhn g d a b x) | _ => none⟩,
  ⟨[(4, some 1), (4, none), (5, none), (5, none), (5, none), (1, none), (8, some 20)],
    fun l => match l with | [g, d, a, b, x] => some (.div g d a b x) | _ => none⟩,
  ⟨[(4, some 1), (4, none), (5, none), (5, none), (5, none), (1, none), (8, some 24)],
    fun l => match l with | [g, d, a, b, x] => some (.divn g d a b x) | _ => none⟩,
  ⟨[(4, some 1), (4, none), (5, none), (5, none), (5, none), (1, none), (8, some 28)],
    fun l => match l with | [g, d, a, b, x] => some (.rem g d a b x) | _ => none⟩,
  ⟨[(4, some 1), (4, none), (5, none), (5, none), (5, none), (1, none), (8, some 32)],
    fun l => match l with | [g, d, a, b, x] => some (.remn g d a b x) | _ => none⟩,
  ⟨[(4, some 1), (4, none), (5, none), (5, none), (5, none), (1, none), (8, some 36)],
    fun l => match l with | [g, d, a, b, x] => some (.and g d a b x) | _ => none⟩,
  ⟨[(4, some 1), (4, none), (5, none), (5, none), (5, none), (1, none), (8, some 40)],
    fun l => match l with | [g, d, a, b, x] => some (.or g d a b x) | _ => none⟩,
  ⟨[(4, some 1), (4, none), (5, none), (5, none), (5, none), (1, none), (8, some 44)],
    fun l => match l with | [g, d, a, b, x] => some (.xor g d a b x) | _ => none⟩,
  ⟨[(4, some 1), (4, none), (5, none), (5, none), (5, none), (1, none), (8, some 48)],
    fun l => match l with | [g, d, a, b, x] => some (.andn g d a b x) | _ => none⟩,
  ⟨[(4, some 1), (4, none), (5, none), (5, none), (5, none), (1, none), (8, some 52)],
    fun l => match l with | [g, d, a, b, x] => some (.shl g d a b x) | _ => none⟩,
  ⟨[(4, some 1), (4, none), (5, none), (5, none), (5, none), (1, none), (8, some 56)],
    fun l => match l with | [g, d, a, b, x] => some (.shr g d a b x) | _ => none⟩,
  ⟨[(4, some 1), (4, none), (5, none), (5, none), (5, none), (1, none), (8, some 60)],
    fun l => match l with | [g, d, a, b, x] => some (.sha g d a b x) | _ => none⟩,
  ⟨[(4, some 1), (4, none), (5, none), (5, none), (5, none), (1, none), (8, some 64)],
    fun l => match l with | [g, d, a, b, x] => some (.min g d a b x) | _ => none⟩,
  ⟨[(4, some 1), (4, none), (5, none), (5, none), (5, none), (1, none), (8, some 68)],
    fun l => match l with | [g, d, a, b, x] => some (.max g d a b x) | _ => none⟩,
  ⟨[(4, some 1), (4, none), (5, none), (5, none), (5, none), (1, none), (8, some 72)],
    fun l => match l with | [g, d, a, b, x] => some (.minn g d a b x) | _ => none⟩,
  ⟨[(4, some 1), (4, none), (5, none), (5, none), (5, none), (1, none), (8, some 76)],
    fun l => match l with | [g, d, a, b, x] => some (.maxn g d a b x) | _ => none⟩,
  ⟨[(4, some 1), (4, none), (5, none), (5, none), (5, some 0), (1, none), (8, some 80)],
    fun l => match l with | [g, d, a, x] => some (.clz g d a x) | _ => none⟩,
  ⟨[(4, some 1), (4, none), (5, none), (5, none), (5, some 0), (1, none), (8, some 84)],
    fun l => match l with | [g, d, a, x] => some (.popc g d a x) | _ => none⟩]

/-- slot 0 (S), OP 2. -/
def rowsS2 : List Row := [
  ⟨[(4, some 2), (4, none), (5, none), (5, none), (4, some 0), (1, none), (9, none)],
    fun l => match l with | [g, d, a, x, i] => some (.addi g d a x i) | _ => none⟩,
  ⟨[(4, some 2), (4, none), (5, none), (5, none), (4, some 1), (1, none), (9, none)],
    fun l => match l with | [g, d, a, x, i] => some (.muli g d a x i) | _ => none⟩,
  ⟨[(4, some 2), (4, none), (5, none), (5, none), (4, some 2), (1, none), (9, none)],
    fun l => match l with | [g, d, a, x, i] => some (.andi g d a x i) | _ => none⟩,
  ⟨[(4, some 2), (4, none), (5, none), (5, none), (4, some 3), (1, none), (9, none)],
    fun l => match l with | [g, d, a, x, i] => some (.ori g d a x i) | _ => none⟩,
  ⟨[(4, some 2), (4, none), (5, none), (5, none), (4, some 4), (1, none), (9, none)],
    fun l => match l with | [g, d, a, x, i] => some (.xori g d a x i) | _ => none⟩,
  ⟨[(4, some 2), (4, none), (5, none), (5, none), (4, some 5), (1, none), (9, none)],
    fun l => match l with | [g, d, a, x, i] => some (.andni g d a x i) | _ => none⟩,
  ⟨[(4, some 2), (4, none), (5, none), (5, none), (4, some 6), (1, none), (3, some 0), (6, none)],
    fun l => match l with | [g, d, a, x, i] => some (.shli g d a x i) | _ => none⟩,
  ⟨[(4, some 2), (4, none), (5, none), (5, none), (4, some 7), (1, none), (3, some 0), (6, none)],
    fun l => match l with | [g, d, a, x, i] => some (.shri g d a x i) | _ => none⟩,
  ⟨[(4, some 2), (4, none), (5, none), (5, none), (4, some 8), (1, none), (3, some 0), (6, none)],
    fun l => match l with | [g, d, a, x, i] => some (.shai g d a x i) | _ => none⟩,
  ⟨[(4, some 2), (4, none), (5, none), (5, none), (4, some 9), (1, none), (9, none)],
    fun l => match l with | [g, d, a, x, i] => some (.mini g d a x i) | _ => none⟩,
  ⟨[(4, some 2), (4, none), (5, none), (5, none), (4, some 10), (1, none), (9, none)],
    fun l => match l with | [g, d, a, x, i] => some (.maxi g d a x i) | _ => none⟩,
  ⟨[(4, some 2), (4, none), (5, none), (5, none), (4, some 11), (1, none), (9, none)],
    fun l => match l with | [g, d, a, x, i] => some (.minni g d a x i) | _ => none⟩,
  ⟨[(4, some 2), (4, none), (5, none), (5, none), (4, some 12), (1, none), (9, none)],
    fun l => match l with | [g, d, a, x, i] => some (.maxni g d a x i) | _ => none⟩]

/-- slot 0 (S), OP 3. -/
def rowsS3 : List Row := [
  ⟨[(4, some 3), (4, none), (4, none), (5, none), (5, none), (1, none), (9, some 0)],
    fun l => match l with | [g, p, a, b, x] => some (.ceq g p a b x) | _ => none⟩,
  ⟨[(4, some 3), (4, none), (4, none), (5, none), (5, none), (1, none), (9, some 64)],
    fun l => match l with | [g, p, a, b, x] => some (.cne g p a b x) | _ => none⟩,
  ⟨[(4, some 3), (4, none), (4, none), (5, none), (5, none), (1, none), (9, some 128)],
    fun l => match l with | [g, p, a, b, x] => some (.clt g p a b x) | _ => none⟩,
  ⟨[(4, some 3), (4, none), (4, none), (5, none), (5, none), (1, none), (9, some 192)],
    fun l => match l with | [g, p, a, b, x] => some (.cle g p a b x) | _ => none⟩,
  ⟨[(4, some 3), (4, none), (4, none), (5, none), (5, none), (1, none), (9, some 256)],
    fun l => match l with | [g, p, a, b, x] => some (.cltn g p a b x) | _ => none⟩,
  ⟨[(4, some 3), (4, none), (4, none), (5, none), (5, none), (1, none), (9, some 320)],
    fun l => match l with | [g, p, a, b, x] => some (.clen g p a b x) | _ => none⟩]

/-- slot 0 (S), OP 4. -/
def rowsS4 : List Row := [
  ⟨[(4, some 4), (4, none), (4, none), (5, none), (3, some 0), (12, none)],
    fun l => match l with | [g, p, a, i] => some (.ceqi g p a i) | _ => none⟩,
  ⟨[(4, some 4), (4, none), (4, none), (5, none), (3, some 1), (12, none)],
    fun l => match l with | [g, p, a, i] => some (.cnei g p a i) | _ => none⟩,
  ⟨[(4, some 4), (4, none), (4, none), (5, none), (3, some 2), (12, none)],
    fun l => match l with | [g, p, a, i] => some (.clti g p a i) | _ => none⟩,
  ⟨[(4, some 4), (4, none), (4, none), (5, none), (3, some 3), (12, none)],
    fun l => match l with | [g, p, a, i] => some (.clei g p a i) | _ => none⟩,
  ⟨[(4, some 4), (4, none), (4, none), (5, none), (3, some 4), (12, none)],
    fun l => match l with | [g, p, a, i] => some (.cltni g p a i) | _ => none⟩,
  ⟨[(4, some 4), (4, none), (4, none), (5, none), (3, some 5), (12, none)],
    fun l => match l with | [g, p, a, i] => some (.cleni g p a i) | _ => none⟩]

/-- slot 0 (S), OP 5. -/
def rowsS5 : List Row := [
  ⟨[(4, some 5), (4, none), (5, none), (1, some 0), (2, none), (16, none)],
    fun l => match l with | [g, d, h, i] => some (.lih g d h i) | _ => none⟩,
  ⟨[(4, some 5), (4, none), (5, none), (1, some 1), (2, none), (16, none)],
    fun l => match l with | [g, d, h, i] => some (.lihK g d h i) | _ => none⟩]

/-- slot 0 (S), OP 6. -/
def rowsS6 : List Row := [
  ⟨[(4, some 6), (4, none), (5, none), (5, none), (5, none), (4, none), (1, none), (4, some 0)],
    fun l => match l with | [g, d, a, b, p, x] => some (.sel g d a b p x) | _ => none⟩]

/-- slot 0 (S), OP 7. -/
def rowsS7 : List Row := [
  ⟨[(4, some 7), (4, none), (4, none), (4, none), (4, none), (12, some 0)],
    fun l => match l with | [g, d, a, b] => some (.pand g d a b) | _ => none⟩,
  ⟨[(4, some 7), (4, none), (4, none), (4, none), (4, none), (12, some 1024)],
    fun l => match l with | [g, d, a, b] => some (.por g d a b) | _ => none⟩,
  ⟨[(4, some 7), (4, none), (4, none), (4, none), (4, none), (12, some 2048)],
    fun l => match l with | [g, d, a, b] => some (.pxor g d a b) | _ => none⟩,
  ⟨[(4, some 7), (4, none), (4, none), (19, some 1536), (1, none)],
    fun l => match l with | [g, d, v] => some (.pset g d v) | _ => none⟩]

/-- slot 0 (S), OP 8. -/
def rowsS8 : List Row := [
  ⟨[(4, some 8), (4, none), (2, some 0), (22, none)],
    fun l => match l with | [g, o] => some (.br g o) | _ => none⟩,
  ⟨[(4, some 8), (4, none), (2, some 1), (5, none), (17, none)],
    fun l => match l with | [g, d, o] => some (.call g d o) | _ => none⟩,
  ⟨[(4, some 8), (4, none), (2, some 2), (5, none), (5, none), (1, none), (11, some 0)],
    fun l => match l with | [g, d, a, x] => some (.bra g d a x) | _ => none⟩,
  ⟨[(4, some 8), (4, none), (7, some 96), (5, none), (1, none), (11, some 0)],
    fun l => match l with | [g, a, x] => some (.ret g a x) | _ => none⟩]

/-- slot 0 (S), OP 9. -/
def rowsS9 : List Row := [
  ⟨[(4, some 9), (4, none), (3, some 0), (9, none), (5, none), (7, some 0)],
    fun l => match l with | [g, l, a] => some (.lpBegReg g l a) | _ => none⟩,
  ⟨[(4, some 9), (4, none), (3, some 1), (9, none), (12, none)],
    fun l => match l with | [g, l, c] => some (.lpBegImm g l c) | _ => none⟩,
  ⟨[(4, some 9), (4, none), (2, some 1), (5, none), (3, none), (14, some 0)],
    fun l => match l with | [g, d, k] => some (.lpIdx g d k) | _ => none⟩,
  ⟨[(4, some 9), (4, none), (24, some 8388608)],
    fun l => match l with | [g] => some (.lpBrk g) | _ => none⟩]

/-- slot 0 (S), OP 10. -/
def rowsS10 : List Row := [
  ⟨[(4, some 10), (4, none), (2, some 0), (1, none), (5, none), (2, none), (5, none), (5, none), (1, none), (3, some 0)],
    fun l => match l with | [g, f, d, s, a, l, x] => some (.xcp g f d s a l x) | _ => none⟩,
  ⟨[(4, some 10), (4, none), (2, some 1), (2, none), (1, none), (1, none), (5, none), (13, some 0)],
    fun l => match l with | [g, b, r, m, k] => some (.xbase g b r m k) | _ => none⟩]

/-- slot 0 (S), OP 11. -/
def rowsS11 : List Row := [
  ⟨[(4, some 11), (4, none), (2, some 0), (5, none), (17, some 0)],
    fun l => match l with | [g, d] => some (.getm g d) | _ => none⟩,
  ⟨[(4, some 11), (4, none), (7, some 32), (5, none), (7, some 0), (5, none)],
    fun l => match l with | [g, a, m] => some (.setm g a m) | _ => none⟩,
  ⟨[(4, some 11), (4, none), (2, some 2), (5, none), (3, none), (14, some 0)],
    fun l => match l with | [g, d, s] => some (.flGet g d s) | _ => none⟩,
  ⟨[(4, some 11), (4, none), (2, some 3), (2, none), (13, some 0), (7, none)],
    fun l => match l with | [g, s, m] => some (.flClr g s m) | _ => none⟩]

/-- slot 0 (S), OP 12. -/
def rowsS12 : List Row := [
  ⟨[(4, some 12), (4, none), (4, some 0), (5, none), (5, none), (1, none), (9, some 0)],
    fun l => match l with | [g, d, a, x] => some (.tlaunch g d a x) | _ => none⟩,
  ⟨[(4, some 12), (4, none), (4, some 1), (5, none), (5, none), (1, none), (9, some 0)],
    fun l => match l with | [g, d, a, x] => some (.tfork g d a x) | _ => none⟩,
  ⟨[(4, some 12), (4, none), (4, some 2), (5, none), (5, none), (1, none), (9, some 0)],
    fun l => match l with | [g, d, a, x] => some (.tjoin g d a x) | _ => none⟩,
  ⟨[(4, some 12), (4, none), (24, some 3145728)],
    fun l => match l with | [g] => some (.tjoinAll g) | _ => none⟩,
  ⟨[(4, some 12), (4, none), (9, some 128), (5, none), (1, none), (9, some 0)],
    fun l => match l with | [g, a, x] => some (.tkill g a x) | _ => none⟩,
  ⟨[(4, some 12), (4, none), (9, some 160), (5, none), (1, none), (9, some 0)],
    fun l => match l with | [g, a, x] => some (.rgnSet g a x) | _ => none⟩,
  ⟨[(4, some 12), (4, none), (8, some 96), (16, none)],
    fun l => match l with | [g, i] => some (.stgAdvImm g i) | _ => none⟩,
  ⟨[(4, some 12), (4, none), (5, some 13), (5, none), (1, none), (13, some 0)],
    fun l => match l with | [g, a, x] => some (.stgAdvReg g a x) | _ => none⟩,
  ⟨[(4, some 12), (4, none), (8, some 112), (16, none)],
    fun l => match l with | [g, i] => some (.stgSetImm g i) | _ => none⟩,
  ⟨[(4, some 12), (4, none), (5, some 15), (5, none), (1, none), (13, some 0)],
    fun l => match l with | [g, a, x] => some (.stgSetReg g a x) | _ => none⟩,
  ⟨[(4, some 12), (4, none), (4, some 8), (4, none), (1, some 0), (15, none)],
    fun l => match l with | [g, d, i] => some (.stgWlImm g d i) | _ => none⟩,
  ⟨[(4, some 12), (4, none), (4, some 8), (4, none), (1, some 1), (5, none), (1, none), (9, some 0)],
    fun l => match l with | [g, d, a, x] => some (.stgWlReg g d a x) | _ => none⟩,
  ⟨[(4, some 12), (4, none), (4, some 9), (5, none), (4, none), (1, none), (10, some 0)],
    fun l => match l with | [g, d, k, x] => some (.stgRd g d k x) | _ => none⟩]

/-- slot 0 (S), OP 13. -/
def rowsS13 : List Row := [
  ⟨[(4, some 13), (4, none), (4, some 0), (6, none), (5, none), (1, none), (8, some 0)],
    fun l => match l with | [g, t, a, x] => some (.tidSet g t a x) | _ => none⟩,
  ⟨[(4, some 13), (4, none), (4, some 8), (6, none), (5, none), (1, none), (2, none), (6, some 0)],
    fun l => match l with | [g, t, d, x, w] => some (.tidGet g t d x w) | _ => none⟩]

/-- slot 0 (S), OP 15. -/
def rowsS15 : List Row := [
  ⟨[(4, some 15), (1, none), (1, none), (2, none), (2, none), (5, none), (4, none), (2, none), (11, none)],
    fun l => match l with | [d, k, s, y, n, c, t, l] => some (.header d k s y n c t l) | _ => none⟩]

/-- The rows of slot 0 (S) by major opcode; an opcode not listed is reserved. -/
def rowsS : Nat → List Row
  | 0 => rowsS0
  | 1 => rowsS1
  | 2 => rowsS2
  | 3 => rowsS3
  | 4 => rowsS4
  | 5 => rowsS5
  | 6 => rowsS6
  | 7 => rowsS7
  | 8 => rowsS8
  | 9 => rowsS9
  | 10 => rowsS10
  | 11 => rowsS11
  | 12 => rowsS12
  | 13 => rowsS13
  | 15 => rowsS15
  | _ => []

/-- slot 1 (M), OP 0. -/
def rowsM0 : List Row := [
  ⟨[(4, some 0), (4, none), (24, some 0)],
    fun l => match l with | [g] => some (.nopM g) | _ => none⟩,
  ⟨[(4, some 0), (4, none), (4, some 1), (3, none), (1, some 0), (16, none)],
    fun l => match l with | [g, k, i] => some (.waitcImm g k i) | _ => none⟩,
  ⟨[(4, some 0), (4, none), (4, some 1), (3, none), (1, some 1), (5, none), (1, none), (10, some 0)],
    fun l => match l with | [g, k, a, x] => some (.waitcReg g k a x) | _ => none⟩,
  ⟨[(4, some 0), (4, none), (4, some 2), (3, none), (3, none), (14, some 0)],
    fun l => match l with | [g, a, b] => some (.xf g a b) | _ => none⟩,
  ⟨[(4, some 0), (4, none), (24, some 3145728)],
    fun l => match l with | [g] => some (.phase g) | _ => none⟩,
  ⟨[(4, some 0), (4, none), (4, some 4), (3, none), (5, none), (5, none), (1, none), (6, some 0)],
    fun l => match l with | [g, p, a, l, x] => some (.rwsR g p a l x) | _ => none⟩,
  ⟨[(4, some 0), (4, none), (4, some 5), (3, none), (5, none), (5, none), (1, none), (6, some 0)],
    fun l => match l with | [g, p, a, l, x] => some (.rwsW g p a l x) | _ => none⟩,
  ⟨[(4, some 0), (4, none), (4, some 6), (4, none), (5, none), (4, none), (7, some 0)],
    fun l => match l with | [g, t, f, n] => some (.fpost g t f n) | _ => none⟩,
  ⟨[(4, some 0), (4, none), (4, some 7), (5, none), (5, none), (1, none), (9, some 0)],
    fun l => match l with | [g, f, a, x] => some (.fset g f a x) | _ => none⟩,
  ⟨[(4, some 0), (4, none), (4, some 8), (5, none), (5, none), (1, none), (9, some 0)],
    fun l => match l with | [g, c, b, x] => some (.rcIncReg g c b x) | _ => none⟩,
  ⟨[(4, some 0), (4, none), (4, some 8), (5, none), (5, some 0), (1, none), (1, some 1), (8, none)],
    fun l => match l with | [g, c, x, m] => some (.rcIncImm g c x m) | _ => none⟩,
  ⟨[(4, some 0), (4, none), (4, some 9), (5, none), (1, none), (14, some 0)],
    fun l => match l with | [g, a, x] => some (.rcSnap g a x) | _ => none⟩]

/-- slot 1 (M), OP 1. -/
def rowsM1 : List Row := [
  ⟨[(4, some 1), (4, none), (3, some 0), (1, none), (5, none), (5, none), (1, none), (9, none)],
    fun l => match l with | [g, f, d, b, x, o] => some (.lb g f d b x o) | _ => none⟩,
  ⟨[(4, some 1), (4, none), (3, some 1), (1, none), (5, none), (5, none), (1, none), (9, none)],
    fun l => match l with | [g, f, d, b, x, o] => some (.lbn g f d b x o) | _ => none⟩,
  ⟨[(4, some 1), (4, none), (3, some 2), (1, none), (5, none), (5, none), (1, none), (9, none)],
    fun l => match l with | [g, f, d, b, x, o] => some (.lh g f d b x o) | _ => none⟩,
  ⟨[(4, some 1), (4, none), (3, some 3), (1, none), (5, none), (5, none), (1, none), (9, none)],
    fun l => match l with | [g, f, d, b, x, o] => some (.lhn g f d b x o) | _ => none⟩,
  ⟨[(4, some 1), (4, none), (3, some 4), (1, none), (5, none), (5, none), (1, none), (9, none)],
    fun l => match l with | [g, f, d, b, x, o] => some (.lw g f d b x o) | _ => none⟩,
  ⟨[(4, some 1), (4, none), (3, some 5), (1, none), (5, none), (5, none), (1, none), (9, none)],
    fun l => match l with | [g, f, d, b, x, o] => some (.lwn g f d b x o) | _ => none⟩,
  ⟨[(4, some 1), (4, none), (3, some 6), (1, none), (5, none), (5, none), (1, none), (9, none)],
    fun l => match l with | [g, f, d, b, x, o] => some (.ld g f d b x o) | _ => none⟩]

/-- slot 1 (M), OP 2. -/
def rowsM2 : List Row := [
  ⟨[(4, some 2), (4, none), (2, some 0), (1, none), (5, none), (5, none), (1, none), (10, none)],
    fun l => match l with | [g, f, s, b, x, o] => some (.sb g f s b x o) | _ => none⟩,
  ⟨[(4, some 2), (4, none), (2, some 1), (1, none), (5, none), (5, none), (1, none), (10, none)],
    fun l => match l with | [g, f, s, b, x, o] => some (.sh g f s b x o) | _ => none⟩,
  ⟨[(4, some 2), (4, none), (2, some 2), (1, none), (5, none), (5, none), (1, none), (10, none)],
    fun l => match l with | [g, f, s, b, x, o] => some (.sw g f s b x o) | _ => none⟩,
  ⟨[(4, some 2), (4, none), (2, some 3), (1, none), (5, none), (5, none), (1, none), (10, none)],
    fun l => match l with | [g, f, s, b, x, o] => some (.sd g f s b x o) | _ => none⟩]

/-- slot 1 (M), OP 3. -/
def rowsM3 : List Row := [
  ⟨[(4, some 3), (4, none), (3, some 0), (1, none), (5, none), (5, none), (3, none), (1, none), (6, none)],
    fun l => match l with | [g, f, d, b, m, x, o] => some (.vld g f d b m x o) | _ => none⟩,
  ⟨[(4, some 3), (4, none), (3, some 1), (1, none), (5, none), (5, none), (3, none), (1, none), (6, none)],
    fun l => match l with | [g, f, d, b, m, x, o] => some (.vst g f d b m x o) | _ => none⟩,
  ⟨[(4, some 3), (4, none), (3, some 2), (1, none), (5, none), (5, none), (3, none), (1, none), (1, some 0), (5, none)],
    fun l => match l with | [g, f, d, b, m, x, i] => some (.vldx g f d b m x i) | _ => none⟩,
  ⟨[(4, some 3), (4, none), (3, some 3), (1, none), (5, none), (5, none), (3, none), (1, none), (1, some 0), (5, none)],
    fun l => match l with | [g, f, d, b, m, x, i] => some (.vstx g f d b m x i) | _ => none⟩,
  ⟨[(4, some 3), (4, none), (3, some 4), (1, none), (5, none), (5, none), (3, none), (1, none), (6, none)],
    fun l => match l with | [g, f, d, b, m, x, o] => some (.vldb g f d b m x o) | _ => none⟩]

/-- slot 1 (M), OP 4. -/
def rowsM4 : List Row := [
  ⟨[(4, some 4), (4, none), (1, some 0), (2, none), (5, none), (1, none), (3, some 0), (12, none)],
    fun l => match l with | [g, f, r, x, o] => some (.spl g f r x o) | _ => none⟩,
  ⟨[(4, some 4), (4, none), (1, some 1), (2, none), (5, none), (1, none), (3, some 0), (12, none)],
    fun l => match l with | [g, f, r, x, o] => some (.sps g f r x o) | _ => none⟩]

/-- slot 1 (M), OP 5. -/
def rowsM5 : List Row := [
  ⟨[(4, some 5), (4, none), (3, some 0), (4, none), (5, none), (5, none), (7, some 0)],
    fun l => match l with | [g, q, a, b] => some (.qbind g q a b) | _ => none⟩,
  ⟨[(4, some 5), (4, none), (3, some 1), (4, none), (2, none), (5, none), (6, none), (4, none)],
    fun l => match l with | [g, q, f, d, k, o] => some (.qld g q f d k o) | _ => none⟩,
  ⟨[(4, some 5), (4, none), (3, some 2), (4, none), (2, none), (5, none), (6, none), (4, none)],
    fun l => match l with | [g, q, f, d, k, o] => some (.qst g q f d k o) | _ => none⟩,
  ⟨[(4, some 5), (4, none), (3, some 3), (4, none), (13, none), (4, some 0)],
    fun l => match l with | [g, q, n] => some (.qadvP g q n) | _ => none⟩,
  ⟨[(4, some 5), (4, none), (3, some 4), (4, none), (13, none), (4, some 0)],
    fun l => match l with | [g, q, n] => some (.qadvC g q n) | _ => none⟩,
  ⟨[(4, some 5), (4, none), (3, some 5), (4, none), (5, none), (6, none), (6, some 0)],
    fun l => match l with | [g, q, d, k] => some (.qstat g q d k) | _ => none⟩]

/-- slot 1 (M), OP 6. -/
def rowsM6 : List Row := [
  ⟨[(4, some 6), (4, none), (3, some 0), (5, none), (5, none), (5, none), (5, some 0), (1, none)],
    fun l => match l with | [g, d, a, b, x] => some (.atomAdd g d a b x) | _ => none⟩,
  ⟨[(4, some 6), (4, none), (3, some 1), (5, none), (5, none), (5, none), (4, some 0), (1, none), (1, none)],
    fun l => match l with | [g, d, a, b, n, x] => some (.atomMin g d a b n x) | _ => none⟩,
  ⟨[(4, some 6), (4, none), (3, some 2), (5, none), (5, none), (5, none), (4, some 0), (1, none), (1, none)],
    fun l => match l with | [g, d, a, b, n, x] => some (.atomMax g d a b n x) | _ => none⟩,
  ⟨[(4, some 6), (4, none), (3, some 3), (5, none), (5, none), (5, none), (5, some 0), (1, none)],
    fun l => match l with | [g, d, a, b, x] => some (.atomXchg g d a b x) | _ => none⟩,
  ⟨[(4, some 6), (4, none), (3, some 4), (5, none), (5, none), (5, none), (5, none), (1, none)],
    fun l => match l with | [g, d, a, b, c, x] => some (.atomCas g d a b c x) | _ => none⟩,
  ⟨[(4, some 6), (4, none), (3, some 5), (5, none), (5, none), (1, some 0), (4, none), (5, none), (1, none)],
    fun l => match l with | [g, d, a, p, c, x] => some (.atomIncb g d a p c x) | _ => none⟩]

/-- slot 1 (M), OP 7. -/
def rowsM7 : List Row := [
  ⟨[(4, some 7), (4, none), (2, some 0), (5, none), (5, none), (1, none), (5, none), (6, some 0)],
    fun l => match l with | [g, d, a, x, b] => some (.aadd g d a x b) | _ => none⟩,
  ⟨[(4, some 7), (4, none), (2, some 1), (5, none), (5, none), (1, none), (11, none)],
    fun l => match l with | [g, d, a, x, i] => some (.aaddi g d a x i) | _ => none⟩,
  ⟨[(4, some 7), (4, none), (2, some 2), (5, none), (5, none), (1, none), (5, none), (3, none), (3, some 0)],
    fun l => match l with | [g, d, a, x, b, k] => some (.ashl g d a x b k) | _ => none⟩,
  ⟨[(4, some 7), (4, none), (2, some 3), (5, none), (5, none), (1, none), (2, none), (1, none), (8, some 0)],
    fun l => match l with | [g, d, a, x, e, s] => some (.amov g d a x e s) | _ => none⟩]

/-- slot 1 (M), OP 8. -/
def rowsM8 : List Row := [
  ⟨[(4, some 8), (4, none), (4, some 0), (5, none), (5, none), (5, none), (1, none), (1, none), (1, none), (2, some 0)],
    fun l => match l with | [g, d, s, c, x, u, v] => some (.sphCp g d s c x u v) | _ => none⟩,
  ⟨[(4, some 8), (4, none), (4, some 1), (5, none), (5, none), (5, none), (1, none), (4, some 0)],
    fun l => match l with | [g, d, t, c, x] => some (.sphGth g d t c x) | _ => none⟩,
  ⟨[(4, some 8), (4, none), (4, some 2), (5, none), (5, none), (5, none), (1, none), (4, some 0)],
    fun l => match l with | [g, t, s, c, x] => some (.sphSct g t s c x) | _ => none⟩,
  ⟨[(4, some 8), (4, none), (4, some 2), (5, none), (5, none), (5, none), (1, none), (4, some 8)],
    fun l => match l with | [g, t, s, c, x] => some (.sphSctAdd g t s c x) | _ => none⟩,
  ⟨[(4, some 8), (4, none), (4, some 3), (5, none), (5, none), (5, none), (1, none), (1, none), (1, none), (2, some 0)],
    fun l => match l with | [g, d, s, c, x, u, v] => some (.sphRed g d s c x u v) | _ => none⟩,
  ⟨[(4, some 8), (4, none), (4, some 4), (5, none), (5, none), (5, none), (1, none), (1, some 0), (1, none), (2, some 0)],
    fun l => match l with | [g, d, p, c, x, v] => some (.sphFill g d p c x v) | _ => none⟩,
  ⟨[(4, some 8), (4, none), (4, some 5), (5, none), (5, none), (5, none), (1, none), (3, none), (1, some 0)],
    fun l => match l with | [g, d, t, c, x, o] => some (.sphAtom g d t c x o) | _ => none⟩,
  ⟨[(4, some 8), (4, none), (4, some 6), (5, none), (1, none), (1, none), (13, some 0)],
    fun l => match l with | [g, a, l, x] => some (.sphCnl g a l x) | _ => none⟩,
  ⟨[(4, some 8), (4, none), (9, some 224), (5, none), (5, none), (1, none), (4, some 0)],
    fun l => match l with | [g, s, c, x] => some (.sphPre g s c x) | _ => none⟩,
  ⟨[(4, some 8), (4, none), (4, some 8), (5, none), (2, none), (1, none), (12, some 0)],
    fun l => match l with | [g, d, s, x] => some (.sphStat g d s x) | _ => none⟩,
  ⟨[(4, some 8), (4, none), (4, some 9), (5, none), (5, none), (5, none), (1, none), (1, some 0), (1, none), (2, some 0)],
    fun l => match l with | [g, d, v, c, x, w] => some (.sphImm g d v c x w) | _ => none⟩]

/-- The rows of slot 1 (M) by major opcode; an opcode not listed is reserved. -/
def rowsM : Nat → List Row
  | 0 => rowsM0
  | 1 => rowsM1
  | 2 => rowsM2
  | 3 => rowsM3
  | 4 => rowsM4
  | 5 => rowsM5
  | 6 => rowsM6
  | 7 => rowsM7
  | 8 => rowsM8
  | _ => []

/-- slot 2 (V), OP 0. -/
def rowsV0 : List Row := [
  ⟨[(4, some 0), (4, none), (24, some 0)],
    fun l => match l with | [g] => some (.nopV g) | _ => none⟩]

/-- slot 2 (V), OP 1. -/
def rowsV1 : List Row := [
  ⟨[(4, some 1), (4, none), (5, none), (5, none), (5, none), (3, none), (3, none), (3, none)],
    fun l => match l with | [g, d, a, b, m, t, r] => some (.ffma g d a b m t r) | _ => none⟩]

/-- slot 2 (V), OP 2. -/
def rowsV2 : List Row := [
  ⟨[(4, some 2), (4, none), (5, none), (5, none), (5, none), (3, none), (3, none), (3, none)],
    fun l => match l with | [g, d, a, b, m, t, r] => some (.ffms g d a b m t r) | _ => none⟩]

/-- slot 2 (V), OP 3. -/
def rowsV3 : List Row := [
  ⟨[(4, some 3), (4, none), (5, none), (5, none), (5, none), (3, none), (3, none), (3, none)],
    fun l => match l with | [g, d, a, b, m, t, r] => some (.fnma g d a b m t r) | _ => none⟩]

/-- slot 2 (V), OP 4. -/
def rowsV4 : List Row := [
  ⟨[(4, some 4), (4, none), (5, none), (5, none), (5, none), (3, none), (3, none), (3, none)],
    fun l => match l with | [g, d, a, b, m, t, r] => some (.fadd g d a b m t r) | _ => none⟩]

/-- slot 2 (V), OP 5. -/
def rowsV5 : List Row := [
  ⟨[(4, some 5), (4, none), (5, none), (5, none), (5, none), (3, none), (3, none), (3, none)],
    fun l => match l with | [g, d, a, b, m, t, r] => some (.fsub g d a b m t r) | _ => none⟩]

/-- slot 2 (V), OP 6. -/
def rowsV6 : List Row := [
  ⟨[(4, some 6), (4, none), (5, none), (5, none), (5, none), (3, none), (3, none), (3, none)],
    fun l => match l with | [g, d, a, b, m, t, r] => some (.fmul g d a b m t r) | _ => none⟩]

/-- slot 2 (V), OP 7. -/
def rowsV7 : List Row := [
  ⟨[(4, some 7), (4, none), (5, none), (5, none), (5, none), (3, none), (3, none), (3, none)],
    fun l => match l with | [g, d, a, b, m, t, r] => some (.fdiv g d a b m t r) | _ => none⟩]

/-- slot 2 (V), OP 8. -/
def rowsV8 : List Row := [
  ⟨[(4, some 8), (4, none), (5, none), (5, none), (5, some 0), (3, none), (3, none), (3, none)],
    fun l => match l with | [g, d, a, m, t, r] => some (.fsqrt g d a m t r) | _ => none⟩,
  ⟨[(4, some 8), (4, none), (5, none), (5, none), (5, some 1), (3, none), (3, none), (3, none)],
    fun l => match l with | [g, d, a, m, t, r] => some (.frcp g d a m t r) | _ => none⟩,
  ⟨[(4, some 8), (4, none), (5, none), (5, none), (5, some 2), (3, none), (3, none), (3, none)],
    fun l => match l with | [g, d, a, m, t, r] => some (.frsq g d a m t r) | _ => none⟩,
  ⟨[(4, some 8), (4, none), (5, none), (5, none), (5, some 3), (3, none), (3, none), (3, none)],
    fun l => match l with | [g, d, a, m, t, r] => some (.fexp2 g d a m t r) | _ => none⟩,
  ⟨[(4, some 8), (4, none), (5, none), (5, none), (5, some 4), (3, none), (3, none), (3, none)],
    fun l => match l with | [g, d, a, m, t, r] => some (.flog2 g d a m t r) | _ => none⟩]

/-- slot 2 (V), OP 9. -/
def rowsV9 : List Row := [
  ⟨[(4, some 9), (4, none), (5, none), (5, none), (4, none), (4, none), (3, none), (3, none)],
    fun l => match l with | [g, d, a, e, s, m, r] => some (.fcvt g d a e s m r) | _ => none⟩]

/-- slot 2 (V), OP 10. -/
def rowsV10 : List Row := [
  ⟨[(4, some 10), (4, none), (5, none), (5, none), (5, none), (3, none), (3, none), (3, some 0)],
    fun l => match l with | [g, d, a, b, m, t] => some (.fmin g d a b m t) | _ => none⟩,
  ⟨[(4, some 10), (4, none), (5, none), (5, none), (5, none), (3, none), (3, none), (3, some 1)],
    fun l => match l with | [g, d, a, b, m, t] => some (.fmax g d a b m t) | _ => none⟩,
  ⟨[(4, some 10), (4, none), (5, none), (5, none), (5, some 0), (3, none), (3, none), (3, some 2)],
    fun l => match l with | [g, d, a, m, t] => some (.fabs g d a m t) | _ => none⟩,
  ⟨[(4, some 10), (4, none), (5, none), (5, none), (5, some 0), (3, none), (3, none), (3, some 3)],
    fun l => match l with | [g, d, a, m, t] => some (.fneg g d a m t) | _ => none⟩,
  ⟨[(4, some 10), (4, none), (5, none), (5, none), (5, none), (3, none), (3, none), (3, some 4)],
    fun l => match l with | [g, d, a, b, m, t] => some (.fscl g d a b m t) | _ => none⟩]

/-- slot 2 (V), OP 11. -/
def rowsV11 : List Row := [
  ⟨[(4, some 11), (4, none), (3, none), (5, none), (5, none), (3, none), (1, some 0), (3, none), (3, none), (1, some 0)],
    fun l => match l with | [g, e, a, b, m, t, c] => some (.fcmp g e a b m t c) | _ => none⟩,
  ⟨[(4, some 11), (4, none), (3, none), (5, none), (5, none), (3, none), (1, some 1), (3, none), (3, none), (1, some 0)],
    fun l => match l with | [g, e, a, b, m, t, c] => some (.icmp g e a b m t c) | _ => none⟩]

/-- slot 2 (V), OP 12. -/
def rowsV12 : List Row := [
  ⟨[(4, some 12), (4, none), (5, none), (5, none), (5, none), (3, none), (1, none), (2, none), (3, some 0)],
    fun l => match l with | [g, d, a, b, m, n, s] => some (.iadd g d a b m n s) | _ => none⟩,
  ⟨[(4, some 12), (4, none), (5, none), (5, none), (5, none), (3, none), (1, none), (2, none), (3, some 1)],
    fun l => match l with | [g, d, a, b, m, n, s] => some (.isub g d a b m n s) | _ => none⟩,
  ⟨[(4, some 12), (4, none), (5, none), (5, none), (5, none), (3, none), (1, none), (2, none), (3, some 2)],
    fun l => match l with | [g, d, a, b, m, n, s] => some (.imul g d a b m n s) | _ => none⟩,
  ⟨[(4, some 12), (4, none), (5, none), (5, none), (5, none), (3, none), (1, none), (2, none), (3, some 3)],
    fun l => match l with | [g, d, a, b, m, n, s] => some (.imin g d a b m n s) | _ => none⟩,
  ⟨[(4, some 12), (4, none), (5, none), (5, none), (5, none), (3, none), (1, none), (2, none), (3, some 4)],
    fun l => match l with | [g, d, a, b, m, n, s] => some (.imax g d a b m n s) | _ => none⟩]

/-- slot 2 (V), OP 13. -/
def rowsV13 : List Row := [
  ⟨[(4, some 13), (4, none), (5, none), (5, none), (5, none), (3, none), (1, none), (2, none), (3, some 0)],
    fun l => match l with | [g, d, a, b, m, n, s] => some (.iand g d a b m n s) | _ => none⟩,
  ⟨[(4, some 13), (4, none), (5, none), (5, none), (5, none), (3, none), (1, none), (2, none), (3, some 1)],
    fun l => match l with | [g, d, a, b, m, n, s] => some (.ior g d a b m n s) | _ => none⟩,
  ⟨[(4, some 13), (4, none), (5, none), (5, none), (5, none), (3, none), (1, none), (2, none), (3, some 2)],
    fun l => match l with | [g, d, a, b, m, n, s] => some (.ixor g d a b m n s) | _ => none⟩,
  ⟨[(4, some 13), (4, none), (5, none), (5, none), (5, none), (3, none), (1, none), (2, none), (3, some 3)],
    fun l => match l with | [g, d, a, b, m, n, s] => some (.ishl g d a b m n s) | _ => none⟩,
  ⟨[(4, some 13), (4, none), (5, none), (5, none), (5, none), (3, none), (1, none), (2, none), (3, some 4)],
    fun l => match l with | [g, d, a, b, m, n, s] => some (.ishr g d a b m n s) | _ => none⟩,
  ⟨[(4, some 13), (4, none), (5, none), (5, none), (5, none), (3, none), (1, none), (2, none), (3, some 5)],
    fun l => match l with | [g, d, a, b, m, n, s] => some (.isha g d a b m n s) | _ => none⟩]

/-- slot 2 (V), OP 14. -/
def rowsV14 : List Row := [
  ⟨[(4, some 14), (4, none), (5, some 0), (5, none), (5, none), (3, none), (2, none), (4, some 0)],
    fun l => match l with | [g, d, a, m, s] => some (.vsel g d a m s) | _ => none⟩,
  ⟨[(4, some 14), (4, none), (5, some 1), (5, none), (5, none), (5, none), (2, none), (2, some 0)],
    fun l => match l with | [g, d, a, b, s] => some (.vperm g d a b s) | _ => none⟩,
  ⟨[(4, some 14), (4, none), (5, some 2), (5, none), (2, none), (1, some 0), (5, none), (6, none)],
    fun l => match l with | [g, d, s, a, l] => some (.vbcLane g d s a l) | _ => none⟩,
  ⟨[(4, some 14), (4, none), (5, some 2), (5, none), (2, none), (1, some 1), (1, none), (10, none)],
    fun l => match l with | [g, d, s, p, i] => some (.vbcImm g d s p i) | _ => none⟩,
  ⟨[(4, some 14), (4, none), (5, some 3), (5, none), (5, none), (3, none), (2, none), (4, some 0)],
    fun l => match l with | [g, d, a, m, s] => some (.vmov g d a m s) | _ => none⟩,
  ⟨[(4, some 14), (4, none), (5, some 4), (5, none), (5, none), (3, none), (4, none), (2, some 0)],
    fun l => match l with | [g, d, a, m, t] => some (.vsum g d a m t) | _ => none⟩,
  ⟨[(4, some 14), (4, none), (5, some 5), (5, none), (5, none), (3, none), (4, none), (2, some 0)],
    fun l => match l with | [g, d, a, m, t] => some (.vmaxr g d a m t) | _ => none⟩,
  ⟨[(4, some 14), (4, none), (5, some 6), (5, none), (5, none), (3, none), (4, none), (2, some 0)],
    fun l => match l with | [g, d, a, m, t] => some (.vminr g d a m t) | _ => none⟩,
  ⟨[(4, some 14), (4, none), (5, some 7), (5, none), (5, none), (3, none), (3, none), (3, some 0)],
    fun l => match l with | [g, d, a, m, t] => some (.vexpmax g d a m t) | _ => none⟩,
  ⟨[(4, some 14), (4, none), (5, some 8), (5, none), (5, none), (3, none), (3, none), (2, none), (1, none)],
    fun l => match l with | [g, d, a, m, e, s, f] => some (.vnzs g d a m e s f) | _ => none⟩,
  ⟨[(4, some 14), (4, none), (5, some 9), (5, none), (5, none), (3, none), (3, none), (2, none), (1, some 0)],
    fun l => match l with | [g, d, a, m, e, s] => some (.vcmpk g d a m e s) | _ => none⟩,
  ⟨[(4, some 14), (4, none), (5, some 10), (5, none), (5, none), (3, none), (3, none), (3, some 0)],
    fun l => match l with | [g, d, a, m, t] => some (.fcls g d a m t) | _ => none⟩,
  ⟨[(4, some 14), (4, none), (5, some 11), (3, none), (3, none), (3, none), (10, some 0)],
    fun l => match l with | [g, e, a, b] => some (.mand g e a b) | _ => none⟩,
  ⟨[(4, some 14), (4, none), (5, some 12), (3, none), (3, none), (3, none), (10, some 0)],
    fun l => match l with | [g, e, a, b] => some (.mor g e a b) | _ => none⟩,
  ⟨[(4, some 14), (4, none), (5, some 13), (3, none), (3, none), (13, some 0)],
    fun l => match l with | [g, e, a] => some (.mnot g e a) | _ => none⟩,
  ⟨[(4, some 14), (4, none), (5, some 14), (5, none), (3, none), (11, some 0)],
    fun l => match l with | [g, d, a] => some (.mpop g d a) | _ => none⟩,
  ⟨[(4, some 14), (4, none), (5, some 15), (5, none), (4, none), (10, some 0)],
    fun l => match l with | [g, d, p] => some (.vsp g d p) | _ => none⟩]

/-- The rows of slot 2 (V) by major opcode; an opcode not listed is reserved. -/
def rowsV : Nat → List Row
  | 0 => rowsV0
  | 1 => rowsV1
  | 2 => rowsV2
  | 3 => rowsV3
  | 4 => rowsV4
  | 5 => rowsV5
  | 6 => rowsV6
  | 7 => rowsV7
  | 8 => rowsV8
  | 9 => rowsV9
  | 10 => rowsV10
  | 11 => rowsV11
  | 12 => rowsV12
  | 13 => rowsV13
  | 14 => rowsV14
  | _ => []

/-- slot 3 (X), OP 0. -/
def rowsX0 : List Row := [
  ⟨[(4, some 0), (4, none), (24, some 0)],
    fun l => match l with | [g] => some (.nopX g) | _ => none⟩]

/-- slot 3 (X), OP 1. -/
def rowsX1 : List Row := [
  ⟨[(4, some 1), (4, none), (5, none), (5, none), (5, none), (3, none), (3, none), (3, none)],
    fun l => match l with | [g, d, a, b, m, t, r] => some (.ffmaW g d a b m t r) | _ => none⟩]

/-- slot 3 (X), OP 2. -/
def rowsX2 : List Row := [
  ⟨[(4, some 2), (4, none), (5, none), (5, none), (5, none), (3, none), (3, none), (3, none)],
    fun l => match l with | [g, d, a, b, m, t, r] => some (.ffmsW g d a b m t r) | _ => none⟩]

/-- slot 3 (X), OP 3. -/
def rowsX3 : List Row := [
  ⟨[(4, some 3), (4, none), (5, none), (5, none), (5, none), (3, none), (3, none), (3, none)],
    fun l => match l with | [g, d, a, b, m, t, r] => some (.fnmaW g d a b m t r) | _ => none⟩]

/-- slot 3 (X), OP 4. -/
def rowsX4 : List Row := [
  ⟨[(4, some 4), (4, none), (5, none), (5, none), (5, none), (3, none), (3, none), (3, none)],
    fun l => match l with | [g, d, a, b, m, t, r] => some (.faddW g d a b m t r) | _ => none⟩]

/-- slot 3 (X), OP 5. -/
def rowsX5 : List Row := [
  ⟨[(4, some 5), (4, none), (5, none), (5, none), (5, none), (3, none), (3, none), (3, none)],
    fun l => match l with | [g, d, a, b, m, t, r] => some (.fsubW g d a b m t r) | _ => none⟩]

/-- slot 3 (X), OP 6. -/
def rowsX6 : List Row := [
  ⟨[(4, some 6), (4, none), (5, none), (5, none), (5, none), (3, none), (3, none), (3, none)],
    fun l => match l with | [g, d, a, b, m, t, r] => some (.fmulW g d a b m t r) | _ => none⟩]

/-- slot 3 (X), OP 7. -/
def rowsX7 : List Row := [
  ⟨[(4, some 7), (4, none), (4, some 0), (6, none), (5, none), (1, none), (8, none)],
    fun l => match l with | [g, t, a, x, o] => some (.mld g t a x o) | _ => none⟩,
  ⟨[(4, some 7), (4, none), (4, some 1), (6, none), (5, none), (1, none), (8, some 0)],
    fun l => match l with | [g, t, a, x] => some (.mcb g t a x) | _ => none⟩,
  ⟨[(4, some 7), (4, none), (10, some 128), (5, none), (1, none), (8, some 0)],
    fun l => match l with | [g, a, x] => some (.msc g a x) | _ => none⟩,
  ⟨[(4, some 7), (4, none), (4, some 3), (5, none), (1, none), (14, none)],
    fun l => match l with | [g, c, x, e] => some (.bagOpen g c x e) | _ => none⟩,
  ⟨[(4, some 7), (4, none), (4, some 4), (5, none), (1, none), (1, none), (4, none), (9, some 0)],
    fun l => match l with | [g, c, x, q, n] => some (.bagRows g c x q n) | _ => none⟩,
  ⟨[(4, some 7), (4, none), (4, some 5), (5, none), (1, none), (14, some 0)],
    fun l => match l with | [g, c, x] => some (.bagPump g c x) | _ => none⟩,
  ⟨[(4, some 7), (4, none), (24, some 6291456)],
    fun l => match l with | [g] => some (.bagClose g) | _ => none⟩,
  ⟨[(4, some 7), (4, none), (4, some 7), (5, none), (1, none), (14, some 0)],
    fun l => match l with | [g, a, x] => some (.bagRep g a x) | _ => none⟩,
  ⟨[(4, some 7), (4, none), (4, some 8), (5, none), (1, none), (4, none), (3, none), (1, none), (2, none), (4, some 0)],
    fun l => match l with | [g, c, x, t, r, f, s] => some (.sumpDr g c x t r f s) | _ => none⟩,
  ⟨[(4, some 7), (4, none), (4, some 9), (1, none), (5, none), (1, none), (1, none), (12, some 0)],
    fun l => match l with | [g, h, c, x, f] => some (.sumpClr g h c x f) | _ => none⟩]

/-- slot 3 (X), OP 8. -/
def rowsX8 : List Row := [
  ⟨[(4, some 8), (4, none), (3, some 0), (2, none), (5, none), (5, none), (1, none), (8, some 0)],
    fun l => match l with | [g, z, a, b, x] => some (.zld g z a b x) | _ => none⟩,
  ⟨[(4, some 8), (4, none), (3, some 1), (2, none), (5, none), (5, some 0), (1, none), (8, some 0)],
    fun l => match l with | [g, z, a, x] => some (.zst g z a x) | _ => none⟩,
  ⟨[(4, some 8), (4, none), (3, some 2), (2, none), (2, none), (2, none), (2, none), (13, some 0)],
    fun l => match l with | [g, z, a, b, o] => some (.zis g z a b o) | _ => none⟩,
  ⟨[(4, some 8), (4, none), (3, some 3), (2, none), (2, none), (2, none), (2, none), (13, some 0)],
    fun l => match l with | [g, z, a, b, o] => some (.zun g z a b o) | _ => none⟩,
  ⟨[(4, some 8), (4, none), (3, some 4), (2, none), (2, none), (2, none), (15, some 0)],
    fun l => match l with | [g, z, a, b] => some (.zsb g z a b) | _ => none⟩,
  ⟨[(4, some 8), (4, none), (3, some 5), (4, none), (2, none), (2, none), (13, some 0)],
    fun l => match l with | [g, d, a, b] => some (.zma g d a b) | _ => none⟩,
  ⟨[(4, some 8), (4, none), (3, some 6), (4, none), (2, none), (15, some 0)],
    fun l => match l with | [g, d, z] => some (.zlen g d z) | _ => none⟩]

/-- slot 3 (X), OP 9. -/
def rowsX9 : List Row := [
  ⟨[(4, some 9), (4, none), (5, none), (5, none), (4, none), (4, none), (3, none), (3, none)],
    fun l => match l with | [g, d, a, e, s, m, r] => some (.fcvtW g d a e s m r) | _ => none⟩]

/-- slot 3 (X), OP 10. -/
def rowsX10 : List Row := [
  ⟨[(4, some 10), (4, none), (5, none), (5, none), (5, none), (3, none), (3, none), (3, some 0)],
    fun l => match l with | [g, d, a, b, m, t] => some (.fminW g d a b m t) | _ => none⟩,
  ⟨[(4, some 10), (4, none), (5, none), (5, none), (5, none), (3, none), (3, none), (3, some 1)],
    fun l => match l with | [g, d, a, b, m, t] => some (.fmaxW g d a b m t) | _ => none⟩,
  ⟨[(4, some 10), (4, none), (5, none), (5, none), (5, some 0), (3, none), (3, none), (3, some 2)],
    fun l => match l with | [g, d, a, m, t] => some (.fabsW g d a m t) | _ => none⟩,
  ⟨[(4, some 10), (4, none), (5, none), (5, none), (5, some 0), (3, none), (3, none), (3, some 3)],
    fun l => match l with | [g, d, a, m, t] => some (.fnegW g d a m t) | _ => none⟩,
  ⟨[(4, some 10), (4, none), (5, none), (5, none), (5, none), (3, none), (3, none), (3, some 4)],
    fun l => match l with | [g, d, a, b, m, t] => some (.fsclW g d a b m t) | _ => none⟩]

/-- slot 3 (X), OP 12. -/
def rowsX12 : List Row := [
  ⟨[(4, some 12), (4, none), (5, none), (5, none), (5, none), (3, none), (1, none), (2, none), (3, some 0)],
    fun l => match l with | [g, d, a, b, m, n, s] => some (.iaddW g d a b m n s) | _ => none⟩,
  ⟨[(4, some 12), (4, none), (5, none), (5, none), (5, none), (3, none), (1, none), (2, none), (3, some 1)],
    fun l => match l with | [g, d, a, b, m, n, s] => some (.isubW g d a b m n s) | _ => none⟩,
  ⟨[(4, some 12), (4, none), (5, none), (5, none), (5, none), (3, none), (1, none), (2, none), (3, some 2)],
    fun l => match l with | [g, d, a, b, m, n, s] => some (.imulW g d a b m n s) | _ => none⟩,
  ⟨[(4, some 12), (4, none), (5, none), (5, none), (5, none), (3, none), (1, none), (2, none), (3, some 3)],
    fun l => match l with | [g, d, a, b, m, n, s] => some (.iminW g d a b m n s) | _ => none⟩,
  ⟨[(4, some 12), (4, none), (5, none), (5, none), (5, none), (3, none), (1, none), (2, none), (3, some 4)],
    fun l => match l with | [g, d, a, b, m, n, s] => some (.imaxW g d a b m n s) | _ => none⟩]

/-- slot 3 (X), OP 13. -/
def rowsX13 : List Row := [
  ⟨[(4, some 13), (4, none), (5, none), (5, none), (5, none), (3, none), (1, none), (2, none), (3, some 0)],
    fun l => match l with | [g, d, a, b, m, n, s] => some (.iandW g d a b m n s) | _ => none⟩,
  ⟨[(4, some 13), (4, none), (5, none), (5, none), (5, none), (3, none), (1, none), (2, none), (3, some 1)],
    fun l => match l with | [g, d, a, b, m, n, s] => some (.iorW g d a b m n s) | _ => none⟩,
  ⟨[(4, some 13), (4, none), (5, none), (5, none), (5, none), (3, none), (1, none), (2, none), (3, some 2)],
    fun l => match l with | [g, d, a, b, m, n, s] => some (.ixorW g d a b m n s) | _ => none⟩,
  ⟨[(4, some 13), (4, none), (5, none), (5, none), (5, none), (3, none), (1, none), (2, none), (3, some 3)],
    fun l => match l with | [g, d, a, b, m, n, s] => some (.ishlW g d a b m n s) | _ => none⟩,
  ⟨[(4, some 13), (4, none), (5, none), (5, none), (5, none), (3, none), (1, none), (2, none), (3, some 4)],
    fun l => match l with | [g, d, a, b, m, n, s] => some (.ishrW g d a b m n s) | _ => none⟩,
  ⟨[(4, some 13), (4, none), (5, none), (5, none), (5, none), (3, none), (1, none), (2, none), (3, some 5)],
    fun l => match l with | [g, d, a, b, m, n, s] => some (.ishaW g d a b m n s) | _ => none⟩]

/-- The rows of slot 3 (X) by major opcode; an opcode not listed is reserved. -/
def rowsX : Nat → List Row
  | 0 => rowsX0
  | 1 => rowsX1
  | 2 => rowsX2
  | 3 => rowsX3
  | 4 => rowsX4
  | 5 => rowsX5
  | 6 => rowsX6
  | 7 => rowsX7
  | 8 => rowsX8
  | 9 => rowsX9
  | 10 => rowsX10
  | 12 => rowsX12
  | 13 => rowsX13
  | _ => []

/-- The opcode map of each slot position (R41, R42, R44). -/
def slotRows (slot : Nat) : Nat → List Row :=
  match slot with
  | 0 => rowsS
  | 1 => rowsM
  | 2 => rowsV
  | _ => rowsX

/-- Decode one slot word in a slot position.  A word no row reads breaks item 1 of R45; a word that a row
reads and that breaks an item by itself is refused under that item. -/
def decodeSlot (slot w : Nat) : Except DecodeError Instr :=
  match readRows (slotRows slot (w / 2 ^ 28 % 16)) w with
  | none => .error .reservedWord
  | some i =>
    match i.brokenItem with
    | some n => .error (.ofItem n)
    | none => .ok i

/-- A decoded bundle: the S slot (or header), M, V and X instructions. -/
abbrev Bundle := Instr × Instr × Instr × Instr

/-- The instructions whose immediate may borrow LB (R36). -/
def Instr.takesLB : Instr → Bool
  | .lb .. | .lbn .. | .lh .. | .lhn .. | .lw .. | .lwn .. | .ld .. => true
  | .sb .. | .sh .. | .sw .. | .sd .. => true
  | .vld .. | .vst .. | .vldb .. | .aaddi .. => true
  | .vbcImm .. => true
  | .mld .. | .bagOpen .. => true
  | _ => false

/-- The predicates a slot names as destinations (R45, item 5). -/
def Instr.predDests : Instr → List Nat
  | .ceq _ p _ _ _ | .cne _ p _ _ _ | .clt _ p _ _ _ | .cle _ p _ _ _ | .cltn _ p _ _ _
  | .clen _ p _ _ _ => [p, p + 1]
  | .ceqi _ p _ _ | .cnei _ p _ _ | .clti _ p _ _ | .clei _ p _ _ | .cltni _ p _ _
  | .cleni _ p _ _ => [p, p + 1]
  | .pand _ d _ _ | .por _ d _ _ | .pxor _ d _ _ | .pset _ d _ => [d]
  | .stgWlImm .. | .stgWlReg .. => [15]
  | .atomIncb _ _ _ p _ _ => [p, p + 1]
  | .vsp _ _ p => [p, p + 1]
  | _ => []

/-- A slot that explicitly writes FFLAGS (R45, item 6). -/
def Instr.writesFflags : Instr → Bool
  | .flClr _ s _ => s == 0
  | .sumpClr _ h _ _ _ => h == 1
  | _ => false

/-- The slot that a header's LT names may take LB (R36); a bundle without a header borrows nothing. -/
def borrowOk : Bundle → Bool
  | (.header _ _ _ _ _ _ t _, m, v, x) =>
    match t with
    | 0 => true
    | 1 => m.takesLB
    | 2 => v.takesLB
    | _ => x.takesLB
  | _ => true

/-- No two of the lists share a member. -/
def disjointLists : List (List Nat) → Bool
  | [] => true
  | l :: rest => rest.all (fun r => l.all fun x => !r.contains x) && disjointLists rest

/-- The errors of a bundle's four words, by item, and of the bundle as a whole (R45). The items that look at the whole bundle
(2, of LT; 5; 6) are looked at only when every one of its words decodes (log 105). -/
def bundleErrors (s m v x : Except DecodeError Instr) : List Nat :=
  let one := fun e : Except DecodeError Instr => match e with
    | .ok _ => []
    | .error d => [d.item]
  let whole := match s, m, v, x with
    | .ok s, .ok m, .ok v, .ok x =>
      (if borrowOk (s, m, v, x) then [] else [2]) ++
      (if disjointLists [s.predDests, m.predDests, v.predDests, x.predDests] then [] else [5]) ++
      (if s.writesFflags && x.writesFflags then [6] else [])
    | _, _, _, _ => []
  one s ++ one m ++ one v ++ one x ++ whole

/-- The smallest number of a list, `d` for the empty list. -/
def minOf (d : Nat) : List Nat → Nat
  | [] => d
  | x :: rest => Nat.min x (minOf d rest)

/-- Decode a 128-bit bundle, slot 0 in the low bits (R32).  Any broken item makes it illegal; the error
names the lowest-numbered item broken (R150 reports the first). -/
def decodeBundle (b : Nat) : Except DecodeError Bundle :=
  let s := decodeSlot 0 (b % 2 ^ 32)
  let m := decodeSlot 1 (b / 2 ^ 32 % 2 ^ 32)
  let v := decodeSlot 2 (b / 2 ^ 64 % 2 ^ 32)
  let x := decodeSlot 3 (b / 2 ^ 96 % 2 ^ 32)
  match s, m, v, x, bundleErrors s m v x with
  | .ok s, .ok m, .ok v, .ok x, [] => .ok (s, m, v, x)
  | _, _, _, _, es => .error (.ofItem (minOf 7 es))

/-- The number that bytes hold, the lowest address first (R4). -/
def natOfBytes : List (BitVec 8) → Nat
  | [] => 0
  | b :: rest => b.toNat + 256 * natOfBytes rest

/-- The `n` low bytes of a number, the lowest address first (R4). -/
def bytesOfNat : Nat → Nat → List (BitVec 8)
  | 0, _ => []
  | n + 1, x => BitVec.ofNat 8 x :: bytesOfNat n (x / 256)

/-- Decode the 16 bytes of a bundle (R32). -/
def decodeBytes (bs : List (BitVec 8)) : Except DecodeError Bundle :=
  decodeBundle (natOfBytes bs)


/-- The word of a slot 0 (S) instruction, written from the same formats; `none` for any other. -/
def encodeS : Instr → Option Nat
  | .nopS g => some (0 + g * 16777216)
  | .yield g => some (1048576 + g * 16777216)
  | .exit g => some (2097152 + g * 16777216)
  | .trap g c => some (3145728 + g * 16777216 + c)
  | .sysc g c => some (4194304 + g * 16777216 + c)
  | .brk g c => some (5242880 + g * 16777216 + c)
  | .syscResume g => some (4259584 + g * 16777216)
  | .syscKillStep g => some (4259585 + g * 16777216)
  | .syscLocate g => some (4259586 + g * 16777216)
  | .add g d a b x => some (268435456 + g * 16777216 + d * 524288 + a * 16384 + b * 512 + x * 256)
  | .sub g d a b x => some (268435460 + g * 16777216 + d * 524288 + a * 16384 + b * 512 + x * 256)
  | .mul g d a b x => some (268435464 + g * 16777216 + d * 524288 + a * 16384 + b * 512 + x * 256)
  | .mulh g d a b x => some (268435468 + g * 16777216 + d * 524288 + a * 16384 + b * 512 + x * 256)
  | .mulhn g d a b x => some (268435472 + g * 16777216 + d * 524288 + a * 16384 + b * 512 + x * 256)
  | .div g d a b x => some (268435476 + g * 16777216 + d * 524288 + a * 16384 + b * 512 + x * 256)
  | .divn g d a b x => some (268435480 + g * 16777216 + d * 524288 + a * 16384 + b * 512 + x * 256)
  | .rem g d a b x => some (268435484 + g * 16777216 + d * 524288 + a * 16384 + b * 512 + x * 256)
  | .remn g d a b x => some (268435488 + g * 16777216 + d * 524288 + a * 16384 + b * 512 + x * 256)
  | .and g d a b x => some (268435492 + g * 16777216 + d * 524288 + a * 16384 + b * 512 + x * 256)
  | .or g d a b x => some (268435496 + g * 16777216 + d * 524288 + a * 16384 + b * 512 + x * 256)
  | .xor g d a b x => some (268435500 + g * 16777216 + d * 524288 + a * 16384 + b * 512 + x * 256)
  | .andn g d a b x => some (268435504 + g * 16777216 + d * 524288 + a * 16384 + b * 512 + x * 256)
  | .shl g d a b x => some (268435508 + g * 16777216 + d * 524288 + a * 16384 + b * 512 + x * 256)
  | .shr g d a b x => some (268435512 + g * 16777216 + d * 524288 + a * 16384 + b * 512 + x * 256)
  | .sha g d a b x => some (268435516 + g * 16777216 + d * 524288 + a * 16384 + b * 512 + x * 256)
  | .min g d a b x => some (268435520 + g * 16777216 + d * 524288 + a * 16384 + b * 512 + x * 256)
  | .max g d a b x => some (268435524 + g * 16777216 + d * 524288 + a * 16384 + b * 512 + x * 256)
  | .minn g d a b x => some (268435528 + g * 16777216 + d * 524288 + a * 16384 + b * 512 + x * 256)
  | .maxn g d a b x => some (268435532 + g * 16777216 + d * 524288 + a * 16384 + b * 512 + x * 256)
  | .clz g d a x => some (268435536 + g * 16777216 + d * 524288 + a * 16384 + x * 256)
  | .popc g d a x => some (268435540 + g * 16777216 + d * 524288 + a * 16384 + x * 256)
  | .addi g d a x i => some (536870912 + g * 16777216 + d * 524288 + a * 16384 + x * 512 + i)
  | .muli g d a x i => some (536871936 + g * 16777216 + d * 524288 + a * 16384 + x * 512 + i)
  | .andi g d a x i => some (536872960 + g * 16777216 + d * 524288 + a * 16384 + x * 512 + i)
  | .ori g d a x i => some (536873984 + g * 16777216 + d * 524288 + a * 16384 + x * 512 + i)
  | .xori g d a x i => some (536875008 + g * 16777216 + d * 524288 + a * 16384 + x * 512 + i)
  | .andni g d a x i => some (536876032 + g * 16777216 + d * 524288 + a * 16384 + x * 512 + i)
  | .shli g d a x i => some (536877056 + g * 16777216 + d * 524288 + a * 16384 + x * 512 + i)
  | .shri g d a x i => some (536878080 + g * 16777216 + d * 524288 + a * 16384 + x * 512 + i)
  | .shai g d a x i => some (536879104 + g * 16777216 + d * 524288 + a * 16384 + x * 512 + i)
  | .mini g d a x i => some (536880128 + g * 16777216 + d * 524288 + a * 16384 + x * 512 + i)
  | .maxi g d a x i => some (536881152 + g * 16777216 + d * 524288 + a * 16384 + x * 512 + i)
  | .minni g d a x i => some (536882176 + g * 16777216 + d * 524288 + a * 16384 + x * 512 + i)
  | .maxni g d a x i => some (536883200 + g * 16777216 + d * 524288 + a * 16384 + x * 512 + i)
  | .ceq g p a b x => some (805306368 + g * 16777216 + p * 1048576 + a * 32768 + b * 1024 + x * 512)
  | .cne g p a b x => some (805306432 + g * 16777216 + p * 1048576 + a * 32768 + b * 1024 + x * 512)
  | .clt g p a b x => some (805306496 + g * 16777216 + p * 1048576 + a * 32768 + b * 1024 + x * 512)
  | .cle g p a b x => some (805306560 + g * 16777216 + p * 1048576 + a * 32768 + b * 1024 + x * 512)
  | .cltn g p a b x => some (805306624 + g * 16777216 + p * 1048576 + a * 32768 + b * 1024 + x * 512)
  | .clen g p a b x => some (805306688 + g * 16777216 + p * 1048576 + a * 32768 + b * 1024 + x * 512)
  | .ceqi g p a i => some (1073741824 + g * 16777216 + p * 1048576 + a * 32768 + i)
  | .cnei g p a i => some (1073745920 + g * 16777216 + p * 1048576 + a * 32768 + i)
  | .clti g p a i => some (1073750016 + g * 16777216 + p * 1048576 + a * 32768 + i)
  | .clei g p a i => some (1073754112 + g * 16777216 + p * 1048576 + a * 32768 + i)
  | .cltni g p a i => some (1073758208 + g * 16777216 + p * 1048576 + a * 32768 + i)
  | .cleni g p a i => some (1073762304 + g * 16777216 + p * 1048576 + a * 32768 + i)
  | .lih g d h i => some (1342177280 + g * 16777216 + d * 524288 + h * 65536 + i)
  | .lihK g d h i => some (1342439424 + g * 16777216 + d * 524288 + h * 65536 + i)
  | .sel g d a b p x => some (1610612736 + g * 16777216 + d * 524288 + a * 16384 + b * 512 + p * 32 + x * 16)
  | .pand g d a b => some (1879048192 + g * 16777216 + d * 1048576 + a * 65536 + b * 4096)
  | .por g d a b => some (1879049216 + g * 16777216 + d * 1048576 + a * 65536 + b * 4096)
  | .pxor g d a b => some (1879050240 + g * 16777216 + d * 1048576 + a * 65536 + b * 4096)
  | .pset g d v => some (1879051264 + g * 16777216 + d * 1048576 + v)
  | .br g o => some (2147483648 + g * 16777216 + o)
  | .call g d o => some (2151677952 + g * 16777216 + d * 131072 + o)
  | .bra g d a x => some (2155872256 + g * 16777216 + d * 131072 + a * 4096 + x * 2048)
  | .ret g a x => some (2160066560 + g * 16777216 + a * 4096 + x * 2048)
  | .lpBegReg g l a => some (2415919104 + g * 16777216 + l * 4096 + a * 128)
  | .lpBegImm g l c => some (2418016256 + g * 16777216 + l * 4096 + c)
  | .lpIdx g d k => some (2420113408 + g * 16777216 + d * 131072 + k * 16384)
  | .lpBrk g => some (2424307712 + g * 16777216)
  | .xcp g f d s a l x => some (2684354560 + g * 16777216 + f * 2097152 + d * 65536 + s * 16384 + a * 512 + l * 16 + x * 8)
  | .xbase g b r m k => some (2688548864 + g * 16777216 + b * 1048576 + r * 524288 + m * 262144 + k * 8192)
  | .getm g d => some (2952790016 + g * 16777216 + d * 131072)
  | .setm g a m => some (2956984320 + g * 16777216 + a * 4096 + m)
  | .flGet g d s => some (2961178624 + g * 16777216 + d * 131072 + s * 16384)
  | .flClr g s m => some (2965372928 + g * 16777216 + s * 1048576 + m)
  | .tlaunch g d a x => some (3221225472 + g * 16777216 + d * 32768 + a * 1024 + x * 512)
  | .tfork g d a x => some (3222274048 + g * 16777216 + d * 32768 + a * 1024 + x * 512)
  | .tjoin g d a x => some (3223322624 + g * 16777216 + d * 32768 + a * 1024 + x * 512)
  | .tjoinAll g => some (3224371200 + g * 16777216)
  | .tkill g a x => some (3225419776 + g * 16777216 + a * 1024 + x * 512)
  | .rgnSet g a x => some (3226468352 + g * 16777216 + a * 1024 + x * 512)
  | .stgAdvImm g i => some (3227516928 + g * 16777216 + i)
  | .stgAdvReg g a x => some (3228041216 + g * 16777216 + a * 16384 + x * 8192)
  | .stgSetImm g i => some (3228565504 + g * 16777216 + i)
  | .stgSetReg g a x => some (3229089792 + g * 16777216 + a * 16384 + x * 8192)
  | .stgWlImm g d i => some (3229614080 + g * 16777216 + d * 65536 + i)
  | .stgWlReg g d a x => some (3229646848 + g * 16777216 + d * 65536 + a * 1024 + x * 512)
  | .stgRd g d k x => some (3230662656 + g * 16777216 + d * 32768 + k * 2048 + x * 1024)
  | .tidSet g t a x => some (3489660928 + g * 16777216 + t * 16384 + a * 512 + x * 256)
  | .tidGet g t d x w => some (3498049536 + g * 16777216 + t * 16384 + d * 512 + x * 256 + w * 64)
  | .header d k s y n c t l => some (4026531840 + d * 134217728 + k * 67108864 + s * 16777216 + y * 4194304 + n * 131072 + c * 8192 + t * 2048 + l)
  | _ => none

/-- The word of a slot 1 (M) instruction, written from the same formats; `none` for any other. -/
def encodeM : Instr → Option Nat
  | .nopM g => some (0 + g * 16777216)
  | .waitcImm g k i => some (1048576 + g * 16777216 + k * 131072 + i)
  | .waitcReg g k a x => some (1114112 + g * 16777216 + k * 131072 + a * 2048 + x * 1024)
  | .xf g a b => some (2097152 + g * 16777216 + a * 131072 + b * 16384)
  | .phase g => some (3145728 + g * 16777216)
  | .rwsR g p a l x => some (4194304 + g * 16777216 + p * 131072 + a * 4096 + l * 128 + x * 64)
  | .rwsW g p a l x => some (5242880 + g * 16777216 + p * 131072 + a * 4096 + l * 128 + x * 64)
  | .fpost g t f n => some (6291456 + g * 16777216 + t * 65536 + f * 2048 + n * 128)
  | .fset g f a x => some (7340032 + g * 16777216 + f * 32768 + a * 1024 + x * 512)
  | .rcIncReg g c b x => some (8388608 + g * 16777216 + c * 32768 + b * 1024 + x * 512)
  | .rcIncImm g c x m => some (8388864 + g * 16777216 + c * 32768 + x * 512 + m)
  | .rcSnap g a x => some (9437184 + g * 16777216 + a * 32768 + x * 16384)
  | .lb g f d b x o => some (268435456 + g * 16777216 + f * 1048576 + d * 32768 + b * 1024 + x * 512 + o)
  | .lbn g f d b x o => some (270532608 + g * 16777216 + f * 1048576 + d * 32768 + b * 1024 + x * 512 + o)
  | .lh g f d b x o => some (272629760 + g * 16777216 + f * 1048576 + d * 32768 + b * 1024 + x * 512 + o)
  | .lhn g f d b x o => some (274726912 + g * 16777216 + f * 1048576 + d * 32768 + b * 1024 + x * 512 + o)
  | .lw g f d b x o => some (276824064 + g * 16777216 + f * 1048576 + d * 32768 + b * 1024 + x * 512 + o)
  | .lwn g f d b x o => some (278921216 + g * 16777216 + f * 1048576 + d * 32768 + b * 1024 + x * 512 + o)
  | .ld g f d b x o => some (281018368 + g * 16777216 + f * 1048576 + d * 32768 + b * 1024 + x * 512 + o)
  | .sb g f s b x o => some (536870912 + g * 16777216 + f * 2097152 + s * 65536 + b * 2048 + x * 1024 + o)
  | .sh g f s b x o => some (541065216 + g * 16777216 + f * 2097152 + s * 65536 + b * 2048 + x * 1024 + o)
  | .sw g f s b x o => some (545259520 + g * 16777216 + f * 2097152 + s * 65536 + b * 2048 + x * 1024 + o)
  | .sd g f s b x o => some (549453824 + g * 16777216 + f * 2097152 + s * 65536 + b * 2048 + x * 1024 + o)
  | .vld g f d b m x o => some (805306368 + g * 16777216 + f * 1048576 + d * 32768 + b * 1024 + m * 128 + x * 64 + o)
  | .vst g f d b m x o => some (807403520 + g * 16777216 + f * 1048576 + d * 32768 + b * 1024 + m * 128 + x * 64 + o)
  | .vldx g f d b m x i => some (809500672 + g * 16777216 + f * 1048576 + d * 32768 + b * 1024 + m * 128 + x * 64 + i)
  | .vstx g f d b m x i => some (811597824 + g * 16777216 + f * 1048576 + d * 32768 + b * 1024 + m * 128 + x * 64 + i)
  | .vldb g f d b m x o => some (813694976 + g * 16777216 + f * 1048576 + d * 32768 + b * 1024 + m * 128 + x * 64 + o)
  | .spl g f r x o => some (1073741824 + g * 16777216 + f * 2097152 + r * 65536 + x * 32768 + o)
  | .sps g f r x o => some (1082130432 + g * 16777216 + f * 2097152 + r * 65536 + x * 32768 + o)
  | .qbind g q a b => some (1342177280 + g * 16777216 + q * 131072 + a * 4096 + b * 128)
  | .qld g q f d k o => some (1344274432 + g * 16777216 + q * 131072 + f * 32768 + d * 1024 + k * 16 + o)
  | .qst g q f d k o => some (1346371584 + g * 16777216 + q * 131072 + f * 32768 + d * 1024 + k * 16 + o)
  | .qadvP g q n => some (1348468736 + g * 16777216 + q * 131072 + n * 16)
  | .qadvC g q n => some (1350565888 + g * 16777216 + q * 131072 + n * 16)
  | .qstat g q d k => some (1352663040 + g * 16777216 + q * 131072 + d * 4096 + k * 64)
  | .atomAdd g d a b x => some (1610612736 + g * 16777216 + d * 65536 + a * 2048 + b * 64 + x)
  | .atomMin g d a b n x => some (1612709888 + g * 16777216 + d * 65536 + a * 2048 + b * 64 + n * 2 + x)
  | .atomMax g d a b n x => some (1614807040 + g * 16777216 + d * 65536 + a * 2048 + b * 64 + n * 2 + x)
  | .atomXchg g d a b x => some (1616904192 + g * 16777216 + d * 65536 + a * 2048 + b * 64 + x)
  | .atomCas g d a b c x => some (1619001344 + g * 16777216 + d * 65536 + a * 2048 + b * 64 + c * 2 + x)
  | .atomIncb g d a p c x => some (1621098496 + g * 16777216 + d * 65536 + a * 2048 + p * 64 + c * 2 + x)
  | .aadd g d a x b => some (1879048192 + g * 16777216 + d * 131072 + a * 4096 + x * 2048 + b * 64)
  | .aaddi g d a x i => some (1883242496 + g * 16777216 + d * 131072 + a * 4096 + x * 2048 + i)
  | .ashl g d a x b k => some (1887436800 + g * 16777216 + d * 131072 + a * 4096 + x * 2048 + b * 64 + k * 8)
  | .amov g d a x e s => some (1891631104 + g * 16777216 + d * 131072 + a * 4096 + x * 2048 + e * 512 + s * 256)
  | .sphCp g d s c x u v => some (2147483648 + g * 16777216 + d * 32768 + s * 1024 + c * 32 + x * 16 + u * 8 + v * 4)
  | .sphGth g d t c x => some (2148532224 + g * 16777216 + d * 32768 + t * 1024 + c * 32 + x * 16)
  | .sphSct g t s c x => some (2149580800 + g * 16777216 + t * 32768 + s * 1024 + c * 32 + x * 16)
  | .sphSctAdd g t s c x => some (2149580808 + g * 16777216 + t * 32768 + s * 1024 + c * 32 + x * 16)
  | .sphRed g d s c x u v => some (2150629376 + g * 16777216 + d * 32768 + s * 1024 + c * 32 + x * 16 + u * 8 + v * 4)
  | .sphFill g d p c x v => some (2151677952 + g * 16777216 + d * 32768 + p * 1024 + c * 32 + x * 16 + v * 4)
  | .sphAtom g d t c x o => some (2152726528 + g * 16777216 + d * 32768 + t * 1024 + c * 32 + x * 16 + o * 2)
  | .sphCnl g a l x => some (2153775104 + g * 16777216 + a * 32768 + l * 16384 + x * 8192)
  | .sphPre g s c x => some (2154823680 + g * 16777216 + s * 1024 + c * 32 + x * 16)
  | .sphStat g d s x => some (2155872256 + g * 16777216 + d * 32768 + s * 8192 + x * 4096)
  | .sphImm g d v c x w => some (2156920832 + g * 16777216 + d * 32768 + v * 1024 + c * 32 + x * 16 + w * 4)
  | _ => none

/-- The word of a slot 2 (V) instruction, written from the same formats; `none` for any other. -/
def encodeV : Instr → Option Nat
  | .nopV g => some (0 + g * 16777216)
  | .ffma g d a b m t r => some (268435456 + g * 16777216 + d * 524288 + a * 16384 + b * 512 + m * 64 + t * 8 + r)
  | .ffms g d a b m t r => some (536870912 + g * 16777216 + d * 524288 + a * 16384 + b * 512 + m * 64 + t * 8 + r)
  | .fnma g d a b m t r => some (805306368 + g * 16777216 + d * 524288 + a * 16384 + b * 512 + m * 64 + t * 8 + r)
  | .fadd g d a b m t r => some (1073741824 + g * 16777216 + d * 524288 + a * 16384 + b * 512 + m * 64 + t * 8 + r)
  | .fsub g d a b m t r => some (1342177280 + g * 16777216 + d * 524288 + a * 16384 + b * 512 + m * 64 + t * 8 + r)
  | .fmul g d a b m t r => some (1610612736 + g * 16777216 + d * 524288 + a * 16384 + b * 512 + m * 64 + t * 8 + r)
  | .fdiv g d a b m t r => some (1879048192 + g * 16777216 + d * 524288 + a * 16384 + b * 512 + m * 64 + t * 8 + r)
  | .fsqrt g d a m t r => some (2147483648 + g * 16777216 + d * 524288 + a * 16384 + m * 64 + t * 8 + r)
  | .frcp g d a m t r => some (2147484160 + g * 16777216 + d * 524288 + a * 16384 + m * 64 + t * 8 + r)
  | .frsq g d a m t r => some (2147484672 + g * 16777216 + d * 524288 + a * 16384 + m * 64 + t * 8 + r)
  | .fexp2 g d a m t r => some (2147485184 + g * 16777216 + d * 524288 + a * 16384 + m * 64 + t * 8 + r)
  | .flog2 g d a m t r => some (2147485696 + g * 16777216 + d * 524288 + a * 16384 + m * 64 + t * 8 + r)
  | .fcvt g d a e s m r => some (2415919104 + g * 16777216 + d * 524288 + a * 16384 + e * 1024 + s * 64 + m * 8 + r)
  | .fmin g d a b m t => some (2684354560 + g * 16777216 + d * 524288 + a * 16384 + b * 512 + m * 64 + t * 8)
  | .fmax g d a b m t => some (2684354561 + g * 16777216 + d * 524288 + a * 16384 + b * 512 + m * 64 + t * 8)
  | .fabs g d a m t => some (2684354562 + g * 16777216 + d * 524288 + a * 16384 + m * 64 + t * 8)
  | .fneg g d a m t => some (2684354563 + g * 16777216 + d * 524288 + a * 16384 + m * 64 + t * 8)
  | .fscl g d a b m t => some (2684354564 + g * 16777216 + d * 524288 + a * 16384 + b * 512 + m * 64 + t * 8)
  | .fcmp g e a b m t c => some (2952790016 + g * 16777216 + e * 2097152 + a * 65536 + b * 2048 + m * 256 + t * 16 + c * 2)
  | .icmp g e a b m t c => some (2952790144 + g * 16777216 + e * 2097152 + a * 65536 + b * 2048 + m * 256 + t * 16 + c * 2)
  | .iadd g d a b m n s => some (3221225472 + g * 16777216 + d * 524288 + a * 16384 + b * 512 + m * 64 + n * 32 + s * 8)
  | .isub g d a b m n s => some (3221225473 + g * 16777216 + d * 524288 + a * 16384 + b * 512 + m * 64 + n * 32 + s * 8)
  | .imul g d a b m n s => some (3221225474 + g * 16777216 + d * 524288 + a * 16384 + b * 512 + m * 64 + n * 32 + s * 8)
  | .imin g d a b m n s => some (3221225475 + g * 16777216 + d * 524288 + a * 16384 + b * 512 + m * 64 + n * 32 + s * 8)
  | .imax g d a b m n s => some (3221225476 + g * 16777216 + d * 524288 + a * 16384 + b * 512 + m * 64 + n * 32 + s * 8)
  | .iand g d a b m n s => some (3489660928 + g * 16777216 + d * 524288 + a * 16384 + b * 512 + m * 64 + n * 32 + s * 8)
  | .ior g d a b m n s => some (3489660929 + g * 16777216 + d * 524288 + a * 16384 + b * 512 + m * 64 + n * 32 + s * 8)
  | .ixor g d a b m n s => some (3489660930 + g * 16777216 + d * 524288 + a * 16384 + b * 512 + m * 64 + n * 32 + s * 8)
  | .ishl g d a b m n s => some (3489660931 + g * 16777216 + d * 524288 + a * 16384 + b * 512 + m * 64 + n * 32 + s * 8)
  | .ishr g d a b m n s => some (3489660932 + g * 16777216 + d * 524288 + a * 16384 + b * 512 + m * 64 + n * 32 + s * 8)
  | .isha g d a b m n s => some (3489660933 + g * 16777216 + d * 524288 + a * 16384 + b * 512 + m * 64 + n * 32 + s * 8)
  | .vsel g d a m s => some (3758096384 + g * 16777216 + d * 16384 + a * 512 + m * 64 + s * 16)
  | .vperm g d a b s => some (3758620672 + g * 16777216 + d * 16384 + a * 512 + b * 16 + s * 4)
  | .vbcLane g d s a l => some (3759144960 + g * 16777216 + d * 16384 + s * 4096 + a * 64 + l)
  | .vbcImm g d s p i => some (3759147008 + g * 16777216 + d * 16384 + s * 4096 + p * 1024 + i)
  | .vmov g d a m s => some (3759669248 + g * 16777216 + d * 16384 + a * 512 + m * 64 + s * 16)
  | .vsum g d a m t => some (3760193536 + g * 16777216 + d * 16384 + a * 512 + m * 64 + t * 4)
  | .vmaxr g d a m t => some (3760717824 + g * 16777216 + d * 16384 + a * 512 + m * 64 + t * 4)
  | .vminr g d a m t => some (3761242112 + g * 16777216 + d * 16384 + a * 512 + m * 64 + t * 4)
  | .vexpmax g d a m t => some (3761766400 + g * 16777216 + d * 16384 + a * 512 + m * 64 + t * 8)
  | .vnzs g d a m e s f => some (3762290688 + g * 16777216 + d * 16384 + a * 512 + m * 64 + e * 8 + s * 2 + f)
  | .vcmpk g d a m e s => some (3762814976 + g * 16777216 + d * 16384 + a * 512 + m * 64 + e * 8 + s * 2)
  | .fcls g d a m t => some (3763339264 + g * 16777216 + d * 16384 + a * 512 + m * 64 + t * 8)
  | .mand g e a b => some (3763863552 + g * 16777216 + e * 65536 + a * 8192 + b * 1024)
  | .mor g e a b => some (3764387840 + g * 16777216 + e * 65536 + a * 8192 + b * 1024)
  | .mnot g e a => some (3764912128 + g * 16777216 + e * 65536 + a * 8192)
  | .mpop g d a => some (3765436416 + g * 16777216 + d * 16384 + a * 2048)
  | .vsp g d p => some (3765960704 + g * 16777216 + d * 16384 + p * 1024)
  | _ => none

/-- The word of a slot 3 (X) instruction, written from the same formats; `none` for any other. -/
def encodeX : Instr → Option Nat
  | .nopX g => some (0 + g * 16777216)
  | .ffmaW g d a b m t r => some (268435456 + g * 16777216 + d * 524288 + a * 16384 + b * 512 + m * 64 + t * 8 + r)
  | .ffmsW g d a b m t r => some (536870912 + g * 16777216 + d * 524288 + a * 16384 + b * 512 + m * 64 + t * 8 + r)
  | .fnmaW g d a b m t r => some (805306368 + g * 16777216 + d * 524288 + a * 16384 + b * 512 + m * 64 + t * 8 + r)
  | .faddW g d a b m t r => some (1073741824 + g * 16777216 + d * 524288 + a * 16384 + b * 512 + m * 64 + t * 8 + r)
  | .fsubW g d a b m t r => some (1342177280 + g * 16777216 + d * 524288 + a * 16384 + b * 512 + m * 64 + t * 8 + r)
  | .fmulW g d a b m t r => some (1610612736 + g * 16777216 + d * 524288 + a * 16384 + b * 512 + m * 64 + t * 8 + r)
  | .fcvtW g d a e s m r => some (2415919104 + g * 16777216 + d * 524288 + a * 16384 + e * 1024 + s * 64 + m * 8 + r)
  | .fminW g d a b m t => some (2684354560 + g * 16777216 + d * 524288 + a * 16384 + b * 512 + m * 64 + t * 8)
  | .fmaxW g d a b m t => some (2684354561 + g * 16777216 + d * 524288 + a * 16384 + b * 512 + m * 64 + t * 8)
  | .fabsW g d a m t => some (2684354562 + g * 16777216 + d * 524288 + a * 16384 + m * 64 + t * 8)
  | .fnegW g d a m t => some (2684354563 + g * 16777216 + d * 524288 + a * 16384 + m * 64 + t * 8)
  | .fsclW g d a b m t => some (2684354564 + g * 16777216 + d * 524288 + a * 16384 + b * 512 + m * 64 + t * 8)
  | .iaddW g d a b m n s => some (3221225472 + g * 16777216 + d * 524288 + a * 16384 + b * 512 + m * 64 + n * 32 + s * 8)
  | .isubW g d a b m n s => some (3221225473 + g * 16777216 + d * 524288 + a * 16384 + b * 512 + m * 64 + n * 32 + s * 8)
  | .imulW g d a b m n s => some (3221225474 + g * 16777216 + d * 524288 + a * 16384 + b * 512 + m * 64 + n * 32 + s * 8)
  | .iminW g d a b m n s => some (3221225475 + g * 16777216 + d * 524288 + a * 16384 + b * 512 + m * 64 + n * 32 + s * 8)
  | .imaxW g d a b m n s => some (3221225476 + g * 16777216 + d * 524288 + a * 16384 + b * 512 + m * 64 + n * 32 + s * 8)
  | .iandW g d a b m n s => some (3489660928 + g * 16777216 + d * 524288 + a * 16384 + b * 512 + m * 64 + n * 32 + s * 8)
  | .iorW g d a b m n s => some (3489660929 + g * 16777216 + d * 524288 + a * 16384 + b * 512 + m * 64 + n * 32 + s * 8)
  | .ixorW g d a b m n s => some (3489660930 + g * 16777216 + d * 524288 + a * 16384 + b * 512 + m * 64 + n * 32 + s * 8)
  | .ishlW g d a b m n s => some (3489660931 + g * 16777216 + d * 524288 + a * 16384 + b * 512 + m * 64 + n * 32 + s * 8)
  | .ishrW g d a b m n s => some (3489660932 + g * 16777216 + d * 524288 + a * 16384 + b * 512 + m * 64 + n * 32 + s * 8)
  | .ishaW g d a b m n s => some (3489660933 + g * 16777216 + d * 524288 + a * 16384 + b * 512 + m * 64 + n * 32 + s * 8)
  | .mld g t a x o => some (1879048192 + g * 16777216 + t * 16384 + a * 512 + x * 256 + o)
  | .mcb g t a x => some (1880096768 + g * 16777216 + t * 16384 + a * 512 + x * 256)
  | .msc g a x => some (1881145344 + g * 16777216 + a * 512 + x * 256)
  | .bagOpen g c x e => some (1882193920 + g * 16777216 + c * 32768 + x * 16384 + e)
  | .bagRows g c x q n => some (1883242496 + g * 16777216 + c * 32768 + x * 16384 + q * 8192 + n * 512)
  | .bagPump g c x => some (1884291072 + g * 16777216 + c * 32768 + x * 16384)
  | .bagClose g => some (1885339648 + g * 16777216)
  | .bagRep g a x => some (1886388224 + g * 16777216 + a * 32768 + x * 16384)
  | .sumpDr g c x t r f s => some (1887436800 + g * 16777216 + c * 32768 + x * 16384 + t * 1024 + r * 128 + f * 64 + s * 16)
  | .sumpClr g h c x f => some (1888485376 + g * 16777216 + h * 524288 + c * 16384 + x * 8192 + f * 4096)
  | .zld g z a b x => some (2147483648 + g * 16777216 + z * 524288 + a * 16384 + b * 512 + x * 256)
  | .zst g z a x => some (2149580800 + g * 16777216 + z * 524288 + a * 16384 + x * 256)
  | .zis g z a b o => some (2151677952 + g * 16777216 + z * 524288 + a * 131072 + b * 32768 + o * 8192)
  | .zun g z a b o => some (2153775104 + g * 16777216 + z * 524288 + a * 131072 + b * 32768 + o * 8192)
  | .zsb g z a b => some (2155872256 + g * 16777216 + z * 524288 + a * 131072 + b * 32768)
  | .zma g d a b => some (2157969408 + g * 16777216 + d * 131072 + a * 32768 + b * 8192)
  | .zlen g d z => some (2160066560 + g * 16777216 + d * 131072 + z * 32768)
  | _ => none

/-- The slot position and the word of a slot instruction; `none` for an event, which has no word. -/
def encodeWord (i : Instr) : Option (Nat × Nat) :=
  match encodeS i, encodeM i, encodeV i, encodeX i with
  | some w, _, _, _ => some (0, w)
  | _, some w, _, _ => some (1, w)
  | _, _, some w, _ => some (2, w)
  | _, _, _, some w => some (3, w)
  | _, _, _, _ => none

/-- The slot position of an instruction; events have none. -/
def Instr.slot (i : Instr) : Option Nat :=
  (encodeWord i).map (·.1)

/-- The 128-bit bundle that holds one slot instruction, every other slot empty (R40). -/
def encodeSolo (i : Instr) : Option Nat :=
  (encodeWord i).map fun p => p.2 * 2 ^ (32 * p.1)

/-- The 128-bit bundle of four instructions: each word in the slot its form belongs to. -/
def encodeBundle (b : Bundle) : Option Nat :=
  match encodeSolo b.1, encodeSolo b.2.1, encodeSolo b.2.2.1, encodeSolo b.2.2.2 with
  | some s, some m, some v, some x => some (s + m + v + x)
  | _, _, _, _ => none

/-- The slot in which a bare 32-bit word is read: the first slot position, from 0 to 3, whose map reads it.
A word alone does not say its slot (R41 to R44 use the same majors), so the order is the model's. -/
def tableSlot (w : Nat) : Option (Nat × Instr) :=
  match decodeSlot 0 w, decodeSlot 1 w, decodeSlot 2 w, decodeSlot 3 w with
  | .ok i, _, _, _ => some (0, i)
  | _, .ok i, _, _ => some (1, i)
  | _, _, .ok i, _ => some (2, i)
  | _, _, _, .ok i => some (3, i)
  | _, _, _, _ => none

/-- The instruction the decoder reads from the low 32 bits of a table word. -/
def decodeTableWord (_nbits w : Nat) : Option Instr :=
  (tableSlot (w % 2 ^ 32)).map (·.2)

end Sys2Proof
end

