-- ==== Sys2Proof/Machine/Bits.lean ====
section
/-! DEFINITION. Bit fields, sign extension and small integer helpers (R4, R7, R36). -/

namespace Sys2Proof.Machine

/-- Bits `lo + w - 1` to `lo` of a number. -/
def bits (x lo w : Nat) : Nat := x / 2 ^ lo % 2 ^ w

/-- Bit `n` of a number. -/
def bitAt (x n : Nat) : Bool := x / 2 ^ n % 2 == 1

/-- A `w`-bit field read as two's complement. -/
def sext (w x : Nat) : Int :=
  if 2 * (x % 2 ^ w) < 2 ^ w then (x % 2 ^ w : Nat) else ((x % 2 ^ w : Nat) : Int) - (2 ^ w : Nat)

/-- An integer modulo 2^w. -/
def wrap (w : Nat) (i : Int) : Nat := (i % (2 ^ w : Nat)).toNat

/-- The number with its `w` bits at `lo` replaced by `v`. -/
def putBits (x lo w v : Nat) : Nat :=
  x - bits x lo w * 2 ^ lo + v % 2 ^ w * 2 ^ lo

/-- A number as a program counter: 32 bits, of which bits 3:0 are always zero (R33). -/
def alignPc (n : Nat) : Nat := n % 2 ^ 32 / 16 * 16

/-- A Bool as a number. -/
def ofBool (b : Bool) : Nat := if b then 1 else 0

/-- The number of bits of `m` up to its leading one; 0 for 0. -/
def bitLen (m : Nat) : Nat := if m = 0 then 0 else m.log2 + 1

/-- Integer square root by bits `n - 1` down to 0 of the root. -/
def isqrtBits (x : Nat) : Nat → Nat → Nat
  | 0, r => r
  | n + 1, r =>
    if (r + 2 ^ n) * (r + 2 ^ n) ≤ x then isqrtBits x n (r + 2 ^ n) else isqrtBits x n r

/-- ⌊√x⌋. -/
def isqrt (x : Nat) : Nat := isqrtBits x (bitLen x / 2 + 1) 0

/-- Integer cube root by bits. -/
def icbrtBits (x : Nat) : Nat → Nat → Nat
  | 0, r => r
  | n + 1, r =>
    if (r + 2 ^ n) * (r + 2 ^ n) * (r + 2 ^ n) ≤ x then icbrtBits x n (r + 2 ^ n)
    else icbrtBits x n r

/-- ⌊∛x⌋. -/
def icbrt (x : Nat) : Nat := icbrtBits x (bitLen x / 3 + 1) 0

/-- The number of one bits among the low `n`. -/
def popCount (x : Nat) : Nat → Nat
  | 0 => 0
  | n + 1 => x % 2 + popCount (x / 2) n

/-- The numbers 0 to n - 1. -/
def upTo (n : Nat) : List Nat := List.range n

/-- Pack `w`-bit elements, the first in the low bits (R181). -/
def packLanes (w : Nat) : List Nat → Nat
  | [] => 0
  | x :: rest => x % 2 ^ w + 2 ^ w * packLanes w rest

/-- Replace the element at position `i` by `f` of it. -/
def mapAt {α : Type} (i : Nat) (f : α → α) : List α → List α
  | [] => []
  | x :: rest => match i with
    | 0 => f x :: rest
    | j + 1 => x :: mapAt j f rest

/-- The position of the first element that satisfies `p`. -/
def findPos {α : Type} (p : α → Bool) : List α → Option Nat
  | [] => none
  | x :: rest => if p x then some 0 else (findPos p rest).map (· + 1)

/-- Read a vector register file position, modulo its size (R39). -/
def vget {α : Type} {n : Nat} (v : Vector α (n + 1)) (i : Nat) : α :=
  v[i % (n + 1)]'(Nat.mod_lt _ (Nat.succ_pos n))

/-- Write a register file position, modulo its size. -/
def vput {α : Type} {n : Nat} (v : Vector α (n + 1)) (i : Nat) (x : α) : Vector α (n + 1) :=
  v.set (i % (n + 1)) x (Nat.mod_lt _ (Nat.succ_pos n))

end Sys2Proof.Machine
end

