-- ==== Sys2Proof/Machine/Float.lean ====
section
/-! DEFINITION. Number formats and rounding (R52 to R67, R76): values are exact (dyadic numbers, or a truncated
magnitude with a sticky bit for quotients, roots and transcendentals), every narrowing goes through `round`. -/

namespace Sys2Proof.Machine

/-- The six floating-point formats (R52). -/
inductive FTy where
  | f64 | f32 | bf16 | f16 | e4m3 | e5m2
  deriving DecidableEq, Repr, Inhabited

/-- The rounding modes (R61). -/
inductive RMode where
  | rne | rtz | rdn | rup | rna
  deriving DecidableEq, Repr, Inhabited

/-- An element type of R43: a float, or an integer of 2^(3+sz) bits, signed or not. -/
inductive ETy where
  | flt (t : FTy)
  | int (signed : Bool) (sz : Nat)
  deriving DecidableEq, Repr, Inhabited

/-- What the numeric mode fixes for one operation (R59, R62). -/
structure FEnv where
  rm : RMode
  satn : Bool
  sub16 : Nat
  sub64 : Nat
  deriving DecidableEq, Repr, Inhabited

/-- A value read from a format: NaN (signalling or quiet), infinity, or ±m·2^e. -/
inductive FVal where
  | nan (sig : Bool)
  | inf (neg : Bool)
  | fin (neg : Bool) (m : Nat) (e : Int)
  deriving DecidableEq, Repr, Inhabited

/-- An exact real for rounding: ±x with m·2^e ≤ x < (m+1)·2^e, equal to the lower end unless `sticky`. -/
structure Exact where
  neg : Bool
  m : Nat
  e : Int
  sticky : Bool
  deriving DecidableEq, Repr, Inhabited

/-- FFLAGS bits (R63). -/
abbrev FFlags := BitVec 7

def fNX : FFlags := 1#7
def fUF : FFlags := 2#7
def fOF : FFlags := 4#7
def fDZ : FFlags := 8#7
def fNV : FFlags := 16#7
def fWX : FFlags := 32#7
def fWO : FFlags := 64#7

/-- The format a type code of R43 names (codes 0 to 5). -/
def FTy.ofCode : Nat → FTy
  | 0 => .f64
  | 1 => .f32
  | 2 => .bf16
  | 3 => .f16
  | 4 => .e4m3
  | _ => .e5m2

/-- The element type a 4-bit code of R43 names. -/
def ETy.ofCode (c : Nat) : ETy :=
  if c < 6 then .flt (FTy.ofCode c) else .int (c < 12) (c % 4)

/-- The static rounding code of R43, or the dynamic mode for code 0. -/
def RMode.ofCode (dyn : RMode) : Nat → RMode
  | 1 => .rne
  | 2 => .rtz
  | 3 => .rdn
  | 4 => .rup
  | 5 => .rna
  | _ => dyn

def FTy.width : FTy → Nat
  | .f64 => 64
  | .f32 => 32
  | .bf16 | .f16 => 16
  | .e4m3 | .e5m2 => 8

/-- Bits of the fraction field F (R52). -/
def FTy.fracBits : FTy → Nat
  | .f64 => 52
  | .f32 => 23
  | .bf16 => 7
  | .f16 => 10
  | .e4m3 => 3
  | .e5m2 => 2

/-- The exponent bias b (R52). -/
def FTy.bias : FTy → Nat
  | .f64 => 1023
  | .f32 | .bf16 => 127
  | .f16 | .e5m2 => 15
  | .e4m3 => 7

def FTy.expBits (t : FTy) : Nat := t.width - 1 - t.fracBits

/-- The precision: the significand's bits with the hidden one. -/
def FTy.prec (t : FTy) : Nat := t.fracBits + 1

/-- The exponent of the smallest normal. -/
def FTy.emin (t : FTy) : Int := 1 - (t.bias : Int)

/-- The exponent of the leading bit of the largest finite value. -/
def FTy.emax : FTy → Int
  | .e4m3 => 8
  | t => (t.bias : Int)

/-- The significand of the largest finite value, of `prec` bits (R52). -/
def FTy.maxSig : FTy → Nat
  | .e4m3 => 14
  | t => 2 ^ t.prec - 1

/-- SATN and the 16-bit class concern these formats (R59, R66). -/
def FTy.narrow : FTy → Bool
  | .f64 | .f32 => false
  | _ => true

/-- The canonical NaN (R53). -/
def FTy.cnan : FTy → Nat
  | .f64 => 0x7FF8000000000000
  | .f32 => 0x7FC00000
  | .bf16 => 0x7FC0
  | .f16 => 0x7E00
  | .e4m3 => 0x7F
  | .e5m2 => 0x7E

def FTy.signBit (t : FTy) (neg : Bool) : Nat := if neg then 2 ^ (t.width - 1) else 0

/-- The zero of a sign. -/
def FTy.zero (t : FTy) (neg : Bool) : Nat := t.signBit neg

/-- The largest finite magnitude with a sign. -/
def FTy.maxFin (t : FTy) (neg : Bool) : Nat :=
  t.signBit neg + match t with
    | .e4m3 => 0x7E
    | _ => (2 ^ t.expBits - 1) * 2 ^ t.fracBits - 1

/-- The infinity of a sign, for the formats that have one. -/
def FTy.infBits (t : FTy) (neg : Bool) : Nat :=
  t.signBit neg + (2 ^ t.expBits - 1) * 2 ^ t.fracBits

def ETy.width : ETy → Nat
  | .flt t => t.width
  | .int _ sz => 2 ^ (sz + 3)

/-- Read a bit pattern (R52, R53). -/
def FTy.val (t : FTy) (x : Nat) : FVal :=
  let neg := bitAt x (t.width - 1)
  let ex := bits x t.fracBits t.expBits
  let fr := bits x 0 t.fracBits
  let top := 2 ^ t.expBits - 1
  if t = .e4m3 && ex == top && fr == 7 then .nan false
  else if t ≠ .e4m3 && ex == top then
    if fr = 0 then .inf neg else .nan (!bitAt fr (t.fracBits - 1))
  else if ex = 0 then .fin neg fr (t.emin - t.fracBits)
  else .fin neg (2 ^ t.fracBits + fr) ((ex : Int) - t.bias - t.fracBits)

/-- The pattern is a subnormal (E = 0, F ≠ 0). -/
def FTy.isSubnormal (t : FTy) (x : Nat) : Bool :=
  bits x t.fracBits t.expBits == 0 && bits x 0 t.fracBits != 0

def FEnv.policy (v : FEnv) (t : FTy) : Nat := if t.narrow then v.sub16 else v.sub64

/-- Policy codes 2 and 3 flush inputs (R62). -/
def FEnv.flushIn (v : FEnv) (t : FTy) : Bool := 2 ≤ v.policy t

/-- Policy codes 1 and 3 flush outputs (R62). -/
def FEnv.flushOut (v : FEnv) (t : FTy) : Bool := v.policy t % 2 == 1

/-- Flush-inputs on a pattern (R62). -/
def flushBits (v : FEnv) (t : FTy) (x : Nat) : Nat :=
  if v.flushIn t && t.isSubnormal x then t.zero (bitAt x (t.width - 1)) else x % 2 ^ t.width

/-- A pattern read as an operand: flush-inputs applied (R62, R183). -/
def readVal (v : FEnv) (t : FTy) (x : Nat) : FVal := t.val (flushBits v t x)

/-- Round a magnitude to a multiple of 2^q: the multiple and whether it is inexact (R61). -/
def roundAt (rm : RMode) (x : Exact) (q : Int) : Nat × Bool :=
  let sh := q - x.e
  if sh ≤ 0 then (x.m * 2 ^ (-sh).toNat, x.sticky)
  else if sh > (bitLen x.m : Int) + 2 then
    let inex := x.m != 0 || x.sticky
    let up := match rm with
      | .rdn => x.neg && inex
      | .rup => !x.neg && inex
      | _ => false
    (ofBool up, inex)
  else
    let k := sh.toNat
    let quo := x.m / 2 ^ k
    let rem := x.m % 2 ^ k
    let half := 2 ^ (k - 1)
    let inex := rem != 0 || x.sticky
    let above := rem > half || (rem == half && x.sticky)
    let tie := rem == half && !x.sticky
    let up := match rm with
      | .rne => above || (tie && quo % 2 == 1)
      | .rtz => false
      | .rdn => x.neg && inex
      | .rup => !x.neg && inex
      | .rna => above || tie
    (quo + ofBool up, inex)

/-- Overflow delivery (R66). -/
def overflowTo (v : FEnv) (t : FTy) (neg : Bool) (rm : RMode) : Nat :=
  let toInf := match rm with
    | .rne | .rna => true
    | .rup => !neg
    | .rdn => neg
    | .rtz => false
  if !toInf then t.maxFin neg
  else if t.narrow && v.satn then t.maxFin neg
  else if t = .e4m3 then t.cnan
  else t.infBits neg

/-- Infinity delivered to a format (R66). -/
def infTo (v : FEnv) (t : FTy) (neg : Bool) : Nat × FFlags :=
  if t ≠ .e4m3 then (t.infBits neg, 0)
  else if v.satn then (t.maxFin neg, 0)
  else (t.cnan, fNV)

/-- Round a nonzero exact magnitude into a format (R66, the finite part of `round`). -/
def roundFin (v : FEnv) (t : FTy) (x : Exact) (rm : RMode) : Nat × FFlags :=
  let q := x.e + bitLen x.m - t.prec
  let y := (roundAt rm x q).1
  let tiny := (bitLen y : Int) - 1 + q < t.emin
  if tiny && v.flushOut t then (t.zero x.neg, fUF ||| fNX)
  else
    let qg := max q (t.emin - t.fracBits)
    let r := roundAt rm x qg
    let z := if r.1 = 2 ^ t.prec then 2 ^ (t.prec - 1) else r.1
    let qz := if r.1 = 2 ^ t.prec then qg + 1 else qg
    let lead := (bitLen z : Int) - 1 + qz
    if lead > t.emax || (lead == t.emax && z > t.maxSig) then
      (overflowTo v t x.neg rm, fOF ||| fNX)
    else
      let ex := if z < 2 ^ t.fracBits then 0 else (qz + t.fracBits + t.bias).toNat
      let fr := if z < 2 ^ t.fracBits then z else z - 2 ^ t.fracBits
      (t.signBit x.neg + ex * 2 ^ t.fracBits + fr,
        if r.2 then (if tiny then fNX ||| fUF else fNX) else 0)

/-- `round` on an exact value (R66). -/
def roundTo (v : FEnv) (t : FTy) (x : Exact) (rm : RMode) : Nat × FFlags :=
  if x.m = 0 && !x.sticky then (t.zero x.neg, 0) else roundFin v t x rm

/-- `round` on a value read from a format (R66). -/
def roundVal (v : FEnv) (t : FTy) (x : FVal) (rm : RMode) : Nat × FFlags :=
  match x with
  | .nan sig => (t.cnan, if sig then fNV else 0)
  | .inf neg => infTo v t neg
  | .fin neg m e => roundTo v t ⟨neg, m, e, false⟩ rm

/-- The smallest and largest value of an integer type (R58). -/
def intMin (signed : Bool) (w : Nat) : Int := if signed then -((2 ^ (w - 1) : Nat) : Int) else 0
def intMax (signed : Bool) (w : Nat) : Int :=
  if signed then ((2 ^ (w - 1) : Nat) : Int) - 1 else ((2 ^ w : Nat) : Int) - 1

/-- `cvt_int` on an exact value (R67). -/
def cvtIntExact (signed : Bool) (w : Nat) (x : Exact) (rm : RMode) : Nat × FFlags :=
  let big := x.m != 0 && x.e > 0 && (bitLen x.m : Int) + x.e > 70
  let r := if big then (2 ^ 70, false) else roundAt rm x 0
  let y : Int := if x.neg then -(r.1 : Int) else r.1
  if y > intMax signed w then (wrap w (intMax signed w), fNV)
  else if y < intMin signed w then (wrap w (intMin signed w), fNV)
  else (wrap w y, if r.2 then fNX else 0)

/-- `cvt_int` (R67). -/
def cvtInt (signed : Bool) (w : Nat) (x : FVal) (rm : RMode) : Nat × FFlags :=
  match x with
  | .nan _ => (0, fNV)
  | .inf neg => (wrap w (if neg then intMin signed w else intMax signed w), fNV)
  | .fin neg m e => cvtIntExact signed w ⟨neg, m, e, false⟩ rm

/-- A `w`-bit pattern as an integer of its signedness. -/
def intVal (signed : Bool) (w x : Nat) : Int := if signed then sext w x else (x % 2 ^ w : Nat)

/-- The widening pairs of R67. -/
def widens (src dst : FTy) : Bool :=
  match src, dst with
  | .bf16, .f32 | .bf16, .f64 | .f16, .f32 | .f16, .f64 | .f32, .f64 => true
  | .e4m3, d => d.width ≥ 16
  | .e5m2, d => d.width ≥ 16
  | _, _ => false

/-- `convert`: one element from one type to another (R67, R192). -/
def convert (v : FEnv) (dt st : ETy) (x : Nat) (rm : RMode) : Nat × FFlags :=
  match st, dt with
  | .flt s, .flt d =>
    match readVal v s x with
    | .fin neg m e =>
      if widens s d then
        if m = 0 then (d.zero neg, 0)
        else if v.flushOut d && (bitLen m : Int) - 1 + e < d.emin then (d.zero neg, fUF ||| fNX)
        else ((roundTo { v with sub16 := 0, sub64 := 0 } d ⟨neg, m, e, false⟩ rm).1, 0)
      else roundTo v d ⟨neg, m, e, false⟩ rm
    | y => roundVal v d y rm
  | .flt s, .int sg sz => cvtInt sg (2 ^ (sz + 3)) (readVal v s x) rm
  | .int sg sz, .flt d =>
    let i := intVal sg (2 ^ (sz + 3)) x
    roundTo v d ⟨i < 0, i.natAbs, 0, false⟩ rm
  | .int sg sz, .int dg dz =>
    let i := intVal sg (2 ^ (sz + 3)) x
    let w := 2 ^ (dz + 3)
    (wrap w (max (intMin dg w) (min (intMax dg w) i)), 0)

/-! ### Exact arithmetic on values -/

/-- The integer multiple of 2^e of a signed magnitude at a lower exponent. -/
def scaledInt (neg : Bool) (m : Nat) (e base : Int) : Int :=
  let a := ((m * 2 ^ (e - base).toNat : Nat) : Int)
  if neg then -a else a

/-- The sum of two finite values, with the zero-sign rule of R187. -/
def sumExact (rm : RMode) (n₁ : Bool) (m₁ : Nat) (e₁ : Int) (n₂ : Bool) (m₂ : Nat) (e₂ : Int) : Exact :=
  if m₁ = 0 && m₂ = 0 then ⟨if n₁ == n₂ then n₁ else rm == .rdn, 0, 0, false⟩
  else if m₁ = 0 then ⟨n₂, m₂, e₂, false⟩
  else if m₂ = 0 then ⟨n₁, m₁, e₁, false⟩
  else
    let base := min e₁ e₂
    let s := scaledInt n₁ m₁ e₁ base + scaledInt n₂ m₂ e₂ base
    if s = 0 then ⟨rm == .rdn, 0, 0, false⟩ else ⟨s < 0, s.natAbs, base, false⟩

def FVal.isSig : FVal → Bool
  | .nan true => true
  | _ => false

def FVal.isNan : FVal → Bool
  | .nan _ => true
  | _ => false

def FVal.isInf : FVal → Bool
  | .inf _ => true
  | _ => false

def FVal.isZero : FVal → Bool
  | .fin _ 0 _ => true
  | _ => false

def FVal.neg : FVal → FVal
  | .nan s => .nan s
  | .inf n => .inf (!n)
  | .fin n m e => .fin (!n) m e

/-- The sign of a value; a NaN has none. -/
def FVal.sign : FVal → Bool
  | .nan _ => false
  | .inf n => n
  | .fin n _ _ => n

/-- The exact product of two values that are not NaN and not 0 × ∞. -/
def mulVal (x y : FVal) : FVal :=
  match x, y with
  | .fin n₁ m₁ e₁, .fin n₂ m₂ e₂ => .fin (n₁ != n₂) (m₁ * m₂) (e₁ + e₂)
  | x, y => .inf (x.sign != y.sign)

/-- The sum of two values neither NaN nor opposite infinities, rounded (R187). -/
def addRound (v : FEnv) (t : FTy) (rm : RMode) (x y : FVal) : Nat × FFlags :=
  match x, y with
  | .fin n₁ m₁ e₁, .fin n₂ m₂ e₂ => roundTo v t (sumExact rm n₁ m₁ e₁ n₂ m₂ e₂) rm
  | .inf n, _ => (t.infBits n, 0)
  | _, .inf n => (t.infBits n, 0)
  | _, _ => (t.cnan, 0)

/-- `fop` for x + y (R187). -/
def fopAdd (v : FEnv) (t : FTy) (rm : RMode) (x y : FVal) : Nat × FFlags :=
  if x.isSig || y.isSig then (t.cnan, fNV)
  else if x.isNan || y.isNan then (t.cnan, 0)
  else if x.isInf && y.isInf && x.sign != y.sign then (t.cnan, fNV)
  else addRound v t rm x y

/-- `fop` for x × y (R187). -/
def fopMul (v : FEnv) (t : FTy) (rm : RMode) (x y : FVal) : Nat × FFlags :=
  if x.isSig || y.isSig then (t.cnan, fNV)
  else if (x.isZero && y.isInf) || (x.isInf && y.isZero) then (t.cnan, fNV)
  else if x.isNan || y.isNan then (t.cnan, 0)
  else match mulVal x y with
    | .fin n m e => roundTo v t ⟨n, m, e, false⟩ rm
    | .inf n => (t.infBits n, 0)
    | .nan _ => (t.cnan, 0)

/-- `fop` for the fused x × y + z with one rounding (R187); callers negate the product or z. -/
def fopFma (v : FEnv) (t : FTy) (rm : RMode) (negProd : Bool) (x y z : FVal) : Nat × FFlags :=
  if x.isSig || y.isSig || z.isSig then (t.cnan, fNV)
  else if (x.isZero && y.isInf) || (x.isInf && y.isZero) then (t.cnan, fNV)
  else if x.isNan || y.isNan || z.isNan then (t.cnan, 0)
  else
    let p := if negProd then (mulVal x y).neg else mulVal x y
    if p.isInf && z.isInf && p.sign != z.sign then (t.cnan, fNV)
    else addRound v t rm p z

/-- The quotient of two nonzero magnitudes, with enough bits for one rounding. -/
def divExact (t : FTy) (n : Bool) (m₁ : Nat) (e₁ : Int) (m₂ : Nat) (e₂ : Int) : Exact :=
  let k := t.prec + 3 + bitLen m₂ - bitLen m₁
  ⟨n, m₁ * 2 ^ k / m₂, e₁ - e₂ - k, m₁ * 2 ^ k % m₂ != 0⟩

/-- `fop` for x / y (R187). -/
def fopDiv (v : FEnv) (t : FTy) (rm : RMode) (x y : FVal) : Nat × FFlags :=
  if x.isSig || y.isSig then (t.cnan, fNV)
  else match x, y with
    | .nan _, _ | _, .nan _ => (t.cnan, 0)
    | .inf _, .inf _ => (t.cnan, fNV)
    | .inf n, y => (t.infBits (n != y.sign), 0)
    | .fin n _ _, .inf n' => (t.zero (n != n'), 0)
    | .fin n m₁ e₁, .fin n' m₂ e₂ =>
      if m₁ = 0 && m₂ = 0 then (t.cnan, fNV)
      else if m₂ = 0 then (t.infBits (n != n'), fDZ)
      else if m₁ = 0 then (t.zero (n != n'), 0)
      else roundTo v t (divExact t (n != n') m₁ e₁ m₂ e₂) rm

/-- √ of a nonzero magnitude. -/
def sqrtExact (t : FTy) (m : Nat) (e : Int) : Exact :=
  let k := 2 * t.prec + 6
  let k := if (e - k) % 2 = 0 then k else k + 1
  let s := isqrt (m * 2 ^ k)
  ⟨false, s, (e - k) / 2, s * s != m * 2 ^ k⟩

/-- `fsqrt` (R188). -/
def fopSqrt (v : FEnv) (t : FTy) (rm : RMode) : FVal → Nat × FFlags
  | .nan sig => (t.cnan, if sig then fNV else 0)
  | .inf n => if n then (t.cnan, fNV) else (t.infBits false, 0)
  | .fin n m e =>
    if m = 0 then (t.zero n, 0)
    else if n then (t.cnan, fNV)
    else roundTo v t (sqrtExact t m e) rm

/-- `frcp` (R188). -/
def fopRcp (v : FEnv) (t : FTy) (rm : RMode) : FVal → Nat × FFlags
  | .nan sig => (t.cnan, if sig then fNV else 0)
  | .inf n => (t.zero n, 0)
  | .fin n m e =>
    if m = 0 then (t.infBits n, fDZ) else roundTo v t (divExact t n 1 0 m e) rm

/-- 1/√ of a nonzero magnitude: ⌊√(2^k / m')⌋ with the exponent of m even. -/
def rsqrtExact (t : FTy) (m : Nat) (e : Int) : Exact :=
  let m' := if e % 2 = 0 then m else 2 * m
  let e' := if e % 2 = 0 then e else e - 1
  let k := 2 * (t.prec + 4 + bitLen m')
  let s := isqrt (2 ^ k / m')
  ⟨false, s, -(e' / 2) - (k / 2 : Nat), s * s * m' != 2 ^ k⟩

/-- `frsq` (R188). -/
def fopRsq (v : FEnv) (t : FTy) (rm : RMode) : FVal → Nat × FFlags
  | .nan sig => (t.cnan, if sig then fNV else 0)
  | .inf n => if n then (t.cnan, fNV) else (t.zero false, 0)
  | .fin n m e =>
    if m = 0 then (t.infBits n, fDZ)
    else if n then (t.cnan, fNV)
    else roundTo v t (rsqrtExact t m e) rm

/-- `fscl`: x × 2^n (R191). -/
def fopScl (v : FEnv) (t : FTy) (rm : RMode) (x : FVal) (n : Int) : Nat × FFlags :=
  match x with
  | .nan sig => (t.cnan, if sig then fNV else 0)
  | .inf s => (t.infBits s, 0)
  | .fin s m e => roundTo v t ⟨s, m, e + n, false⟩ rm

/-! ### Order -/

/-- x < y for values that are not NaN; -0 equals +0. -/
def ltVal (x y : FVal) : Bool :=
  match x, y with
  | .inf n, .inf n' => n && !n'
  | .inf n, _ => n
  | _, .inf n => !n
  | .fin n₁ m₁ e₁, .fin n₂ m₂ e₂ =>
    let base := min e₁ e₂
    scaledInt n₁ m₁ e₁ base < scaledInt n₂ m₂ e₂ base
  | _, _ => false

/-- x < y with -0 below +0 (R189). -/
def ltTotal (x y : FVal) : Bool :=
  ltVal x y || (x.isZero && y.isZero && x.sign && !y.sign)

/-- `fmin` (`larger` = false) and `fmax` on flushed patterns (R189). -/
def fopMinMax (v : FEnv) (t : FTy) (larger : Bool) (a b : Nat) : Nat × FFlags :=
  let a := flushBits v t a
  let b := flushBits v t b
  let x := t.val a
  let y := t.val b
  let fl := if x.isSig || y.isSig then fNV else 0
  if x.isNan && y.isNan then (t.cnan, fl)
  else if x.isNan then (b, fl)
  else if y.isNan then (a, fl)
  else if larger then (if ltTotal x y then b else a, fl)
  else (if ltTotal y x then b else a, fl)

end Sys2Proof.Machine
end

