-- ==== Sys2Proof/Config.lean ====
section
/-! DEFINITION. What an implementation fixes, and the free values: what the spec leaves open is an opaque constant,
so that no proof can rest on a value of it. -/

namespace Sys2Proof.Config

/-! ### Figures of the N4 -/

/-- Device memory, 768 GB (R9): the last 8 GiB begin at 0xB0_D05E_0000 (R395). -/
abbrev deviceBytes : Nat := 768000000000

/-- Size of a context's save area (R155). -/
abbrev saveArea : Nat := 0x40000

/-- Watchdog bound (R154). -/
abbrev watchdogLimit : Nat := 2 ^ 28

/-- Gate and array-hold entries (R50, R144). -/
abbrev gateSize : Nat := 32
abbrev holdSize : Nat := 16

/-- The overlap count at which the younger context is let through (R141). -/
abbrev overlapLimit : Nat := 64

/-- Room a tile image takes in the save pool (R304 gives no size; log 71). -/
abbrev tileImageRoom : Nat := 0x30000

/-- Dump offset in device memory (R395). -/
abbrev dumpAt : Nat := 0xB0D05E0000

/-! ### Free values -/

/-- The free choice made with the free counter at `k`: which of several enabled acts comes next, which TLB entry a
refill displaces, which free frame is taken, whether an old or a new code copy is fetched (log 3). -/
opaque freeChoice : Nat → Nat

/-- The detail of a machine check: the layout of "location class and index" is not stated (R150). The classes are
those of `Machine.mcDetail`. -/
opaque machineCheckDetail : Nat → Nat → Word

/-- The detail of the set-overlap trap with cause "held effects at phase", whose value is not stated (R98). -/
opaque heldAtPhase : Word

/-- How the set-overlap detail packs a (member, context, path) triple into its byte (R150). -/
opaque setTriple : Nat → Nat → Nat → BitVec 8

/-- How the device identity key's 32-byte seed is derived from the fused secret, which no rule gives (R390). -/
opaque identitySeed : List Byte → List Byte

/-- The certificate of the identity key, whose layout the spec does not give (R390): the public key and Hexvin's signature. -/
opaque certificate : List Byte → List Byte → List Byte

/-- How an SPDM answer lays out what it carries, which the spec does not give (R390): the answer's code and its parts. -/
opaque spdmAnswer : Nat → List (List Byte) → List Byte

/-- What a signature of an SPDM answer is made over, which the spec does not lay out beyond that it covers the requester's nonce
(R390): the request, the nonce and the parts of the answer. -/
opaque spdmSigned : List Byte → List Byte → List (List Byte) → List Byte

/-- The layout of an error-log entry in a mailbox answer (R393): class, index, check, corrected, count. -/
opaque logEntryBytes : Nat → Nat → Nat → Bool → Nat → List Byte

/-- The parts of the dump whose layout the spec does not give, from what they hold, row by row: task-engine tables and stage
boards (R395). -/
opaque dumpTables : List (List Nat) → List Byte
opaque dumpBoards : List (List Nat) → List Byte

/-- How the dump packs the reason, location class and index of a fatal error into its word (R395). -/
opaque fatalWord : Nat → Nat → Nat → Word

/-- The bytes of a tile image, which the spec does not lay out (R304): what it holds, as numbers, and the byte's number. -/
opaque tileImageByte : List Nat → Nat → Byte

/-- What a host or remote read returns for a byte of an uncorrectable granule: no rule gives it (R377, R391). -/
opaque lostData : Nat → Byte

/-- What a copy holds for a byte that its engine could not read (R391, R248, R277, R351). -/
opaque lostCopy : Nat → Nat → Byte

/-- What a sump entry found uncorrectable holds beside WO and NVI once an addition rewrites it: I, CNT, CLS and WX (R292). -/
opaque lostEntry : Nat → BitVec 291

/-- The bytes of a stationary slot that a failed load emptied, as a row issued before the failure meets them (R306). -/
opaque emptyTile : Nat → Nat → Byte

end Sys2Proof.Config
end

