-- ==== Sys2Proof/Machine/State.lean ====
section
/-! DEFINITION. The machine state as plain data: every piece of state the spec gives Kuzar and the N4 (R138 and
INVENTORY.md's State list), the reasons a step can stop, and the state right after reset. -/

namespace Sys2Proof.Machine

/-! ### Turns -/

/-- What a turn hands to an event besides the machine's own state: which context, cistern, task, step, link or
register is meant, and what the outside world brings in. Each event's docstring names the fields it reads. -/
structure EvArg where
  c : Nat := 0
  n : Nat := 0
  k : Nat := 0
  t : Nat := 0
  a : Nat := 0
  v : Nat := 0
  ok : Bool := true
  bs : List Byte := []
  deriving DecidableEq, Repr, Inhabited

/-- One turn: an act of some agent. -/
structure Turn where
  act : Instr
  arg : EvArg := {}
  deriving DecidableEq, Repr, Inhabited

/-! ### Registers -/

/-- The register files, in the code order of R402. -/
inductive RFile where
  | s | a | v | w | p | m | z | xb
  deriving DecidableEq, Repr, Inhabited

/-- The value a pending write carries (R49, R183). -/
inductive PVal where
  /-- a 64-bit register -/
  | word (x : Word)
  /-- a vector: the bits of `en` are written, the others keep what the register holds at landing -/
  | lanes (x en : Vec)
  | mask (x : Mask)
  | bit (b : Bool)
  /-- a stream register: its pairs -/
  | pairs (l : List Word)
  /-- an index base -/
  | base (n : Nat)
  /-- the old value of an atomic not yet performed (R217); `which` 0 the word, 1 the `ok` predicate, 2 its complement -/
  | atomic (id which : Nat)
  deriving DecidableEq, Repr, Inhabited

/-- A pending write (R49): `left` counts the owning context's issue cycles until it lands. -/
structure Pend where
  file : RFile
  reg : Nat
  val : PVal
  left : Nat
  slot : Nat
  seq : Nat
  pc : Nat
  /-- flags that land with the result (R64) -/
  flags : BitVec 7 := 0
  /-- enabled exceptions among them, in positions 4:0 (R65) -/
  exc : BitVec 7 := 0
  lane : Nat := 0
  /-- set on restored writes whose instruction issued at or before the mark (R147) -/
  suppress : Bool := false
  /-- an uncorrectable well granule was read: its LSA (R219) -/
  bad : Option Nat := none
  deriving DecidableEq, Repr, Inhabited

/-- A loop-stack level (R155). -/
structure LoopLevel where
  count : Nat
  index : Nat
  start : Nat
  last : Nat
  deriving DecidableEq, Repr, Inhabited

/-- A queue binding with the context's view of its pointer (R213). -/
structure QBind where
  base : Nat := 0
  sz : Nat := 0
  role : Nat := 0
  arr : Bool := false
  wflag : Nat := 0
  peer : Nat := 0
  pflag : Nat := 0
  nsl : Nat := 0
  ptr : Nat := 0
  held : Nat := 0
  deriving DecidableEq, Repr, Inhabited

/-- A range of the sump range table (R289). -/
structure SumpRange where
  first : Nat
  len : Nat
  e : Int
  deriving DecidableEq, Repr, Inhabited

/-- A TID entry (R309) with its codebook of 16 bf16 patterns. -/
structure TidEntry where
  img : BitVec 256 := BitVec.ofNat 256 (7 * 2 ^ 61)
  book : List (BitVec 16) := List.replicate 16 0
  deriving DecidableEq, Repr, Inhabited

/-- A bag as `bag.open` names it (R314, R315). `rep` is the place of the report, `w` the entries per tag. -/
structure Bag where
  /-- the number of its `bag.open` among the context's operations -/
  id : Nat
  mode : Nat
  tid : Nat
  ent : TidEntry
  seg : Nat
  pol : Nat
  ot : Nat
  flag : Nat
  vn : Option Nat
  wn : Option Nat
  base : Nat
  count : Nat
  exp : Nat
  rep : Nat
  e : Int
  w : Nat
  nmr : Word
  pc : Nat
  feeds : Nat := 0
  /-- queue handles its feeds named -/
  qs : List Nat := []
  deriving DecidableEq, Repr, Inhabited

/-- One access path a later access waits for: every access of the context on `path` issued before `seq` (R87). -/
structure Fence where
  path : Nat
  seq : Nat
  deriving DecidableEq, Repr, Inhabited

/-- A marker set by `xf A, B` (R87). -/
structure XMark where
  pa : Nat
  pb : Nat
  seq : Nat
  /-- no siphon command has been accepted since (R266) -/
  fresh : Bool := true
  deriving DecidableEq, Repr, Inhabited

/-- The items of R138 shadowed at a mark. -/
structure Arch where
  s : Vector Word 32
  a : Vector Word 32
  v : Vector Vec 32
  w : Vector Vec 16
  m : Vector Mask 8
  p : Vector Bool 16
  xbS : Nat
  xbA : Nat
  xbV : Nat
  xbW : Nat
  nmr : Word
  fflags : BitVec 7
  /-- innermost level first -/
  loops : List LoopLevel
  pend : List Pend
  qs : Vector QBind 16
  z : Vector (List Word) 4
  stageView : Nat
  ranges : List SumpRange
  bag : Option Bag
  /-- stationary-slot record: the TID it was loaded through and its entry; none when empty (R312) -/
  slotTid : Option (Nat × BitVec 256)
  marks : List XMark
  /-- index of the last accepted siphon command not discarded (R274) -/
  lastRec : Option Nat
  /-- phases passed since step start, as the re-executed code counts them (R98) -/
  phases : Nat
  deriving DecidableEq, Repr, Inhabited

/-! ### Held effects -/

/-- A gated effect (R50). Stores carry the canonical places of their bytes. -/
inductive GateEff where
  | store (cells : List Host.Cell) (seq : Nat) (fences : List Fence)
  | spill (cells : List Host.Cell)
  /-- a post of `n` to flag `f` of context `c` at the scope -/
  | post (c f n scope : Nat) (seq : Nat) (fences : List Fence)
  | stage (isSet : Bool) (n : Nat) (seq : Nat) (fences : List Fence)
  /-- the siphon command with this pending-record index -/
  | sph (idx : Nat)
  /-- the pump feed with this sequence number -/
  | pump (seq : Nat)
  deriving DecidableEq, Repr, Inhabited

/-- A store in the write-out queue (R82). -/
structure StoreEnt where
  cells : List Host.Cell
  seq : Nat
  fences : List Fence
  deriving DecidableEq, Repr, Inhabited

/-- A feed as its instruction names it (R316). Places are canonical. -/
structure Feed where
  pump : Bool
  num : Nat
  n : Nat
  stride : Nat
  /-- row 0 of `bag.rows` -/
  rows : Nat
  /-- the queue handle of a queue-fed feed -/
  q : Option Nat
  stg : Nat
  /-- index list of `bag.pump` -/
  idx : Nat
  wide : Bool
  tags : Nat
  wgts : Nat
  tid : Nat
  ent : TidEntry
  deriving DecidableEq, Repr, Inhabited

/-- A drain as `sump.dr` names it (R321). -/
structure Drain where
  first : Nat
  len : Nat
  group : Nat
  out : Nat
  ty : Nat
  rm : Nat
  free : Bool
  dst : Nat
  e : Int
  nmr : Word
  next : Nat := 0
  deriving DecidableEq, Repr, Inhabited

/-- What an array operation does (R144). -/
inductive ArrKind where
  | mld (tid : Nat) (ent : TidEntry) (place bytes : Nat)
  | mcb (phys tid place : Nat)
  | msc (place : Nat)
  | opn (bag : Bag) (claim : Bool)
  | feed (f : Feed)
  | close
  | rep (place : Nat)
  | drain (d : Drain)
  | clr (first len : Nat) (free : Bool)
  deriving DecidableEq, Repr, Inhabited

/-- An array operation in the hold or at the engine. -/
structure ArrOp where
  kind : ArrKind
  seq : Nat
  pc : Nat
  fences : List Fence := []
  /-- every store before this number was released no later than the operation (R294, R317) -/
  rel : Nat := 0
  /-- begun at the engine (R144) -/
  begun : Bool := false
  deriving DecidableEq, Repr, Inhabited

/-- The fate of one feed entry (R286, R296). -/
inductive Fate where
  | pending | fetching | parked | latching | arrived | replayed | dropped
  | faulted (cause : Nat)
  deriving DecidableEq, Repr, Inhabited

/-- One entry of a begun feed. -/
structure RowEnt where
  pos : Nat
  tag : Nat
  wgt : Nat
  idx : Nat
  fate : Fate
  /-- position of its key among the bag's keys -/
  key : Nat := 0
  retried : Bool := false
  deriving DecidableEq, Repr, Inhabited

/-- A distinct key of the bag (R296). -/
structure KeyRec where
  tid : Nat
  ent : TidEntry
  idx : Nat
  feed : Nat
  pos : Nat
  /-- fetched row bytes: one row, or two in COMPOSE mode -/
  data : Option (List (List Byte)) := none
  st : Fate := .fetching
  deriving DecidableEq, Repr, Inhabited

/-- A begun feed. -/
structure FeedRun where
  f : Feed
  seq : Nat
  pc : Nat
  fences : List Fence
  rows : List RowEnt
  /-- queue-fed: stages advanced -/
  stage : Nat := 0
  deriving DecidableEq, Repr, Inhabited

/-- The bag at the engine. -/
structure RunBag where
  bag : Bag
  feeds : List FeedRun := []
  keys : List KeyRec := []
  arrived : Nat := 0
  replayed : Nat := 0
  dropped : Nat := 0
  faulted : Nat := 0
  retried : Nat := 0
  full : Nat := 0
  cover : Nat := 0
  window : Nat := 0
  deriving DecidableEq, Repr, Inhabited

/-- A context's stationary slot at the engine (R279). -/
structure StatSlot where
  tid : Nat
  ent : TidEntry
  data : List Byte
  deriving DecidableEq, Repr, Inhabited

/-! ### Siphon -/

/-- The state of a siphon command (R241). -/
inductive SphState where
  | held | committed | waitFrame
  deriving DecidableEq, Repr, Inhabited

/-- A siphon command in its pending record (R262). Sides are addresses as the program gave them, with the places the
acceptance translated: `(address, length, place)` pieces in ascending address or list order. -/
structure SphCmd where
  idx : Nat := 0
  form : Nat
  add : Bool := false
  scope : Nat
  st : SphState := .held
  seq : Nat := 0
  order : Nat := 0
  pc : Nat := 0
  fences : List Fence := []
  /-- the fence byte of its record: the paths of the `xf` since the previous command (R262, R266) -/
  marker : Nat := 0
  post : Option (Nat × Nat × Nat) := none
  sv : Bool := false
  dv : Bool := false
  src : Nat := 0
  dst : Nat := 0
  len : Nat
  /-- `c.byte` share -/
  total : Nat
  opnd : Nat := 0
  opnd2 : Nat := 0
  op : Nat := 0
  /-- indexed forms: the count of skipped entries and the place of the skip word -/
  skips : Nat := 0
  skipAt : Option Nat := none
  /-- the sides as translated: the command's bytes in the order they move, in pieces (offset in that stream, length, place) -/
  stream : Nat := 0
  sPlaces : List (Nat × Nat × Nat) := []
  dPlaces : List (Nat × Nat × Nat) := []
  /-- the addresses of the sides in stream order: pieces (offset, length, address); virtual sides translate again under R400 -/
  sVas : List (Nat × Nat × Nat) := []
  dVas : List (Nat × Nat × Nat) := []
  begun : Bool := false
  /-- bytes of an overlapping source taken before any write (R268); none where unreadable -/
  snap : Option (List (Option Byte)) := none
  done : Nat := 0
  /-- the remaining length that counts in `c.byte` -/
  left : Nat
  stale : Bool := false
  refusals : Nat := 0
  badFirst : Option Nat := none
  badCount : Nat := 0
  errFirst : Option Nat := none
  errCount : Nat := 0
  /-- fault records of this command not yet written (R252), and whether they have been offered -/
  recs : Nat := 0
  offered : Bool := false
  /-- a command that depended on it has completed: it runs on at a pre-emption (R88, R261) -/
  keep : Bool := false
  /-- the machine check of its errors has fallen due (R259) -/
  checked : Bool := false
  deriving DecidableEq, Repr, Inhabited

/-- A deferred trap that is due (R72, R259, R292, R306, R400): taken at a drain point or a `waitc` on one of `watch`. -/
structure DefTrap where
  cause : Nat
  pc : Nat
  slot : Option Nat
  exc : Nat
  detail : Nat
  watch : List Nat
  /-- the number of the operation it came from -/
  id : Nat := 0
  deriving DecidableEq, Repr, Inhabited

/-! ### Contexts -/

/-- The condition of a context (R140, R149, R151, R178). -/
inductive Cond where
  | absent | running | parked | held | exited | stopped
  deriving DecidableEq, Repr, Inhabited

/-- A declared set range (R97): the bank rows of its local scratch addresses. -/
structure SetRange where
  path : Nat
  wr : Bool
  first : Nat
  len : Nat
  deriving DecidableEq, Repr, Inhabited

/-- Where a task request of the bundle at the PC stands (R360). -/
inductive ReqStage where
  | none | released | asked | closure | merging | killing
  deriving DecidableEq, Repr, Inhabited

/-- An effect placed at the end of the issue cycle (R51). -/
inductive Eoc where
  | bind (q : Nat) (b : QBind)
  | clear (mask : BitVec 7)
  /-- the sets declared for the phase that opens come into force -/
  | openSets
  deriving DecidableEq, Repr, Inhabited

/-- One context (R138). -/
structure Ctx where
  cond : Cond
  a : Arch
  sh : Arch
  pc : Nat
  restart : Nat
  /-- identity: task, step, gang index (member × 2 + context), R152, R173 -/
  task : Nat
  step : Nat
  gi : Nat
  flags : Vector (BitVec 16) 32
  ovf : BitVec 32
  consumed : Vector Nat 32
  cSph : BitVec 32
  cByte : BitVec 32
  cPump : BitVec 32
  cDrn : BitVec 32
  cAtom : BitVec 32
  spill : List Host.Cell
  gate : List GateEff
  hold : List ArrOp
  woq : List StoreEnt
  /-- TID entries written since the mark: physical index and the entry before (R281) -/
  tidUndo : List (Nat × TidEntry)
  stall : BitVec 32
  coll : BitVec 32
  /-- cycles counted since the last progress point; it reaches 2^28 in the cycle of the watchdog trap (R154) -/
  wdog : BitVec 29
  overlap : Nat
  /-- the older context has been held for the present overlap count (R141) -/
  yielded : Bool
  bubbles : Nat
  conflict : Option Nat
  strWait : Option Nat
  yieldHold : Bool
  setsNow : List SetRange
  setsNext : List SetRange
  /-- the most phases passed before any rollback -/
  phaseTop : Nat
  atPhase : Bool
  records : List SphCmd
  /-- the acceptance that found the reserve empty: its command, and whether its back-off still runs (R254) -/
  draft : Option SphCmd
  deferred : List DefTrap
  /-- the request record (R361): PC and answer -/
  req : Option (Nat × Nat)
  reqStage : ReqStage
  /-- the answer the bundle at the PC will land -/
  reqAns : Option Nat
  forks : Nat
  preempt : Bool
  wlPassed : Option Nat
  mx : List ArrOp
  /-- drains whose rows have all left the array and whose last row waits for the latch (R293) -/
  latching : List ArrOp
  bagRun : Option RunBag
  statSlot : Option StatSlot
  scale : List (BitVec 32)
  rowProg : Word
  /-- names of the spout operands in force (R184) -/
  spoutV : Option Nat
  spoutW : Option Nat
  /-- the bag whose spout names are in force -/
  spoutBag : Option Nat
  /-- bundles member 0 of a lockstep gang has issued and this member has not (R28, R340) -/
  bcast : List (Nat × List Byte)
  /-- the bundle at the PC as it was fetched, until it issues (R51) -/
  fetched : Option (List Byte)
  /-- the index of the register-file check that has failed (R150, R391) -/
  parity : Option Nat
  opSeq : Nat
  /-- the number of the first operation issued after the mark (R145) -/
  markSeq : Nat
  acceptSeq : Nat
  /-- the issue in progress: header scope, LT and LB, the PC after the bundle, end-of-cycle effects -/
  inIssue : Bool
  scope : Nat
  lt : Nat
  lb : Nat
  bagWas : Option Bag
  nextPc : Option Nat
  eoc : List Eoc
  landed : BitVec 7
  deriving DecidableEq, Repr, Inhabited

/-! ### Tiles and cisterns -/

/-- A window entry of the sump (R68). The last two fields are the model's own, no part of R68's entry: the infinities an entry has met, so
that a NaN between them leaves the entry as R70 leaves it when the infinities arrive first (R73, R112; log 100, DEDUCED). -/
structure WinEntry where
  i : BitVec 256 := 0
  cnt : BitVec 32 := 0
  cls : BitVec 2 := 0
  wx : Bool := false
  wo : Bool := false
  nvi : Bool := false
  posInf : Bool := false
  negInf : Bool := false
  deriving DecidableEq, Repr, Inhabited

/-- The entry has met an infinity of this sign, as its class or the model's own fields say. -/
def WinEntry.metInf (E : WinEntry) (neg : Bool) : Bool :=
  if neg then E.negInf || E.cls = 2 else E.posInf || E.cls = 1

/-- A row in, or waiting for, the spout latch (R293). -/
structure LatchRow where
  c : Nat
  tag : Nat
  row : Vec
  bag : Nat
  drain : Bool
  last : Bool
  flags : BitVec 7
  exc : BitVec 7
  pc : Nat
  /-- the sump entry whose check failed (R292, R150) -/
  machineCheck : Option Nat := none
  /-- its feed and position in a bag, for its arrival -/
  feed : Nat := 0
  pos : Nat := 0
  /-- the number of the drain it belongs to -/
  id : Nat := 0
  deriving DecidableEq, Repr, Inhabited

/-- A TLB entry (R247): revision, page number (of 64 KiB or, when `large`, 2 MiB), table entry. -/
structure TlbEnt where
  rev : Nat
  page : Nat
  large : Bool
  entry : Word
  deriving DecidableEq, Repr, Inhabited

/-- One tile (R13). The sump lists the entries that differ from zero, by ascending number. -/
structure Tile where
  sump : List (Nat × WinEntry)
  badSump : List Nat
  /-- entries with a single-bit error that no read has corrected yet (R292) -/
  softSump : List Nat
  tids : Vector TidEntry 64
  latch : Option LatchRow
  waiting : List LatchRow
  /-- merge issue of the present clock cycle (R141): slots the context served first has used; the one still to be served -/
  used : Nat
  second : Option Nat
  /-- the older context has issued a stream instruction in the present clock cycle: the unit is busy through it (R323) -/
  strBusy : Bool
  siphonTlb : List TlbEnt
  pumpTlb : List TlbEnt
  /-- bundles held in the tile (R399): task, PC, place and bytes as fetched -/
  code : List (Nat × Nat × Nat × List Byte)
  deriving DecidableEq, Repr, Inhabited

/-- What the atomic unit does with a word (R217, R218). -/
inductive AtomKind where
  | add | minS | minU | maxS | maxU | xchg | cas | incb
  | rcInc (k : Nat)
  | rcSnap
  deriving DecidableEq, Repr, Inhabited

/-- An atomic sent to the unit. -/
structure Atom where
  id : Nat
  c : Nat
  seq : Nat
  kind : AtomKind
  place : Nat
  size : Nat
  y : Nat
  z : Nat
  lsa : Nat
  deriving DecidableEq, Repr, Inhabited

/-- A stage counter as the board or a cache holds it (R344, R345). -/
structure Count where
  task : Nat
  step : Nat
  v : Nat
  deriving DecidableEq, Repr, Inhabited

/-- An error-log entry (R393). -/
structure LogEnt where
  place : Nat
  idx : Nat
  check : Nat
  corrected : Bool
  count : Nat
  deriving DecidableEq, Repr, Inhabited

/-- One cistern. -/
structure Cistern where
  rc : Vector (BitVec 32) 64
  /-- the gang granted the route counters: task and step (R218) -/
  grant : Option (Nat × Nat)
  atoms : List Atom
  tlb2 : List TlbEnt
  /-- siphon read buffer: 64-byte lines held, by line number, with their bytes (R89) -/
  lines : List (Nat × List Byte)
  cache : List Count
  log : List LogEnt
  deriving DecidableEq, Repr, Inhabited

/-! ### Task engine -/

/-- How a task came to be (R29, R30). -/
inductive LaunchKind where
  | root | launched | forked
  deriving DecidableEq, Repr, Inhabited

/-- Where a task stands (R335, R337). -/
inductive TaskSt where
  | live | failed | killed | complete
  deriving DecidableEq, Repr, Inhabited

/-- Whether a forked child has been joined (R354). -/
inductive JoinSt where
  | unjoined | joining | joined
  deriving DecidableEq, Repr, Inhabited

/-- A region entry (R349). -/
structure Region where
  n : Nat
  start : Nat
  len : Nat
  ty : Nat
  merge : Nat
  deriving DecidableEq, Repr, Inhabited

/-- A task (R332 to R338). -/
structure Task where
  num : Nat
  opb : List Byte
  rev : Nat
  parent : Nat
  kind : LaunchKind
  forkKey : Nat := 0
  st : TaskSt := .live
  cause : Nat := 0
  notes : Nat := 0
  fflags : BitVec 7 := 0
  exited : Nat := 0
  abandoned : Nat := 0
  joined : Nat := 0
  preempts : Nat := 0
  /-- steps started -/
  started : Nat := 0
  sig : List Byte := []
  regions : List Region := []
  /-- how far waiting has raised the effective priority (R338) -/
  boost : Nat := 0
  recorded : Bool := false
  join : JoinSt := .unjoined
  joinAns : Nat := 0
  deriving DecidableEq, Repr, Inhabited

/-- A gang-map entry (R209). -/
structure Member where
  tile : Nat
  base : Nat
  size : Nat
  deriving DecidableEq, Repr, Inhabited

/-- A running or saved step (R25, R343, R344). -/
structure Step where
  task : Nat
  step : Nat
  cis : Nat
  members : List Member
  /-- contexts by gang index: (gang index, context number) -/
  ctxs : List (Nat × Nat)
  saved : Bool := false
  parkedBy : List Nat := []
  exited : List Nat := []
  exiting : Bool := false
  killed : Bool := false
  /-- save area of each context, by gang index (R155) -/
  areas : List (Nat × Nat) := []
  /-- places of the allocation images, by member (R277) -/
  images : List (Nat × Nat) := []
  /-- places of the tile images, by member (R304) -/
  tileImages : List (Nat × Nat) := []
  /-- what the task engine keeps with a saved step beside the images (R138, R218): each context's stage view, fork and
  phase counts, sets and counters, as its context record, by gang index; route counters -/
  kept : List (Nat × Ctx) := []
  /-- the TID entries of each member's tile image (R304): member and entries in order -/
  tids : List (Nat × List TidEntry) := []
  rc : List (BitVec 32) := []
  /-- the task for which a pre-emption request is outstanding; a withdrawn one spares the step for a time (R343) -/
  asked : Option Nat := none
  spared : Bool := false
  fflags : BitVec 7 := 0
  /-- lockstep ended by a fault (R340) -/
  lockOff : Bool := false
  deriving DecidableEq, Repr, Inhabited

/-- A revision (R346 to R348). -/
structure Revision where
  id : Nat
  table : Nat
  parent : Nat
  depth : Nat
  owner : Nat
  /-- the ancestor map: (64 KiB page number, frame) -/
  anc : List (Nat × Nat) := []
  deriving DecidableEq, Repr, Inhabited

/-- A stage effect on its way to the board (R93, R344). -/
inductive StageKind where
  | adv | set | exit
  deriving DecidableEq, Repr, Inhabited

structure StageEff where
  /-- gang index of the context it came from -/
  gi : Nat
  seq : Nat
  task : Nat
  step : Nat
  kind : StageKind
  n : Nat
  /-- operations it waits for: (context, every operation before this number) -/
  waits : List (Nat × Nat)
  /-- the accesses an `xf` to task makes it wait for, with their context (R87) -/
  fences : List (Nat × Fence) := []
  deriving DecidableEq, Repr, Inhabited

/-- A released flag post on its way (R216); it waits for the source context's stores before `seq` when `wait`. -/
structure PostEff where
  src : Option (Nat × Nat × List Fence)
  c : Nat
  f : Nat
  n : Nat
  /-- a core-path post's number among the operations of the source context -/
  seq : Option Nat := none
  /-- the clock cycle its count runs from (R216): posts of one context that start together have the same number -/
  since : Nat := 0
  deriving DecidableEq, Repr, Inhabited

/-- A fault record offered by an engine (R251, R252). `engine` 0 task engine, 1 + t siphon of tile t, 193 + t pump of tile t, 385 + c the
sequencer of context c. `c` is the context waiting for it, `cmd` the number in acceptance order of the siphon command waiting for it. -/
structure FRec where
  engine : Nat
  bytes : List Byte
  c : Option Nat := none
  cmd : Option Nat := none
  refused : Bool := false
  tries : Nat := 0
  deriving DecidableEq, Repr, Inhabited

/-- A fork under way (R347, R363). -/
structure PendFork where
  c : Nat
  opbVa : Nat
  key : Nat
  /-- waiting out the back-off of a refusal, and the refusals so far (R359) -/
  hold : Bool := false
  tries : Nat := 0
  deriving DecidableEq, Repr, Inhabited

/-- A join under way (R365, R351). `c` none: an auto-join at completion. -/
structure PendJoin where
  c : Option Nat
  parent : Nat
  child : Nat
  /-- pages still to compare, or none before the merge begins -/
  pages : Option (List Nat) := none
  regions : List Region := []
  nPages : Nat := 0
  changed : Nat := 0
  conflicts : Nat := 0
  flags : BitVec 7 := 0
  /-- of a `tjoin.all`; at completion of the parent (R355) -/
  all : Bool := false
  auto : Bool := false
  /-- waiting out the back-off of a refusal, and the refusals so far (R359) -/
  hold : Bool := false
  tries : Nat := 0
  /-- the committed commands its invalidation waits for (R247) -/
  waits : List (Nat × Nat) := []
  /-- every page is merged, and the revisions have left the TLBs once more before the join takes effect (R247) -/
  sealed : Bool := false
  /-- a pre-emption has stopped its caller in the closure wait: the task, the step and the gang index for which the child is kept
  (R366) -/
  stopped : Option (Nat × Nat × Nat) := none
  deriving DecidableEq, Repr, Inhabited

/-- A TLB invalidation under way (R383, R247): the revision, and the committed commands it waits for. -/
structure PendInv where
  rev : Nat
  waits : List (Nat × Nat)
  deriving DecidableEq, Repr, Inhabited

/-! ### Outside world -/

/-- A gale link (R384, R385). -/
inductive LinkSt where
  | up | retraining | down
  deriving DecidableEq, Repr, Inhabited

structure Link where
  st : LinkSt
  half : Bool
  faulty : BitVec 8
  /-- flits sent and kept until acknowledged, oldest first -/
  replay : List Nat
  /-- flits sent so far: the number of the next -/
  sent : Nat
  laneReplays : Vector Nat 8
  /-- the flit that fails, and its failures in a row -/
  failing : Nat
  fails : Nat
  deriving DecidableEq, Repr, Inhabited

/-- A start-up image (R387). -/
structure BootImage where
  version : Nat
  digest : List Byte
  signature : List Byte
  body : List Byte
  deriving DecidableEq, Repr, Inhabited

/-- How the last outside access to device memory was answered (R377, R264, R394): not at all yet, performed, with an error response, or
"target lost". -/
inductive Resp where
  | none | done | error | lost
  deriving DecidableEq, Repr, Inhabited

/-- The management side (R376 to R395). -/
structure Mgmt where
  state : Nat
  min : Bool
  lr : Bool
  fails : Nat
  stage : Nat
  reason : Nat
  clrmin : Bool
  dack : Bool
  rootTbl : Nat
  devNum : Nat
  svcTile : BitVec 192
  savePool : Nat
  saveSize : Nat
  saveVa : Nat
  reserve : Nat
  resSize : Nat
  fbuf : Nat
  tlbInv : Bool
  dumpDone : Bool
  dumped : Bool
  clockMhz : Nat
  clockChanges : Nat
  fullWidth : Bool
  images : Vector BootImage 3
  keyDigest : List Byte
  /-- the Hexvin key, which must have the fused digest -/
  hexvinKey : List Byte
  minVersion : Nat
  /-- the fused secret the identity key is derived from, and Hexvin's signature in the certificate of that key (R390) -/
  fusedSecret : List Byte
  certSig : List Byte
  /-- a start has begun at the root-of-trust ROM -/
  begun : Bool
  measured : List (List Byte)
  reply : List Byte
  resp : Resp
  aer : Bool
  fatal : Option (Nat × Nat × Nat)
  log : List LogEnt
  deriving DecidableEq, Repr, Inhabited

/-! ### The state -/

/-- The whole machine. `sched`, `arg`, `cur` and `freeCount` are the model's own (log 2, 3). -/
structure State where
  sched : List Turn
  arg : EvArg
  cur : Nat
  freeCount : Nat
  mem : List Host.Cell
  /-- places of granules whose reads are uncorrectable: 8 bytes in a well, 64 elsewhere (R219, R391) -/
  badMem : List Nat
  /-- places of granules with a single-bit error that no read has corrected yet (R219, R391) -/
  softMem : List Nat
  /-- entries of the task-engine tables and the stage board with a single-bit error not yet corrected (R391) -/
  softTables : List Nat
  ctxs : Vector Ctx 384
  tiles : Vector Tile 192
  ciss : Vector Cistern 24
  tasks : List Task
  steps : List Step
  nextTask : Nat
  revs : List Revision
  nextRev : Nat
  /-- reserve frames in use (R248) -/
  framesUsed : List Nat
  /-- save-pool pieces in use: (offset, length) -/
  poolUsed : List (Nat × Nat)
  board : List Count
  stageQ : List StageEff
  posts : List PostEff
  records : List FRec
  forks : List PendFork
  joins : List PendJoin
  invs : List PendInv
  /-- devices of the domain treated as lost (R396) -/
  contained : List Nat
  /-- the links system software has configured as routes to a device; a device not listed is reached by any link (R385) -/
  routes : List (Nat × List Nat)
  links : Vector Link 12
  mgmt : Mgmt
  deriving DecidableEq, Repr, Inhabited

/-! ### Why a step can stop -/

/-- Reasons the machine stops with no next state. Every trap of the spec is a next state; this is what is left. -/
inductive Fault where
  /-- raised by `step` when a scheduled turn names a context the part does not have: safe, the part has no such act -/
  | noSuchContext
  deriving DecidableEq, Repr, Inhabited

/-- Reasons an instruction has no meaning. -/
inductive Refusal where
  /-- raised by `exec` for an instruction not modelled yet: safe, nothing is claimed of it -/
  | notModelled (mnemonic : String)
  deriving DecidableEq, Repr, Inhabited

/-! ### Reset -/

/-- The shadowed items at step start (R139), with this NMR. -/
def Arch.start (nmr : Word) : Arch :=
  { s := Vector.replicate 32 0, a := Vector.replicate 32 0, v := Vector.replicate 32 0,
    w := Vector.replicate 16 0, m := (Vector.replicate 8 0).set 0 (BitVec.allOnes 128),
    p := (Vector.replicate 16 false).set 0 true, xbS := 0, xbA := 0, xbV := 0, xbW := 0,
    nmr := nmr, fflags := 0, loops := [], pend := [], qs := Vector.replicate 16 {},
    z := Vector.replicate 4 [], stageView := 0, ranges := [], bag := none, slotTid := none, marks := [],
    lastRec := none, phases := 0 }

/-- A context at reset: not resident; its other fields are those of step start (R139). -/
def Ctx.idle : Ctx :=
  { cond := .absent, a := Arch.start 0, sh := Arch.start 0, pc := 0, restart := 0, task := 0, step := 0, gi := 0,
    flags := Vector.replicate 32 0, ovf := 0, consumed := Vector.replicate 32 0, cSph := 0, cByte := 0, cPump := 0,
    cDrn := 0, cAtom := 0, spill := [], gate := [], hold := [], woq := [], tidUndo := [], stall := 0, coll := 0,
    wdog := 0, overlap := 0, yielded := false, bubbles := 0, conflict := none, strWait := none, yieldHold := false, setsNow := [],
    setsNext := [], phaseTop := 0, atPhase := false, records := [], draft := none, deferred := [],
    req := none, reqStage := .none, reqAns := none, forks := 0, preempt := false, wlPassed := none,
    mx := [], latching := [], bagRun := none, statSlot := none, scale := List.replicate 16 0, rowProg := 0, spoutV := none,
    spoutW := none, spoutBag := none, bcast := [], fetched := none, parity := none, opSeq := 0, markSeq := 0, acceptSeq := 0, inIssue := false, scope := 0, lt := 0,
    lb := 0, bagWas := none, nextPc := none, eoc := [], landed := 0 }

/-- A tile at reset: sump and tables clear (R387), TID formats unset (R309). -/
def Tile.idle : Tile :=
  { sump := [], badSump := [], softSump := [], tids := Vector.replicate 64 {}, latch := none, waiting := [], used := 0,
    second := none, strBusy := false, siphonTlb := [], pumpTlb := [], code := [] }

def Cistern.idle : Cistern :=
  { rc := Vector.replicate 64 0, grant := none, atoms := [], tlb2 := [], lines := [], cache := [], log := [] }

def Link.idle : Link :=
  { st := .up, half := false, faulty := 0, replay := [], sent := 0, laneReplays := Vector.replicate 8 0, failing := 0, fails := 0 }

def BootImage.blank : BootImage := { version := 0, digest := [], signature := [], body := [] }

/-- The management side at reset: STATE 0 and no reason (R379); 1,100 MHz (R9); registers without a stated reset
value are 0 (log 6, DESIGN CHOICE). -/
def Mgmt.reset : Mgmt :=
  { state := 0, min := false, lr := false, fails := 0, stage := 0, reason := 0, clrmin := false, dack := false,
    rootTbl := 0, devNum := 0, svcTile := 0, savePool := 0, saveSize := 0, saveVa := 0, reserve := 0, resSize := 0,
    fbuf := 0, tlbInv := false, dumpDone := false, dumped := false, clockMhz := 1100, clockChanges := 0,
    fullWidth := true, images := Vector.replicate 3 BootImage.blank, keyDigest := [], hexvinKey := [], minVersion := 0,
    fusedSecret := [], certSig := [], begun := false, measured := [], reply := [], resp := .none, aer := false, fatal := none, log := [] }

/-- The machine right after reset (R379, R387, R139). -/
def State.reset : State :=
  { sched := [], arg := {}, cur := 0, freeCount := 0, mem := [], badMem := [], softMem := [], softTables := [],
    ctxs := Vector.replicate 384 Ctx.idle, tiles := Vector.replicate 192 Tile.idle,
    ciss := Vector.replicate 24 Cistern.idle, tasks := [], steps := [], nextTask := 1, revs := [], nextRev := 1,
    framesUsed := [], poolUsed := [], board := [], stageQ := [], posts := [], records := [], forks := [],
    joins := [], invs := [], contained := [], routes := [], links := Vector.replicate 12 Link.idle, mgmt := Mgmt.reset }

end Sys2Proof.Machine
end

