-- ==== Sys2Proof/Machine/Mem.lean ====
section
/-! DEFINITION. Memory: one list of cells keyed by canonical places (R207, R244, R245), and contexts, tiles and
cisterns by number (R10). -/

namespace Sys2Proof.Machine

/-! ### Cells -/

/-- What an address that no entry lists reads as (log 1). -/
def unlisted : Byte := 0

/-- The canonical form: addresses strictly rising from above `lo`, no entry equal to what an unlisted address reads as. -/
def memOk : Option Nat → List Host.Cell → Bool
  | _, [] => true
  | lo, (a, b) :: r => (match lo with | none => true | some l => l < a) && b != unlisted && memOk (some a) r

/-- The memory is in canonical form. -/
def Memory.wf (m : List Host.Cell) : Bool := memOk none m

/-- Read one byte. -/
def memRead : List Host.Cell → Nat → Byte
  | [], _ => unlisted
  | (a, b) :: r, k => if a = k then b else memRead r k

/-- Write one byte, keeping the canonical form. -/
def memWrite : List Host.Cell → Nat → Byte → List Host.Cell
  | [], k, b => if b = unlisted then [] else [(k, b)]
  | (a, x) :: r, k, b =>
    if k < a then (if b = unlisted then (a, x) :: r else (k, b) :: (a, x) :: r)
    else if k = a then (if b = unlisted then r else (k, b) :: r)
    else (a, x) :: memWrite r k b

/-- Write a list of cells, the later ones over the earlier. -/
def memWrites (m : List Host.Cell) : List Host.Cell → List Host.Cell
  | [] => m
  | (k, b) :: r => memWrites (memWrite m k b) r

/-- `n` bytes from address `k`. -/
def memReads (m : List Host.Cell) (k : Nat) : Nat → List Byte
  | 0 => []
  | n + 1 => memRead m k :: memReads m (k + 1) n

/-- Every byte of `n` from `k` as unlisted. -/
def memClear (m : List Host.Cell) (k n : Nat) : List Host.Cell :=
  m.filter fun c => !(k ≤ c.1 && c.1 < k + n)

/-- Bytes laid at an address as cells. -/
def cellsAt (k : Nat) : List Byte → List Host.Cell
  | [] => []
  | b :: r => (k, b) :: cellsAt (k + 1) r

/-! ### Places (R245) -/

/-- First place of the well aperture. -/
def wellBase : Nat := 0x7FF00000000

/-- The place of well offset `w` of a tile (R207, R245). -/
def wellPlace (tile w : Nat) : Nat := wellBase + 2 ^ 21 * tile + w

/-- First place of another device's memory. -/
def remoteBase (dev : Nat) : Nat := 2 ^ 43 * (dev + 1)

/-- First place of host memory. -/
def hostBase : Nat := 2 ^ 52

/-- Where a place lies. -/
inductive Zone where
  | device | well | remote (dev : Nat) | host
  deriving DecidableEq, Repr, Inhabited

def zoneOf (p : Nat) : Zone :=
  if p < wellBase then .device
  else if p < 2 ^ 43 then .well
  else if p < hostBase then .remote (p / 2 ^ 43 - 1)
  else .host

/-- The target of a physical address (R245); none is cause 0x04 of R243. -/
def physPlace (s : State) (pa : Nat) : Option Nat :=
  let off := bits pa 0 43
  let dev := bits pa 43 8
  if bitAt pa 51 then (if s.mgmt.fullWidth then some (hostBase + bits pa 0 51) else none)
  else if dev = s.mgmt.devNum % 256 then
    if off < Config.deviceBytes then some off
    else if wellBase ≤ off && off < wellBase + 2 ^ 21 * 192 then some off
    else none
  else if dev ≤ s.mgmt.devNum / 256 % 256 && off < Config.deviceBytes then some (remoteBase dev + off)
  else none

/-- A physical address in the device's own memory (R244, R251). -/
def ownPlace (s : State) (pa : Nat) : Option Nat :=
  if bitAt pa 51 || bits pa 43 8 ≠ s.mgmt.devNum % 256 || Config.deviceBytes ≤ bits pa 0 43 || 2 ^ 52 ≤ pa then none
  else some (bits pa 0 43)

/-- The physical address of an own-device offset. -/
def ownPa (s : State) (off : Nat) : Nat := s.mgmt.devNum % 256 * 2 ^ 43 + off

/-! ### Contexts, tiles, cisterns -/

def State.ctx (s : State) (c : Nat) : Ctx := vget s.ctxs c
def State.setCtx (s : State) (c : Nat) (x : Ctx) : State := { s with ctxs := vput s.ctxs c x }
def State.updCtx (s : State) (c : Nat) (f : Ctx → Ctx) : State := s.setCtx c (f (s.ctx c))

/-- The context whose bundle or act is being run. -/
def State.me (s : State) : Ctx := s.ctx s.cur
def State.updMe (s : State) (f : Ctx → Ctx) : State := s.updCtx s.cur f

/-- Change the live registers of the present context. -/
def State.updArch (s : State) (f : Arch → Arch) : State := s.updMe fun x => { x with a := f x.a }

def tileOf (c : Nat) : Nat := c / 2
def cisOf (c : Nat) : Nat := c / 16
def otherCtx (c : Nat) : Nat := if c % 2 = 0 then c + 1 else c - 1

def State.tile (s : State) (t : Nat) : Tile := vget s.tiles t
def State.updTile (s : State) (t : Nat) (f : Tile → Tile) : State := { s with tiles := vput s.tiles t (f (s.tile t)) }
def State.cis (s : State) (k : Nat) : Cistern := vget s.ciss k
def State.updCis (s : State) (k : Nat) (f : Cistern → Cistern) : State := { s with ciss := vput s.ciss k (f (s.cis k)) }

/-- Every number below `n` folded over the state. -/
def forUpTo (n : Nat) (s : State) (f : State → Nat → State) : State := (upTo n).foldl f s

/-- The free choice among `n` (log 3): its number, and the state with the free counter advanced. -/
def State.choose (s : State) (n : Nat) : Nat × State :=
  (Config.freeChoice s.freeCount % (if n = 0 then 1 else n), { s with freeCount := s.freeCount + 1 })

/-! ### Steps and tasks -/

/-- The running step of a task by number. -/
def State.findStep (s : State) (task step : Nat) : Option Step :=
  s.steps.find? fun x => x.task == task && x.step == step

def State.findTask (s : State) (n : Nat) : Option Task := s.tasks.find? fun t => t.num == n

def State.updTask (s : State) (n : Nat) (f : Task → Task) : State :=
  { s with tasks := s.tasks.map fun t => if t.num == n then f t else t }

def State.updStep (s : State) (task step : Nat) (f : Step → Step) : State :=
  { s with steps := s.steps.map fun x => if x.task == task && x.step == step then f x else x }

/-- The step a context runs. -/
def State.stepOf (s : State) (c : Nat) : Option Step := s.findStep (s.ctx c).task (s.ctx c).step

/-- The task a context runs for. -/
def State.taskOf (s : State) (c : Nat) : Option Task := s.findTask (s.ctx c).task

/-- A field of an OPB (R332): `n` bytes at byte `o`. -/
def opbField (o n : Nat) (opb : List Byte) : Nat := natOfBytes ((opb.drop o).take n)

/-- A FLAGS bit of the OPB (R332). -/
def Task.flag (t : Task) (bit : Nat) : Bool := bitAt (opbField 41 1 t.opb) bit

def Task.det (t : Task) : Bool := t.flag 0
def Task.lock (t : Task) : Bool := t.flag 1
def Task.wantsRc (t : Task) : Bool := t.flag 2
def Task.svc (t : Task) : Bool := t.flag 3

/-- The task of the context has DET (R100, R357). -/
def State.isDet (s : State) (c : Nat) : Bool := (s.taskOf c).any Task.det

/-- The context belongs to the service task (R179). -/
def State.isSvc (s : State) (c : Nat) : Bool := (s.taskOf c).any Task.svc

/-- The gang-map entry of a member (R209). -/
def State.member (s : State) (c k : Nat) : Option Member := (s.stepOf c).bind fun x => x.members[k]?

/-- Contexts of the step, as context numbers. -/
def Step.nums (x : Step) : List Nat := x.ctxs.map Prod.snd

/-- The context that bears a gang index (R216). -/
def State.gangCtx (s : State) (c gi : Nat) : Option Nat :=
  (s.stepOf c).bind fun x => (x.ctxs.find? fun e => e.1 == gi).map Prod.snd

/-! ### Local scratch addresses -/

/-- `lsa_resolve` (R209) for a range: `n` bytes aligned to `al`. -/
def State.resolve (s : State) (c lsa n al : Nat) : Option Nat :=
  match s.member c (bits lsa 21 3) with
  | none => none
  | some m =>
    let o := bits lsa 0 21
    if o + n > 65536 * m.size || o % al != 0 then none
    else some (wellPlace (8 * cisOf c + m.tile) (65536 * m.base + o))

/-- The tile of a well place. -/
def placeTile (p : Nat) : Nat := (p - wellBase) / 2 ^ 21

/-- The bank row a well place lies in (R207): well, bank and row are its number. -/
def placeRow (p : Nat) : Nat := (p - wellBase) / 128

/-! ### Uncorrectable granules -/

/-- Bytes one check covers: 8 in a well (R219), 64 in HBM (R391); memory of other devices and of the host is taken like HBM
(log 34). -/
def granuleLen (p : Nat) : Nat := if zoneOf p = .well then 8 else 64

/-- The granule a byte lies in. -/
def granule (p : Nat) : Nat := p / granuleLen p * granuleLen p

/-- The granule at `g` has a byte among `n` from `p`. -/
def granuleMeets (p n g : Nat) : Bool := p < g + granuleLen g && g < p + n

def State.badAt (s : State) (p : Nat) : Bool := s.badMem.contains (granule p)

/-- A byte of `n` from `p` is uncorrectable. -/
def State.badIn (s : State) (p n : Nat) : Bool := s.badMem.any (granuleMeets p n)

/-- The granules all of whose bytes are among the written places get fresh check bits (R219). -/
def freshGranules (bad : List Nat) (cells : List Host.Cell) : List Nat :=
  bad.filter fun g => !((upTo (granuleLen g)).all fun i => cells.any fun c => c.1 == g + i)

/-- Lines of the read buffers that a device-memory write touches leave them (R89). -/
def dropLines (s : State) (cells : List Host.Cell) : State :=
  if s.ciss.toList.all (fun k => k.lines.isEmpty) then s
  else { s with ciss := s.ciss.map fun k =>
    { k with lines := k.lines.filter fun l => !(cells.any fun c => c.1 / 64 == l.1) } }

/-- The granules of a range leave a list of granules: they get fresh check bits. -/
def freshRange (bad : List Nat) (p n : Nat) : List Nat := bad.filter fun g => !(p ≤ g && g + granuleLen g ≤ p + n)

/-- The buffer lines of a range leave the read buffers (R89). -/
def dropRange (s : State) (p n : Nat) : State :=
  if s.ciss.toList.all (fun k => k.lines.isEmpty) then s
  else { s with ciss := s.ciss.map fun k =>
    { k with lines := k.lines.filter fun l => !(64 * l.1 < p + n && p < 64 * l.1 + 64) } }

/-- Perform a write: bytes to their places, fresh check bits, matching buffer lines out (R81, R89). -/
def State.write (s : State) (cells : List Host.Cell) : State :=
  dropLines { s with
    mem := memWrites s.mem cells, badMem := freshGranules s.badMem cells, softMem := freshGranules s.softMem cells } cells

/-- Write a whole range: the bytes the cells give, zero elsewhere; check bits and read buffers as in any write (R81, R89). -/
def State.fill (s : State) (p n : Nat) (cells : List Host.Cell) : State :=
  dropRange (State.write { s with
    mem := memClear s.mem p n, badMem := freshRange s.badMem p n, softMem := freshRange s.softMem p n } cells) p n

/-- `n` bytes as memory holds them. -/
def State.read (s : State) (p n : Nat) : List Byte := memReads s.mem p n

def State.readNat (s : State) (p n : Nat) : Nat := natOfBytes (s.read p n)

/-! ### Single-bit errors (R219, R292, R391, R393)

The location classes of an error-log entry: 1 well, 4 sump, 6 HBM, 7 task-engine table, 8 gale lane; of the check: 0 ECC, 1 lane. -/

/-- An entry into an error log: a repeated error counts up, saturating (R393). -/
def logPut (e : LogEnt) : List LogEnt → List LogEnt
  | [] => [e]
  | f :: r =>
    if f.place == e.place && f.idx == e.idx && f.check == e.check && f.corrected == e.corrected then
      { f with count := min (f.count + e.count) (2 ^ 32 - 1) } :: r
    else f :: logPut e r

/-- Log an entry for a place: a well's with its cistern, device memory's with the I/O die (R393). -/
def State.logAt (s : State) (g : Nat) (corrected : Bool) : State :=
  if zoneOf g == .well then
    s.updCis (placeTile g / 8) fun u => { u with
      log := logPut { place := 1, idx := g, check := 0, corrected := corrected, count := 1 } u.log }
  else { s with mgmt := { s.mgmt with
    log := logPut { place := 6, idx := g, check := 0, corrected := corrected, count := 1 } s.mgmt.log } }

/-- Uncorrectable granules of wells that written cells touch without covering them (R219). -/
def narrowInto (s : State) (cells : List Host.Cell) : List Nat :=
  s.badMem.filter fun g => zoneOf g == .well && (cells.any fun c => granule c.1 == g) &&
    !(upTo (granuleLen g)).all fun i => cells.any fun c => c.1 == g + i

/-- A write by the core path, the siphon or the array path: a granule of a well that is uncorrectable and that the write does
not cover stays so, which is logged and raises no trap (R219). -/
def State.store (s : State) (cells : List Host.Cell) : State :=
  (narrowInto s cells).foldl (fun t g => t.logAt g false) (s.write cells)

/-- A read of `n` bytes from `p`: every single-bit error it meets is corrected, written back and logged. -/
def State.correct (s : State) (p n : Nat) : State :=
  let l := s.softMem.filter (granuleMeets p n)
  if l.isEmpty then s
  else l.foldl (fun t g => t.logAt g true) { s with softMem := s.softMem.filter fun g => !granuleMeets p n g }

/-- The task engine reads its tables: single-bit errors are corrected and logged (R391). -/
def State.correctTables (s : State) : State :=
  if s.softTables.isEmpty then s
  else { s with softTables := [], mgmt := { s.mgmt with log := s.softTables.foldl (fun l k =>
      logPut { place := 7, idx := k, check := 0, corrected := true, count := 1 } l) s.mgmt.log } }

/-- Reads of single bytes. -/
def State.correctBytes (s : State) (ps : List Nat) : State :=
  if s.softMem.isEmpty then s else ps.foldl (fun t p => t.correct p 1) s

/-- Reads of several ranges. -/
def State.correctAll (s : State) (l : List (Nat × Nat)) : State :=
  if s.softMem.isEmpty then s else l.foldl (fun t e => t.correct e.1 e.2) s

/-- Log the uncorrectable granules a read of ranges meets. -/
def State.logBad (s : State) (l : List (Nat × Nat)) : State :=
  (s.badMem.filter fun g => l.any fun r => granuleMeets r.1 r.2 g).foldl (fun t g => t.logAt g false) s

/-! ### The core path's own youngest value (R82, R223) -/

/-- The last byte a list of cells gives a place. -/
def lastCell (cells : List Host.Cell) (p : Nat) : Option Byte :=
  (cells.reverse.find? fun c => c.1 == p).map Prod.snd

/-- The youngest of the store entries that writes a place. -/
def youngest (l : List (List Host.Cell)) (p : Nat) : Option Byte :=
  l.reverse.findSome? fun cells => lastCell cells p

def GateEff.cells : GateEff → List Host.Cell
  | .store cells _ _ => cells
  | _ => []

/-- The context's own stores not yet performed, oldest first. -/
def Ctx.ownStores (x : Ctx) : List (List Host.Cell) := x.woq.map StoreEnt.cells ++ x.gate.map GateEff.cells

/-- A byte as a core-path load of the context reads it. -/
def State.coreByte (s : State) (c p : Nat) : Byte :=
  (youngest (s.ctx c).ownStores p).getD (memRead s.mem p)

def State.coreRead (s : State) (c p : Nat) : Nat → List Byte
  | 0 => []
  | n + 1 => s.coreByte c p :: s.coreRead c (p + 1) n

/-- A core-path load corrects the single-bit errors of the bytes it takes from their bank (R219). -/
def State.coreCorrect (s : State) (c p n : Nat) : State :=
  s.correctBytes (((upTo n).map (p + ·)).filter fun q => (youngest (s.ctx c).ownStores q).isNone)

/-- A byte the load takes from its bank lies in an uncorrectable granule (R219). -/
def State.coreBad (s : State) (c p n : Nat) : Bool :=
  s.badIn p n && (upTo n).any fun i => (youngest (s.ctx c).ownStores (p + i)).isNone && s.badAt (p + i)

end Sys2Proof.Machine
end

