-- ==== Sys2Proof/Machine/Ops.lean ====
section
/-! DEFINITION. The named operations over registers and held effects: `land` and landing (R49), `gate` and commit
(R50, R142), rollback (R145), taking a trap with its save image and record (R150 to R155), and the return from one. -/

namespace Sys2Proof.Machine

/-! ### Reading registers: s0 and a0 read zero, p0 one, p1 zero, m0 all ones (R38, R39, R45, R182) -/

def Arch.rS (x : Arch) (n : Nat) : Word := if n % 32 = 0 then 0 else vget x.s n
def Arch.rA (x : Arch) (n : Nat) : Word := if n % 32 = 0 then 0 else vget x.a n
def Arch.rV (x : Arch) (n : Nat) : Vec := vget x.v n
def Arch.rW (x : Arch) (n : Nat) : Vec := vget x.w n
def Arch.rM (x : Arch) (n : Nat) : Mask := if n % 8 = 0 then BitVec.allOnes 128 else vget x.m n
def Arch.rP (x : Arch) (n : Nat) : Bool := if n % 16 = 0 then true else if n % 16 = 1 then false else vget x.p n

/-! ### Landing (R49, R64, R65) -/

/-- The slot that owns a file (R49); no slot (4) owns the files the rule does not name. -/
def RFile.owner : RFile → Nat
  | .s => 0
  | .a => 1
  | .v => 2
  | .w => 3
  | _ => 4

/-- A register as the landing writes it. -/
def Arch.put (x : Arch) (file : RFile) (n : Nat) (val : PVal) : Arch :=
  match file, val with
  | .s, .word y => if n % 32 = 0 then x else { x with s := vput x.s n y }
  | .a, .word y => if n % 32 = 0 then x else { x with a := vput x.a n y }
  | .v, .lanes y en => { x with v := vput x.v n ((vget x.v n &&& ~~~en) ||| (y &&& en)) }
  | .w, .lanes y en => { x with w := vput x.w n ((vget x.w n &&& ~~~en) ||| (y &&& en)) }
  | .m, .mask y => if n % 8 = 0 then x else { x with m := vput x.m n y }
  | .p, .bit b => if n % 16 < 2 then x else { x with p := vput x.p n b }
  | .z, .pairs l => { x with z := vput x.z n l }
  | .xb, .base k =>
    match n with
    | 0 => { x with xbS := k % 32 }
    | 1 => { x with xbA := k % 32 }
    | 2 => { x with xbV := k % 32 }
    | _ => { x with xbW := k % 16 }
  | _, _ => x

/-- Of two writes to one register due together, `q` beats `p` (R49). -/
def Pend.beats (q p : Pend) : Bool :=
  let qo := q.slot == q.file.owner
  let po := p.slot == p.file.owner
  if qo && !po then true else if po && !qo then false else p.seq < q.seq

/-- The write loses its register to another of those due. -/
def Pend.loses (due : List Pend) (p : Pend) : Bool :=
  due.any fun q => q.file == p.file && q.reg == p.reg && q.seq != p.seq && q.beats p

/-- One issue cycle fewer to wait. -/
def Pend.tick (p : Pend) : Pend := { p with left := p.left - 1 }

/-- The writes of a pending list that fall due at the next issue cycle. -/
def dueOf (l : List Pend) : List Pend := (l.map Pend.tick).filter fun p => p.left == 0

/-- The winners among the writes due. -/
def winners (l : List Pend) : List Pend := (dueOf l).filter fun p => !p.loses (dueOf l)

/-- Apply the writes due: registers, flags, list. -/
def Arch.landAll (x : Arch) : Arch :=
  let win := winners x.pend
  let y := win.foldl (fun y p => y.put p.file p.reg p.val) x
  { y with
    fflags := win.foldl (fun f p => f ||| p.flags) x.fflags
    pend := (x.pend.map Pend.tick).filter fun p => p.left != 0 }

/-- Landing at the start of an issue cycle of the context: discarded writes count as collisions. -/
def Ctx.startCycle (x : Ctx) : Ctx :=
  let win := winners x.a.pend
  { x with
    a := x.a.landAll
    coll := x.coll + BitVec.ofNat 32 ((dueOf x.a.pend).length - win.length)
    landed := win.foldl (fun f p => f ||| p.flags) 0 }

/-- The write that makes an FP-exception trap due at the end of this issue cycle, judged before the landing (R65). -/
def Ctx.fpDue (x : Ctx) : Option Pend := (winners x.a.pend).find? fun p => p.exc != 0 && !p.suppress

/-- The write that makes a machine-check trap due at its landing (R219). -/
def Ctx.mcDue (x : Ctx) : Option Pend := (winners x.a.pend).find? fun p => p.bad.isSome && !p.suppress

/-! ### `land` and numbers of operations -/

/-- A result on its way (R49): writes to s0 and a0 are discarded. -/
def Arch.addPend (x : Arch) (p : Pend) : Arch :=
  if (p.file == .s || p.file == .a) && p.reg % 32 == 0 then x else { x with pend := x.pend ++ [p] }

/-- Append a result of the present bundle. -/
def State.landP (s : State) (p : Pend) : State :=
  s.updMe fun x => { x with a := x.a.addPend { p with seq := x.opSeq, pc := x.pc }, opSeq := x.opSeq + 1 }

/-- `land(file, n, x, L)` from a slot. -/
def State.land (s : State) (slot : Nat) (file : RFile) (n : Nat) (val : PVal) (lat : Nat) : State :=
  s.landP { file := file, reg := n, val := val, left := lat, slot := slot, seq := 0, pc := 0 }

/-- Results of the s-file and the a-file. -/
def State.landS (s : State) (slot n : Nat) (x : Word) (lat : Nat) : State := s.land slot .s n (.word x) lat
def State.landA (s : State) (slot n : Nat) (x : Word) (lat : Nat) : State := s.land slot .a n (.word x) lat
def State.landBit (s : State) (slot n : Nat) (b : Bool) (lat : Nat) : State := s.land slot .p n (.bit b) lat

/-! ### Fences (R87) -/

/-- What the markers make a new access on a path wait for. -/
def Arch.fencesFor (x : Arch) (path : Nat) : List Fence :=
  (x.marks.filter fun k => k.pb == path).map fun k => { path := k.pa, seq := k.seq }

/-- Rows of a feed not yet settled. -/
def Fate.settled : Fate → Bool
  | .pending | .fetching | .parked | .latching => false
  | _ => true

def FeedRun.allSettled (f : FeedRun) : Bool := f.rows.all fun r => r.fate.settled

def ArrKind.isPump : ArrKind → Bool
  | .feed f => f.pump
  | _ => false

/-- An array operation of the context before `seq` is outstanding, on the pump path or on the array path. -/
def Ctx.arrayOut (x : Ctx) (pump : Bool) (seq : Nat) : Bool :=
  (x.hold ++ x.mx).any (fun o => o.seq < seq && o.kind.isPump == pump) ||
  x.bagRun.any (fun b => b.feeds.any fun f => f.seq < seq && f.f.pump == pump && !f.allSettled)

/-- A released post on the core path of context c, issued before `seq`. -/
def PostEff.before (p : PostEff) (c seq : Nat) : Bool := p.src.any (fun e => e.1 == c) && p.seq.any (· < seq)

/-- A stage effect that context `x` issued before `seq`. -/
def StageEff.before (e : StageEff) (x : Ctx) (seq : Nat) : Bool :=
  e.task == x.task && e.step == x.step && e.gi == x.gi && e.seq < seq

/-- Every access of the context on the path issued before `seq` is performed. -/
def State.pathDone (s : State) (c path seq : Nat) : Bool :=
  let x := s.ctx c
  match path with
  | 0 => !(x.woq.any fun e => e.seq < seq) && !((s.cis (cisOf c)).atoms.any fun a => a.c == c && a.seq < seq) &&
      !(s.posts.any fun p => p.before c seq) && !(x.gate.any fun g => match g with
        | .store _ q _ => q < seq
        | .post _ _ _ _ q _ => q < seq
        | _ => false)
  | 1 => !(x.records.any fun r => r.seq < seq)
  | 2 => !x.arrayOut true seq
  | 3 => !x.arrayOut false seq
  | _ => !(s.stageQ.any fun e => e.before x seq) &&
      !(x.gate.any fun g => match g with
        | .stage _ _ q _ => q < seq
        | _ => false)

def State.fencesDone (s : State) (c : Nat) (l : List Fence) : Bool := l.all fun f => s.pathDone c f.path f.seq

/-- Every access the context released before `seq` is performed, on every path: stores, atomics and flag posts, siphon commands,
pump and array operations, stage effects (R98, R18). -/
def State.allDone (s : State) (c seq : Nat) : Bool :=
  !((s.ctx c).woq.any fun e => e.seq < seq) &&
  !((s.cis (cisOf c)).atoms.any fun a => a.c == c && a.seq < seq) &&
  !(s.posts.any fun p => p.before c seq) &&
  !((s.ctx c).records.any fun r => r.seq < seq && r.st != .held) &&
  !(((s.ctx c).mx ++ (s.ctx c).latching).any fun o => o.seq < seq) &&
  !((s.ctx c).bagRun.any fun b => b.feeds.any fun f => f.seq < seq && !f.allSettled) &&
  !(s.stageQ.any fun e => e.before (s.ctx c) seq)

/-- A pump or drain operation. -/
def ArrKind.isPumpOrDrain : ArrKind → Bool
  | .drain _ => true
  | .feed f => f.pump
  | _ => false

/-- Every store, siphon, pump and drain operation the context released or committed before `seq` is performed (R93,
R360). -/
def State.opsDone (s : State) (c seq : Nat) : Bool :=
  !((s.ctx c).woq.any fun e => e.seq < seq) &&
  !((s.ctx c).records.any fun r => r.seq < seq && r.st != .held) &&
  !(((s.ctx c).mx ++ (s.ctx c).latching).any fun o => o.seq < seq && o.kind.isPumpOrDrain) &&
  !((s.ctx c).bagRun.any fun b => b.feeds.any fun f => f.seq < seq && f.f.pump && !f.allSettled)

/-! ### The gate (R50) -/

/-- `gate(e)`. -/
def State.gateAdd (s : State) (e : GateEff) : State :=
  s.updMe fun x => { x with gate := x.gate ++ [e], opSeq := x.opSeq + 1 }

/-- Gate a store on the core path. -/
def State.gateStore (s : State) (cells : List Host.Cell) : State :=
  s.gateAdd (.store cells s.me.opSeq (s.me.a.fencesFor 0))

/-- Gate a post to flag `f` of context `c`. -/
def State.gatePost (s : State) (c f n : Nat) : State :=
  s.gateAdd (.post c f n s.me.scope s.me.opSeq (s.me.a.fencesFor 0))

/-- Put an array operation into the array hold (R144), with the fences that stand, its own bundle's `xf` among them (log 110,
DEDUCED). -/
def State.holdAdd (s : State) (k : ArrKind) (path : Nat) : State :=
  s.updMe fun x => { x with
    hold := x.hold ++ [{ kind := k, seq := x.opSeq, pc := x.pc, fences := x.a.fencesFor path }]
    opSeq := x.opSeq + 1 }

/-! ### Flags (R21) -/

/-- A post of `n` to flag `f`: clipped, with the overflow bit where it clips. -/
def Ctx.post (x : Ctx) (f n : Nat) : Ctx :=
  let sum := (vget x.flags f).toNat + n
  if 0xFFFF < sum then
    { x with flags := vput x.flags f 0xFFFF, ovf := x.ovf ||| BitVec.ofNat 32 (2 ^ (f % 32)) }
  else { x with flags := vput x.flags f (BitVec.ofNat 16 sum) }

/-- A wait's consumption of `n` from flag `f`, counted (R143). -/
def Ctx.consume (x : Ctx) (f n : Nat) : Ctx :=
  { x with
    flags := vput x.flags f (vget x.flags f - BitVec.ofNat 16 n)
    consumed := vput x.consumed f (vget x.consumed f + n) }

/-- Rollback gives every consumed count back (R143, R145). -/
def Ctx.giveBack (x : Ctx) : Ctx :=
  let y := (upTo 32).foldl (fun y f => if vget x.consumed f = 0 then y else y.post f (vget x.consumed f)) x
  { y with consumed := Vector.replicate 32 0 }

/-! ### Counters (R85): they never fall below zero -/

def minusSat (x : BitVec 32) (n : Nat) : BitVec 32 := BitVec.ofNat 32 (x.toNat - n)

/-! ### Commit and mark (R142) -/

/-- Every byte is performed. -/
def SphCmd.moved (r : SphCmd) : Bool := r.stream ≤ r.done && r.left == 0

/-- The detail of a machine check, by class and index (R150; free value). The classes: 0 register file, 1 well, 2 code,
3 siphon, 4 sump, 5 array. -/
def mcDetail (cls idx : Nat) : Nat := (Config.machineCheckDetail cls idx).toNat

/-- A deferred machine check of class "siphon" (R259, R400): due at a drain point, and at a `waitc` on the counters named. -/
def Ctx.siphonCheck (x : Ctx) (r : SphCmd) (watch : List Nat) : Ctx :=
  { x with deferred := x.deferred ++ [{
    cause := 0x0A, pc := r.pc, slot := some 1, exc := 0, detail := mcDetail 3 r.idx, watch := watch, id := r.seq }] }

/-- The machine check of operation `id` is seen from now on by a `waitc` on counter k too. -/
def Ctx.watchOn (x : Ctx) (id k : Nat) : Ctx :=
  { x with deferred := x.deferred.map fun d =>
      if d.cause == 0x0A && d.id == id && !d.watch.contains k then { d with watch := d.watch ++ [k] } else d }

/-- A read of command `idx` has met an error: its machine check is due at a drain point from then on, and at a `waitc` on `c.byte`
once the last byte is performed; `c.sph` follows with the completion (R259). -/
def Ctx.dueCheck (x : Ctx) (idx : Nat) : Ctx :=
  match x.records.find? fun r => r.idx == idx && r.st == .committed && r.errFirst.isSome with
  | none => x
  | some r =>
    if x.cond == .absent then x
    else
      let y := if r.checked then x else { x.siphonCheck r [] with
        records := x.records.map fun q => if q.idx == idx then { q with checked := true } else q }
      if r.moved then y.watchOn r.seq 1 else y

/-- Bytes of an indexed command that count as performed at its commit: those of skipped entries (R271). -/
def SphCmd.atCommit (r : SphCmd) : Nat := r.left - (r.stream + (if r.skipAt.isSome then 4 else 0))

/-- A post that takes effect together with the one released just before it: of one commit of one context, to one flag,
and waiting for the same stores, atomics and fences (R22, R88, R216, R232). -/
def State.postJoins (s : State) (c : Nat) (p q : PostEff) : Bool :=
  match p.src, q.src with
  | some (d, n, fences), some (e, m, fences') =>
    d == c && e == c && p.c == q.c && p.f == q.f && fences == fences' &&
      p.seq.any (fun k => (s.ctx c).markSeq ≤ k && !((s.cis (cisOf c)).atoms.any fun a =>
        a.c == c && k ≤ a.seq && q.seq.any fun i => decide (a.seq < i))) &&
      (if n == 0 || m == 0 then n == m else !((s.ctx c).woq.any fun w => n ≤ w.seq && w.seq < m))
  | _, _ => false

/-- Put a released post on its way, summed with the one it takes effect together with; the two stand in program order where the first
does. -/
def State.addPost (s : State) (c : Nat) (q : PostEff) : State :=
  match s.posts.getLast? with
  | some p => if s.postJoins c p q then { s with posts := s.posts.dropLast ++ [{ q with n := p.n + q.n, seq := p.seq }] }
      else { s with posts := s.posts ++ [q] }
  | none => { s with posts := s.posts ++ [q] }

/-- Release one gated effect. -/
def State.release (s : State) (c : Nat) (e : GateEff) : State :=
  match e with
  | .store cells seq fences => s.updCtx c fun x => { x with woq := x.woq ++ [{ cells := cells, seq := seq, fences := fences }] }
  | .spill cells => s.updCtx c fun x => { x with spill := memWrites x.spill cells }
  | .post t f n scope seq fences =>
    s.addPost c {
      src := some (c, if scope = 0 then 0 else seq, fences), c := t, f := f, n := n, seq := some seq, since := 2 * (s.ctx c).opSeq }
  | .stage isSet n seq fences =>
    let waits := match s.stepOf c with
      | none => [(c, seq)]
      | some x => x.nums.map fun d => (d, if d = c then seq else (s.ctx d).markSeq)
    { s with stageQ := s.stageQ ++ [{
        gi := (s.ctx c).gi, seq := seq, task := (s.ctx c).task, step := (s.ctx c).step,
        kind := if isSet then .set else .adv, n := n, waits := waits, fences := fences.map fun f => (c, f) }] }
  | .sph idx => s.updCtx c fun x =>
      let gone := x.records.foldl (fun n r => if r.idx == idx then n + r.atCommit else n) 0
      Ctx.dueCheck { x with
        cByte := minusSat x.cByte gone
        records := x.records.map fun r =>
          if r.idx == idx then { r with st := .committed, left := r.left - r.atCommit } else r } idx
  | .pump _ => s

/-- What the release of an array operation changes at once: the spout names (R184), an attached queue (R215). -/
def Ctx.releaseArr (x : Ctx) (o : ArrOp) : Ctx :=
  match o.kind with
  | .opn b _ => { x with spoutV := b.vn, spoutW := b.wn, spoutBag := some b.id }
  | .close => { x with spoutV := none, spoutW := none, spoutBag := none }
  | .feed f => match f.q with
    | some q => { x with a := { x.a with qs := vput x.a.qs q { vget x.a.qs q with arr := true } } }
    | none => x
  | _ => x

/-- Commit: the gate's effects in program order, and the array hold to the matrix engine. -/
def State.commit (s : State) (c : Nat) : State :=
  let t := (s.ctx c).gate.foldl (fun t e => t.release c e) s
  t.updCtx c fun x =>
    let y := x.hold.foldl Ctx.releaseArr x
    { y with gate := [], hold := [], mx := y.mx ++ x.hold.map fun o => { o with rel := y.opSeq }, markSeq := y.opSeq }

/-- Shadow: record the state, set the restart PC, and restart the consumption counts (R142). -/
def Ctx.shadow (x : Ctx) (next : Nat) : Ctx :=
  { x with sh := x.a, restart := next, consumed := Vector.replicate 32 0, tidUndo := [], markSeq := x.opSeq }

/-- `mark(ctx)` (R142); it clears the request record (R361). -/
def State.mark (s : State) (c next : Nat) : State :=
  (s.commit c).updCtx c fun x => { x.shadow next with req := none }

/-! ### Rollback (R145) -/

/-- A siphon command rollback discards leaves its counters. -/
def Ctx.dropHeld (x : Ctx) : Ctx :=
  let gone := x.records.filter fun r => r.st == .held
  let pumps := x.hold.foldl (fun n o => match o.kind with
    | .feed f => if f.pump then n + f.n else n
    | _ => n) 0
  let drains := (x.hold.filter fun o => match o.kind with
    | .drain _ => true
    | _ => false).length
  { x with
    records := x.records.filter fun r => r.st != .held
    cSph := minusSat x.cSph gone.length
    cByte := minusSat x.cByte (gone.foldl (fun n r => n + r.left) 0)
    cPump := minusSat x.cPump pumps
    cDrn := minusSat x.cDrn drains
    gate := []
    hold := [] }

/-- The context's own part of rollback; `sup` is the issue number of the write whose instruction raised the trap (R147). -/
def Ctx.rollback (x : Ctx) (sup : Option Nat) : Ctx :=
  let y := x.dropHeld.giveBack
  let sh := { x.sh with pend := x.sh.pend.map fun p => if sup == some p.seq then { p with suppress := true } else p }
  { y with
    a := sh, sh := sh, pc := x.restart, fetched := none, tidUndo := [], bubbles := 0, conflict := none, strWait := none,
    draft := none, reqStage := .none, reqAns := none, wlPassed := none, atPhase := false,
    inIssue := false, nextPc := none, eoc := [], scope := 0, lt := 0, lb := 0 }

/-- Undo the TID writes since the mark, the latest first: the images come back, the codebooks stay (R281, R310). -/
def Tile.undoTids (t : Tile) : List (Nat × TidEntry) → Tile
  | [] => t
  | (n, e) :: r => ({ t with tids := vput t.tids n { vget t.tids n with img := e.img } }).undoTids r

/-- `rollback(ctx)`. -/
def State.rollback (s : State) (c : Nat) (sup : Option Nat) : State :=
  (s.updTile (tileOf c) fun t => t.undoTids (s.ctx c).tidUndo).updCtx c fun x => x.rollback sup

/-! ### The save image (R155, R213, R262) -/

def QBind.pack (q : QBind) : Nat :=
  q.base + q.sz * 2 ^ 35 + q.role * 2 ^ 39 + ofBool q.arr * 2 ^ 41 + q.wflag * 2 ^ 42 + q.peer * 2 ^ 47 +
  q.pflag * 2 ^ 51 + q.nsl * 2 ^ 64 + q.ptr * 2 ^ 80 + q.held * 2 ^ 96

def QBind.unpack (x : Nat) : QBind :=
  { base := bits x 0 24, sz := bits x 35 4, role := bits x 39 2, arr := bitAt x 41, wflag := bits x 42 5,
    peer := bits x 47 4, pflag := bits x 51 5, nsl := bits x 64 16, ptr := bits x 80 16, held := bits x 96 16 }

/-- Numbered fields laid at an address: offset, bytes, value. -/
def fieldCells (base : Nat) (l : List (Nat × Nat × Nat)) : List Host.Cell :=
  l.flatMap fun f => cellsAt (base + f.1) (bytesOfNat f.2.1 f.2.2)

/-- A numbered list of equal fields from an offset. -/
def runFields (off w : Nat) : List Nat → List (Nat × Nat × Nat)
  | [] => []
  | x :: r => (off, w, x) :: runFields (off + w) w r

/-- A pending record (R262). -/
def SphCmd.fields (r : SphCmd) (off : Nat) : List (Nat × Nat × Nat) :=
  let status := 1 + 2 * (r.scope % 4) + 8 * ofBool r.add + 16 * ofBool r.sv + 32 * ofBool r.dv
  let (post, target) := match r.post with
    | none => (0, 0)
    | some (gi, f, n) => (128 + f % 32, gi % 16 + 16 * ((n - 1) % 16))
  [(off, 1, r.form), (off + 1, 1, status), (off + 2, 1, r.marker), (off + 3, 1, post), (off + 4, 1, target),
   (off + 8, 8, r.src), (off + 16, 8, r.dst), (off + 24, 8, r.len), (off + 32, 8, r.opnd), (off + 48, 8, r.done)]

def recordFields (off : Nat) : List SphCmd → List (Nat × Nat × Nat)
  | [] => []
  | r :: l => r.fields off ++ recordFields (off + 64) l

def loopFields (off : Nat) : List LoopLevel → List (Nat × Nat × Nat)
  | [] => []
  | l :: r => (off, 4, l.count) :: (off + 4, 4, l.index) :: (off + 8, 4, l.start) :: (off + 12, 4, l.last) ::
      loopFields (off + 16) r

/-- The predicates as a number, p0 set (R139). -/
def Arch.predBits (x : Arch) : Nat := (upTo 16).foldl (fun n i => n + ofBool (x.rP i) * 2 ^ i) 0

/-- The image of a context (R155): `reason` 0 pre-empted, 1 parked; `recs` the pending records. -/
def Ctx.imageFields (x : Ctx) (reason cause : Nat) (recs : List SphCmd) : List (Nat × Nat × Nat) :=
  let a := x.a
  [(0, 4, x.restart), (4, 1, reason), (5, 1, cause), (6, 1, a.loops.length), (7, 1, recs.length),
   (8, 8, a.nmr.toNat), (16, 8, a.fflags.toNat), (24, 2, a.predBits),
   (28, 4, a.xbS + 2 ^ 5 * a.xbA + 2 ^ 10 * a.xbV + 2 ^ 15 * a.xbW), (32, 4, x.ovf.toNat), (36, 4, x.coll.toNat),
   (40, 4, x.stall.toNat), (44, 4, x.wdog.toNat),
   (48, 8, (vget a.z 0).length + 2 ^ 16 * (vget a.z 1).length + 2 ^ 32 * (vget a.z 2).length +
     2 ^ 48 * (vget a.z 3).length), (56, 4, x.step)] ++
  loopFields 0x40 a.loops.reverse ++
  runFields 0xA0 2 (x.flags.toList.map BitVec.toNat) ++
  runFields 0xE0 32 (a.qs.toList.map QBind.pack) ++
  runFields 0x2E0 4 [x.cSph.toNat, x.cByte.toNat, x.cPump.toNat, x.cDrn.toNat, x.cAtom.toNat] ++
  runFields 0x300 8 ((upTo 32).map fun n => (a.rS n).toNat) ++
  runFields 0x400 8 ((upTo 32).map fun n => (a.rA n).toNat) ++
  runFields 0x500 16 ((upTo 8).map fun n => (a.rM n).toNat) ++
  recordFields 0x600 recs ++
  x.spill.map (fun c => (0x1000 + c.1, 1, c.2.toNat)) ++
  runFields 0x2000 256 (a.v.toList.map BitVec.toNat) ++
  runFields 0x4000 256 (a.w.toList.map BitVec.toNat) ++
  (upTo 4).flatMap fun k => runFields (0x5000 + 0x8000 * k) 8 ((vget a.z k).map BitVec.toNat)

/-- Write an image into the save area: bytes not named become zero. -/
def State.putImage (s : State) (area : Nat) (fields : List (Nat × Nat × Nat)) : State :=
  s.fill area Config.saveArea (fieldCells area fields)

/-- The place of a context's save area. -/
def State.areaOf (s : State) (c : Nat) : Option Nat :=
  (s.stepOf c).bind fun x => (x.areas.find? fun e => e.1 == (s.ctx c).gi).map Prod.snd

/-! ### Traps (R150 to R152) -/

/-- What a trap reports. -/
structure Trap where
  cause : Nat
  slot : Option Nat := none
  lane : Option Nat := none
  deferred : Bool := false
  exc : Nat := 0
  pc : Nat
  detail : Nat := 0
  /-- the issue number of the write that raised it, for R147 -/
  sup : Option Nat := none
  /-- the deferred trap it is -/
  due : Option DefTrap := none
  deriving DecidableEq, Repr, Inhabited

/-- A trap of kind C (R150). -/
def Trap.commits (t : Trap) : Bool := 0x0B ≤ t.cause && t.cause ≤ 0x0D

/-- A trap record (R152). Its lane byte holds the position of a pair (R325) modulo 256 (log 128). -/
def Ctx.trapRecord (x : Ctx) (c : Nat) (t : Trap) : List Byte :=
  let wher := (match t.slot with
    | some k => k % 4 + 4
    | none => 0) + (if t.lane.isSome then 8 else 0) + (if t.deferred then 16 else 0)
  bytesOfNat 1 1 ++ bytesOfNat 1 t.cause ++ bytesOfNat 1 wher ++ bytesOfNat 1 (t.lane.getD 0) ++ bytesOfNat 2 c ++
  bytesOfNat 2 (t.exc % 32) ++ bytesOfNat 4 t.pc ++ bytesOfNat 4 x.restart ++ bytesOfNat 4 x.step ++
  bytesOfNat 4 x.task ++ bytesOfNat 8 t.detail

/-- Offer a fault record to the buffer unit (R251). -/
def State.offer (s : State) (r : FRec) : State := { s with records := s.records ++ [r] }

/-- Lockstep is in force for a context. -/
def State.lockOn (s : State) (c : Nat) : Bool := (s.taskOf c).any Task.lock && (s.stepOf c).any fun k => !k.lockOff

/-- A context held or stopped: when it runs on, it fetches its bundle again, and a wait it stood in begins anew. -/
def Ctx.letGo (x : Ctx) (cond : Cond) : Ctx :=
  { x with cond := cond, fetched := none, conflict := none, strWait := none, draft := none }

/-- A synchronous fault ends lockstep (R340): member 0 broadcasts no more, and a member that has not issued a broadcast
bundle does not issue it: it stands at that bundle and takes the hold event there, as at a drain point. -/
def State.endLockstep (s : State) (c : Nat) : State :=
  if !s.lockOn c then s
  else match s.stepOf c with
    | none => s
    | some k => k.ctxs.foldl (fun t e =>
        if e.1 = 0 || e.2 = c || (t.ctx e.2).cond != .running then t
        else t.updCtx e.2 fun x => { x.letGo .held with
          bcast := [], pc := match x.bcast with
            | b :: _ => b.1
            | [] => x.pc }) s

/-- Park (R151): the image into the save area, the record to the fault buffer, the counter frozen; the gang's other
contexts take the hold event at their next drain points because the step lists a parked context. A trap that rolls back
ends lockstep (R340; the watchdog's too, log 91). -/
def State.park (s : State) (c : Nat) (t : Trap) : State :=
  let x := s.ctx c
  let s1 := match s.areaOf c with
    | some area => s.putImage area (x.imageFields 1 t.cause [])
    | none => s
  let s2 := s1.updCtx c fun y => { y with cond := .parked }
  let s3 := if t.commits then s2 else (s2.endLockstep c).updStep x.task x.step fun k => { k with lockOff := true }
  (s3.updStep x.task x.step fun k => { k with parkedBy := k.parkedBy ++ [c] }).offer {
    engine := 385 + c, bytes := x.trapRecord c t, c := some c }

/-- A deferred trap that has been taken is no longer due; any other still is, one of the same bundle too (R72, R259). -/
def dropDeferred (t : Trap) (l : List DefTrap) : List DefTrap :=
  match t.due with
  | none => l
  | some d => l.erase d

/-- Take a trap of kind R or A in the present context: roll back and park. -/
def takeTrap (t : Trap) (s : State) : State :=
  ((s.rollback s.cur t.sup).updMe fun x => { x with deferred := dropDeferred t x.deferred }).park s.cur t

/-- A deferred trap as a trap (R72, R152). -/
def DefTrap.trap (d : DefTrap) : Trap :=
  { cause := d.cause, slot := d.slot, deferred := true, exc := d.exc, pc := d.pc, detail := d.detail, due := some d }

/-- Take a trap of kind C: the bundle's effects and the gate's are committed as by a mark, its drain point is a progress
point (R154), then park. -/
def takeCommitTrap (t : Trap) (next : Nat) (s : State) : State :=
  ((s.mark s.cur next).updMe fun x => { x with
    pc := next, fetched := none, inIssue := false, nextPc := none, eoc := [], conflict := none, strWait := none
    wdog := 0 }).park s.cur t

/-! ### Return from a trap (R153, R155) -/

/-- The image's reserved values (R155). -/
def imageBroken (s : State) (area : Nat) (preempted : Bool) : Bool :=
  let nmr := s.readNat (area + 8) 8
  let zs := s.readNat (area + 48) 8
  let n := s.readNat (area + 7) 1
  6 < s.readNat (area + 6) 1 ||
  (upTo 4).any (fun k => 4096 < bits zs (16 * k) 16) ||
  bits nmr 0 3 == 0 || 5 < bits nmr 0 3 || bits nmr 32 32 != 0 || bits nmr 13 11 != 0 ||
  (preempted && (32 < n || (upTo n).any fun i =>
    let r := area + 0x600 + 64 * i
    !bitAt (s.readNat (r + 1) 1) 0 || bits (s.readNat (r + 1) 1) 6 2 != 0 || bits (s.readNat (r + 3) 1) 5 2 != 0 ||
    bits (s.readNat (r + 2) 1) 5 3 != 0 ||
    s.readNat (r + 5) 3 != 0 || s.readNat (r + 40) 8 != 0 || s.readNat (r + 56) 8 != 0))

/-- A run of `n` fields of `w` bytes. -/
def State.readRun (s : State) (p w : Nat) : Nat → List Nat
  | 0 => []
  | n + 1 => s.readNat p w :: s.readRun (p + w) w n

/-- A register file from a list. -/
def fillFrom {α : Type} {n : Nat} (v : Vector α (n + 1)) (l : List α) : Vector α (n + 1) :=
  (l.foldl (fun (acc : Nat × Vector α (n + 1)) x => (acc.1 + 1, vput acc.2 acc.1 x)) (0, v)).2

/-- A handle that was attached when the image was written: the engine has gone on moving it, and PTR, HELD and ARR are as
it left them (R215). -/
def QBind.asMoved (image now : QBind) : QBind :=
  if image.arr then { image with arr := now.arr, ptr := now.ptr, held := now.held } else image

/-- The shadowed items as the image gives them; NBV and the items no image holds keep their value. -/
def State.loadArch (s : State) (area : Nat) (old : Arch) : Arch :=
  let rd := fun o w => s.readNat (area + o) w
  let zs := rd 48 8
  let depth := rd 6 1
  { old with
    s := fillFrom old.s ((s.readRun (area + 0x300) 8 32).map word) |>.set 0 0
    a := fillFrom old.a ((s.readRun (area + 0x400) 8 32).map word) |>.set 0 0
    v := fillFrom old.v ((s.readRun (area + 0x2000) 256 32).map (BitVec.ofNat 2048))
    w := fillFrom old.w ((s.readRun (area + 0x4000) 256 16).map (BitVec.ofNat 2048))
    m := fillFrom old.m ((s.readRun (area + 0x500) 16 8).map (BitVec.ofNat 128)) |>.set 0 (BitVec.allOnes 128)
    p := (fillFrom old.p ((upTo 16).map fun i => bitAt (rd 24 2) i) |>.set 0 true) |>.set 1 false
    xbS := bits (rd 28 4) 0 5
    xbA := bits (rd 28 4) 5 5
    xbV := bits (rd 28 4) 10 5
    xbW := bits (rd 28 4) 15 4
    nmr := word (rd 8 8 - bits (rd 8 8) 24 8 * 2 ^ 24 + bits old.nmr.toNat 24 8 * 2 ^ 24)
    fflags := BitVec.ofNat 7 (rd 16 8)
    loops := ((upTo depth).map fun i =>
      { count := rd (0x40 + 16 * i) 4, index := rd (0x44 + 16 * i) 4, start := rd (0x48 + 16 * i) 4,
        last := rd (0x4C + 16 * i) 4 : LoopLevel }).reverse
    qs := fillFrom old.qs ((upTo 16).map fun q => (QBind.unpack (rd (0xE0 + 32 * q) 32)).asMoved (vget old.qs q))
    z := fillFrom old.z ((upTo 4).map fun k =>
      (s.readRun (area + 0x5000 + 0x8000 * k) 8 (bits zs (16 * k) 16)).map word) }

/-- Reload a context from its save area: it continues at the image's PC (R153). The pending writes and, after a park,
the ordering counters stay as they are; a register file written anew holds fresh parity. Flags are the image's, whatever
was posted meanwhile (log 92). -/
def State.reload (s : State) (area : Nat) (x : Ctx) : Ctx :=
  let rd := fun o w => s.readNat (area + o) w
  let a := s.loadArch area x.a
  { x with
    a := a, sh := a, pc := alignPc (rd 0 4), restart := alignPc (rd 0 4), cond := .running,
    flags := fillFrom x.flags ((s.readRun (area + 0xA0) 2 32).map (BitVec.ofNat 16))
    ovf := BitVec.ofNat 32 (rd 32 4), coll := BitVec.ofNat 32 (rd 36 4), stall := BitVec.ofNat 32 (rd 40 4),
    wdog := BitVec.ofNat 29 (rd 44 4 % 2 ^ 28), consumed := Vector.replicate 32 0, fetched := none, parity := none,
    spill := (memReads s.mem (area + 0x1000) 4096).zipIdx.foldl (fun m e => memWrite m e.2 e.1) [] }

/-! ### Stopping a context (R149, R178) -/

/-- Whether a siphon form is restartable (R255): cp, gth, plain sct, fill, pre, imm. -/
def SphCmd.restartable (r : SphCmd) : Bool :=
  match r.form with
  | 0 | 1 | 4 | 7 | 9 => true
  | 2 => !r.add
  | _ => false

/-- A fault record of the command has been refused and is still to be written (R252). -/
def State.refusedRec (s : State) (c : Nat) (r : SphCmd) : Bool :=
  s.records.any fun q => q.c == some c && q.cmd == some r.order && q.tries != 0

/-- A command is complete: its last byte is performed (R273), and no record of it stands refused (R252, log 121). -/
def State.sphComplete (s : State) (c : Nat) (r : SphCmd) : Bool := r.moved && !s.refusedRec c r

/-- A committed restartable command that is not complete: what a cancellation takes (R260, R273). -/
def State.cancels (s : State) (c : Nat) (r : SphCmd) : Bool := r.st != .held && r.restartable && !s.sphComplete c r

/-- Commands leave by cancellation (R260): their remainder leaves the counters. -/
def Ctx.cancel (x : Ctx) (goes : SphCmd → Bool) : Ctx :=
  let gone := x.records.filter goes
  { x with
    records := x.records.filter fun r => !goes r
    cSph := minusSat x.cSph gone.length
    cByte := minusSat x.cByte (gone.foldl (fun n r => n + r.left) 0) }

/-- A kind-2 or kind-3 record (R253). -/
def sphRecord (kind cause form c idx addr count step task : Nat) : List Byte :=
  bytesOfNat 1 kind ++ bytesOfNat 1 cause ++ bytesOfNat 2 form ++ bytesOfNat 2 c ++ bytesOfNat 2 idx ++
  bytesOfNat 8 addr ++ bytesOfNat 4 count ++ bytesOfNat 4 step ++ bytesOfNat 4 task ++ bytesOfNat 4 0

/-- Offer a record of the siphon of context c's tile. `wait` names the command that completes only once it is written. -/
def State.offerSph (s : State) (c kind cause : Nat) (r : SphCmd) (idx addr count : Nat) (wait : Bool) : State :=
  s.offer {
    engine := 1 + tileOf c
    bytes := sphRecord kind cause r.form c idx addr count (s.ctx c).step (s.ctx c).task
    c := if wait then some c else none
    cmd := if wait then some r.order else none }

/-- The kind-2 record of the reads of a cancelled command that met errors, where it has not been offered yet (R259, log 130). -/
def State.reportCancelled (s : State) (c : Nat) (r : SphCmd) : State :=
  match r.errFirst with
  | some a => if r.offered then s else s.offerSph c 2 2 r r.idx a r.errCount false
  | none => s

/-- Cancellation of the named commands in context c (R260), committed restartable ones that are not complete, with the records of what
they met before (R259). -/
def State.cancel (s : State) (c : Nat) (named : Nat → Bool) : State :=
  let goes := fun (r : SphCmd) => named r.idx && s.cancels c r
  (((s.ctx c).records.filter goes).foldl (fun t r => t.reportCancelled c r) s).updCtx c fun x => x.cancel goes

/-- The kill of a context (R149): it stops issuing, its gate, array hold and pending writes are discarded, committed
restartable commands that are not complete are cancelled, the others run on and post no flag (R257). -/
def Ctx.kill (complete : SphCmd → Bool) (x : Ctx) : Ctx :=
  let y := (x.dropHeld).cancel fun r => r.st != .held && r.restartable && !complete r
  { y with
    cond := .absent
    a := { y.a with pend := [], bag := none, ranges := [] }
    records := y.records.map fun r => if complete r then r else { r with post := none }
    mx := [], latching := [], bagRun := none, spoutV := none, spoutW := none, spoutBag := none, deferred := [], bubbles := 0, conflict := none,
    strWait := none, fetched := none, inIssue := false, reqStage := .none, reqAns := none, preempt := false, draft := none }

/-- Rows of the context leave the latch. -/
def Tile.dropRows (t : Tile) (c : Nat) : Tile :=
  { t with
    latch := match t.latch with
      | some r => if r.c == c then none else some r
      | none => none
    waiting := t.waiting.filter fun r => r.c != c }

/-- A join whose caller is killed: it is forgotten before its merge begins, and runs on afterwards (R354). -/
def PendJoin.afterKill (j : PendJoin) (l : List Nat) : Option PendJoin :=
  match j.c with
  | none => some j
  | some c => if !l.contains c then some j else if j.pages.isNone then none else some { j with c := none }

/-- A kill reaches a context (R149). -/
def State.killCtx (s : State) (c : Nat) : State :=
  let x := s.ctx c
  let s0 := (x.records.filter (s.cancels c)).foldl (fun t r => t.reportCancelled c r) s
  let s1 := (s0.updCtx c (Ctx.kill (s.sphComplete c))).updTile (tileOf c) fun u => u.dropRows c
  let s2 := s1.updStep x.task x.step fun k => { k with fflags := k.fflags ||| x.a.fflags }
  { s2 with
    forks := s2.forks.filter fun (f : PendFork) => f.c != c
    joins := s2.joins.filterMap fun (j : PendJoin) => j.afterKill [c]
    tasks := s2.tasks.map fun (t : Task) =>
      if s2.joins.any fun j => j.child == t.num && (j.afterKill [c]).isNone then { t with join := .unjoined } else t }

/-- A kill is on its way to a context: its step is killed and it has not stopped. -/
def State.killDue (s : State) (c : Nat) : Bool := (s.stepOf c).any Step.killed && (s.ctx c).cond != .absent

/-- Joins whose merge has not begun are forgotten: their children are unjoined again (R356). -/
def State.forgetJoins (s : State) (p : PendJoin → Bool) : State :=
  let out := fun (j : PendJoin) => j.pages.isNone && p j
  { s with
    joins := s.joins.filter fun j => !out j
    tasks := s.tasks.map fun (t : Task) => if s.joins.any fun j => out j && j.child == t.num then { t with join := .unjoined } else t }

/-- The context runs this step. -/
def State.runs (s : State) (task step c : Nat) : Bool := (s.ctx c).task == task && (s.ctx c).step == step

/-- The join is kept for a context of the step, which a pre-emption has stopped in its closure wait (R366). -/
def PendJoin.keptFor (j : PendJoin) (task step : Nat) : Bool := j.stopped.any fun e => e.1 == task && e.2.1 == step

/-- A step is killed: its counter is 0xFFFE at once (R95, R344), the forks its contexts have asked for are forgotten, and the joins
they wait in or are to wait in again (R356, R366), and the kill goes to each of its contexts. -/
def State.killStep (s : State) (task step : Nat) : State :=
  let s1 : State := { s with
    board := s.board.map fun (b : Count) => if b.task == task && b.step == step then { b with v := 0xFFFE } else b
    forks := s.forks.filter fun (f : PendFork) => !s.runs task step f.c }
  (s1.forgetJoins fun j => j.c.any (s.runs task step) || j.keptFor task step).updStep task step fun x => { x with
    killed := true, parkedBy := [], asked := none
    fflags := x.kept.foldl (fun f e => f ||| e.2.a.fflags) x.fflags }

/-- The kill of a step has reached all its contexts. -/
def State.stepDead (s : State) (k : Step) : Bool := k.killed && k.nums.all fun c => (s.ctx c).cond == .absent

/-- KILL (R149): the kill on its way to context `arg.c` reaches it. -/
def execKill (s : State) : Host.Outcome State Fault Refusal :=
  .next (if s.killDue s.arg.c then s.killCtx s.arg.c else s)

end Sys2Proof.Machine
end

