-- ==== Sys2Proof/Machine/CorePath.lean ====
section
/-! DEFINITION. The order of one context's accesses on the core path: when the oldest store of its write-out queue may leave (R82, R87),
and when a released post may take effect (R83, R88, R216). -/

namespace Sys2Proof.Machine

/-- The store at the head of a context's write-out queue may go: its fences are done (R87), the atomics the context sent before it are
performed and its released posts before it have taken effect, for its core accesses are performed in program order (R82, R88). -/
def State.headStore (s : State) (c : Nat) : Option StoreEnt :=
  (s.ctx c).woq.head?.filter fun e => s.fencesDone c e.fences &&
    !((s.cis (cisOf c)).atoms.any fun a => a.c == c && a.seq < e.seq) && !s.posts.any fun p => p.before c e.seq

/-- Every store of the source context that a post must wait for is performed (R83). -/
def State.storesDone (s : State) (p : PostEff) : Bool :=
  match p.src with
  | none => true
  | some (c, seq, _) => !((s.ctx c).woq.any fun e => e.seq < seq)

/-- The posts that waited for the store just performed count from this clock cycle (R216); `s` stands before it. -/
def State.startCounts (t s : State) (n : Nat) : State :=
  { t with posts := t.posts.map fun p => if t.storesDone p && !s.storesDone p then { p with since := n } else p }

/-- Perform a store of context c: its bytes reach their banks. -/
def performStore (c : Nat) (e : StoreEnt) (s : State) : State :=
  ((s.store e.cells).updCtx c fun x => { x with woq := x.woq.drop 1 }).startCounts s (2 * e.seq + 1)

/-- The atomics that the source context sent before a post of its core path are performed (R88: that path keeps program order, and R83
lets a post pass stores only). -/
def State.atomsDone (s : State) (p : PostEff) : Bool :=
  match p.src, p.seq with
  | some (c, _, _), some n => !((s.cis (cisOf c)).atoms.any fun a => a.c == c && a.seq < n)
  | _, _ => true

/-- A released post may take effect: the stores it waits for are performed, the atomics before it, and what an `xf` to core names
(R83, R87, R88, R216). -/
def State.postReady (s : State) (p : PostEff) : Bool :=
  s.storesDone p && s.atomsDone p && match p.src with
    | none => true
    | some (c, _, fences) => s.fencesDone c fences

/-- An earlier post of a context's core path holds back a later one (R88), unless the later one, at `scope=ctx`, passes it while it
waits for stores (R83), or the two count from one clock cycle and the later one stays on the tile that the earlier leaves, so that
it takes effect a clock cycle before it (R216; log 88). -/
def State.postHolds (s : State) (q p : PostEff) : Bool :=
  match q.src, p.src, q.seq.isSome && p.seq.isSome with
  | some (c, _, _), some (d, m, _), true =>
    c == d && !(m == 0 && !s.storesDone q) && !(q.since == p.since && tileOf q.c != tileOf c && tileOf p.c == tileOf c)
  | _, _, _ => false

/-- The released post at position k may take effect now. -/
def State.postDue (s : State) (k : Nat) : Bool :=
  (s.posts[k]?).any fun p => s.postReady p && !(s.posts.take k).any fun q => s.postHolds q p

/-- The released post at position k takes effect (R21, R216). -/
def State.postEffect (s : State) (k : Nat) : State :=
  match s.posts[k]? with
  | none => s
  | some p => State.updCtx { s with posts := s.posts.eraseIdx k } p.c fun x => x.post p.f p.n

/-- The released post of context c before `n` that may take effect now. -/
def State.ownDue (s : State) (c n : Nat) : Option Nat :=
  (upTo s.posts.length).find? fun k => s.postDue k && (s.posts[k]?).any fun p => p.before c n

/-- The released posts of context c before `n` take effect in order, with the stores they wait for: core accesses of one context are
performed in program order (R82, R88). -/
def postsUpTo (c n : Nat) : Nat → State → State
  | 0, s => s
  | fuel + 1, s =>
    match s.ownDue c n with
    | some k => postsUpTo c n fuel (s.postEffect k)
    | none =>
      match s.headStore c, s.posts.any fun p => p.before c n && !s.storesDone p with
      | some e, true => postsUpTo c n fuel (performStore c e s)
      | _, _ => s

/-- Before an access numbered `n` of context c is performed, its released posts before it take effect. -/
def State.postsFirst (s : State) (c n : Nat) : State := postsUpTo c n (s.posts.length + (s.ctx c).woq.length) s

end Sys2Proof.Machine
end

