-- ==== Sys2Proof/Machine/Operands.lean ====
section
/-! DEFINITION. Operand forms: based fields (R39), immediates with LB (R36), effective addresses (R221), lanes and
masks (R181 to R185), the checks of core-path accesses (R209, R220, R99), and running an instruction under its guard. -/

namespace Sys2Proof.Machine

/-! ### Guard and outcome (R38, R51) -/

abbrev Out := Host.Outcome State Fault Refusal

/-- An act that raises no trap, under its guard. -/
def run (g : Nat) (s : State) (f : State → State) : Out :=
  .next (if s.me.a.rP g then f s else s)

/-- The trap an act of a slot raises, placed at the bundle. -/
def State.trapHere (s : State) (slot cause detail : Nat) : Trap :=
  { cause := cause, slot := some slot, pc := s.me.pc, detail := detail }

/-- An act that may trap at issue, under its guard: the trap parks the step. -/
def tryRun (g : Nat) (s : State) (f : State → Except Trap State) : Out :=
  if s.me.a.rP g then
    match f s with
    | .ok t => .next t
    | .error e => .next (takeTrap e s)
  else .next s

/-- A clock cycle of waiting, counted in the stall counter and the watchdog (R140, R154). -/
def State.stallNow (s : State) : State := s.updMe fun x => { x with stall := x.stall + 1, wdog := x.wdog + 1 }

/-- An act with a wait before it, under its guard: until it is ready the context stalls. -/
def waitRun (g : Nat) (s : State) (ready : State → Bool) (f : State → Except Trap State) : Out :=
  if s.me.a.rP g then
    if ready s then
      match f s with
      | .ok t => .next t
      | .error e => .next (takeTrap e s)
    else .next s.stallNow
  else .next s

/-! ### Based fields (R39) -/

def Arch.bS (x : Arch) (b n : Nat) : Nat := if b = 1 then (n + x.xbS) % 32 else n
def Arch.bA (x : Arch) (b n : Nat) : Nat := if b = 1 then (n + x.xbA) % 32 else n
def Arch.bV (x : Arch) (b n : Nat) : Nat := if b = 1 then (n + x.xbV) % 32 else n
def Arch.bW (x : Arch) (b n : Nat) : Nat := if b = 1 then (n + x.xbW) % 16 else n

/-- The s-register a field selects, and its value. -/
def State.sReg (s : State) (b n : Nat) : Word := s.me.a.rS (s.me.a.bS b n)
def State.aReg (s : State) (b n : Nat) : Word := s.me.a.rA (s.me.a.bA b n)

/-- The data register of an M-slot form (`f` 1 the second file), based by its own file (R222). -/
def Arch.dataSA (x : Arch) (f b n : Nat) : RFile × Nat := if f = 1 then (.s, x.bS b n) else (.a, x.bA b n)
def Arch.dataVW (x : Arch) (f b n : Nat) : RFile × Nat := if f = 1 then (.w, x.bW b n) else (.v, x.bV b n)

/-- A 64-bit register of the s- or a-file. -/
def Arch.rFile (x : Arch) (r : RFile × Nat) : Word := if r.1 = .s then x.rS r.2 else x.rA r.2
/-- A vector register. -/
def Arch.rVec (x : Arch) (r : RFile × Nat) : Vec := if r.1 = .w then x.rW r.2 else x.rV r.2

/-! ### Immediates (R36) -/

/-- The immediate of slot `slot` with the header's LB above its `w` bits: the field and its width. -/
def Ctx.imm (x : Ctx) (slot w i : Nat) : Nat × Nat :=
  if x.lt = slot then (x.lb * 2 ^ w + i, w + 11) else (i, w)

/-- The same, sign-extended. -/
def Ctx.simm (x : Ctx) (slot w i : Nat) : Int := sext (x.imm slot w i).2 (x.imm slot w i).1

/-! ### Address registers (R221) -/

def lsaOf (x : Word) : Nat := x.toNat % 2 ^ 24
def esOf (x : Word) : Nat := bits x.toNat 24 2
/-- The lane size an address register's ES names. -/
def esWidth (x : Word) : Nat := 8 * 2 ^ esOf x

/-- `ea(r, k, u)`. -/
def ea (r : Word) (k : Int) (u : Nat) : Nat := wrap 24 ((lsaOf r : Int) + k * u)

/-! ### Checks of core-path accesses (R220) -/

/-- The bank rows of a range of local scratch addresses. -/
def rowsOf (lsa n : Nat) : Nat × Nat := (lsa / 128, (lsa % 128 + n + 127) / 128)

/-- An access of `n` bytes inside the sets of a path (R99); without DET every access is (R100). Before its first `phase`
a DET task's sets are empty (log 93). After a rollback past a `phase` already passed, accesses executed again before that
`phase` are checked against the sets now in force, those of the later phase: the spec does not list the sets among the
shadowed state (log 24, DEDUCED). -/
def State.inSets (s : State) (c path : Nat) (wr : Bool) (lsa n : Nat) : Bool :=
  !s.isDet c || (upTo (rowsOf lsa n).2).all fun i =>
    (s.ctx c).setsNow.any fun r => r.path == path && (r.wr || !wr) && r.first ≤ lsa / 128 + i && lsa / 128 + i < r.first + r.len

/-- The set-violation detail (R150). -/
def setDetail (path lsa : Nat) : Nat := path * 2 ^ 61 + lsa

/-- A checked access: bounds, then sets; the place it resolves to. -/
def State.access (s : State) (slot path : Nat) (wr : Bool) (lsa n al : Nat) : Except Trap Nat :=
  match s.resolve s.cur lsa n al with
  | none => .error (s.trapHere slot 3 lsa)
  | some p =>
    if s.inSets s.cur path wr lsa n then .ok p else .error (s.trapHere slot 4 (setDetail path lsa))

/-- Load latency by tile (R47, R210). -/
def State.loadLat (s : State) (places : List Nat) : Nat :=
  if places.all fun p => placeTile p == tileOf s.cur then 5 else 7

/-! ### Lanes (R181 to R185) -/

/-- Lane `i` of width `w`. -/
def lane (w : Nat) (x : Vec) (i : Nat) : Nat := x.toNat / 2 ^ (w * i) % 2 ^ w

def laneCount (w : Nat) : Nat := 2048 / w

/-- `active(m, i, w)`. -/
def Arch.active (x : Arch) (m i w : Nat) : Bool :=
  m == 0 || bitAt (x.rM m).toNat (if w = 8 then i / 2 else i)

/-- Lanes packed into a register. -/
def packVec (w : Nat) (l : List Nat) : Vec := BitVec.ofNat 2048 (packLanes w l)

/-- The bits of the active lanes. -/
def Arch.enable (x : Arch) (m w : Nat) : Vec :=
  packVec w ((upTo (laneCount w)).map fun i => if x.active m i w then 2 ^ w - 1 else 0)

/-- The row the latch shows the present context (R185, R330): one of the bag whose names are in force (R184). A bag in force
that names no register shows its rows to `vsp` all the same (log 102), and its rows show until the commit that releases its
close, though the bag is open no longer once the close has issued (log 103). -/
def State.latchRow (s : State) : Option LatchRow :=
  match (s.tile (tileOf s.cur)).latch with
  | none => none
  | some r =>
    if r.c == s.cur && s.me.spoutBag.any (fun id => r.drain || r.bag == id) then some r else none

/-- `spout_row()`. -/
def State.spoutRow (s : State) : Vec := match s.latchRow with
  | some r => r.row
  | none => 0

/-- A vector source of the V or X slot: the latch for a spout name, else the register (R184). -/
def State.srcVec (s : State) (r : RFile × Nat) : Vec :=
  if r.1 = .w then (if s.me.spoutW == some r.2 then s.spoutRow else s.me.a.rW r.2)
  else if s.me.spoutV == some r.2 then s.spoutRow
  else s.me.a.rV r.2

/-- `vland` (R183) with flags and enabled exceptions: lanes `r` of width `w`, the bits `en` written. -/
def State.vland (s : State) (slot : Nat) (r : RFile × Nat) (x en : Vec) (lat : Nat) : State :=
  s.land slot r.1 r.2 (.lanes x en) lat

/-- The enabled exceptions among raised flags, by the TE bits of an NMR (R59, R65). -/
def enabledExc (nmr : Word) (f : BitVec 7) : BitVec 7 := f &&& BitVec.ofNat 7 (bits nmr.toNat 8 5)

/-- The numeric mode of an NMR (R59). -/
def fenv (nmr : Word) : FEnv :=
  { rm := RMode.ofCode .rne (bits nmr.toNat 0 3), satn := bitAt nmr.toNat 7, sub16 := bits nmr.toNat 5 2,
    sub64 := bits nmr.toNat 3 2 }

def State.env (s : State) : FEnv := fenv s.me.a.nmr

/-- The rounding an RM field names (R43). -/
def State.rmode (s : State) (rm : Nat) : RMode := RMode.ofCode s.env.rm rm

/-- Land lane results with their flags: `res` gives, lane by lane, a value and the flags it raised; inactive lanes have
none. The flags land with the result, the lowest lane that raised an enabled exception is named (R64, R65). -/
def State.landLanes (s : State) (slot : Nat) (d : RFile × Nat) (w : Nat) (res : List (Option (Nat × BitVec 7))) (lat : Nat) :
    State :=
  let exc := res.map fun r => match r with
    | some (_, f) => enabledExc s.me.a.nmr f
    | none => 0
  s.landP {
    file := d.1, reg := d.2, left := lat, slot := slot, seq := 0, pc := 0
    val := .lanes (packVec w (res.map fun r => match r with
      | some (x, _) => x
      | none => 0)) (packVec w (res.map fun r => if r.isSome then 2 ^ w - 1 else 0))
    flags := res.foldl (fun f r => match r with
      | some (_, g) => f ||| g
      | none => f) 0
    exc := exc.foldl (· ||| ·) 0
    lane := (findPos (· != 0) exc).getD 0 }

/-- Lane results over the active lanes. -/
def State.overLanes (s : State) (m w : Nat) (f : Nat → Nat × BitVec 7) : List (Option (Nat × BitVec 7)) :=
  (upTo (laneCount w)).map fun i => if s.me.a.active m i w then some (f i) else none

/-! ### Queues (R214) -/

def QBind.slotBytes (q : QBind) : Nat := 2 ^ (q.sz + 3)

/-- `slot_lsa(h, k)`. -/
def QBind.slotLsa (q : QBind) (k : Nat) : Nat := q.base + ((q.ptr + k) % q.nsl) * q.slotBytes

/-- An acquire to `j` slots can take its counts now. -/
def Ctx.canAcquire (x : Ctx) (q j : Nat) : Bool :=
  let h := vget x.a.qs q
  j ≤ h.held || j - h.held ≤ (vget x.flags h.wflag).toNat

/-- `acquire(h, j)` once its wait is over. -/
def Ctx.acquire (x : Ctx) (q j : Nat) : Ctx :=
  let h := vget x.a.qs q
  if j ≤ h.held then x
  else
    let y := x.consume h.wflag (j - h.held)
    { y with a := { y.a with qs := vput y.a.qs q { h with held := j } } }

end Sys2Proof.Machine
end

