-- ==== Sys2Proof/Machine/Flags.lean ====
section
/-! DEFINITION. Flag computations outside the lanes: predicate pairs (R161), the clearing of FFLAGS against flags
that land in the same cycle (R64, R174), effects at the end of the issue cycle (R51), and the back edge (R167). -/

namespace Sys2Proof.Machine

/-- A condition and its complement into a predicate pair (R161, R205). -/
def State.landPair (s : State) (slot pd : Nat) (c : Bool) (lat : Nat) : State :=
  (s.landBit slot pd c lat).landBit slot (pd + 1) (!c) lat

/-- FFLAGS with the masked bits cleared; a flag that landed in this issue cycle ends set (R64, R174). -/
def Ctx.clearFlags (x : Ctx) (mask : BitVec 7) : Ctx :=
  { x with a := { x.a with fflags := (x.a.fflags &&& ~~~mask) ||| (x.a.fflags &&& x.landed) } }

/-- One end-of-cycle effect. -/
def Ctx.applyEoc (x : Ctx) : Eoc → Ctx
  | .bind q b => { x with a := { x.a with qs := vput x.a.qs q b } }
  | .clear mask => x.clearFlags mask
  | .openSets => { x with setsNow := x.setsNext, setsNext := [] }

/-- An effect placed at the end of the issue cycle: at once when no other slot of the bundle follows. -/
def State.atEnd (s : State) (e : Eoc) : State :=
  s.updMe fun x => if x.inIssue then { x with eoc := x.eoc ++ [e] } else x.applyEoc e

/-- All end-of-cycle effects of the bundle. -/
def Ctx.endSlots (x : Ctx) : Ctx := { (x.eoc.foldl Ctx.applyEoc x) with eoc := [] }

/-- The back edge at a bundle (R167): the next PC and the loop stack after it. -/
def backEdge (pc : Nat) : List LoopLevel → Nat × List LoopLevel
  | [] => (pc + 16, [])
  | l :: r =>
    if l.last = pc then
      if 1 < l.count then (l.start, { l with count := l.count - 1, index := l.index + 1 } :: r)
      else backEdge pc r
    else (pc + 16, l :: r)

/-- `next_pc` (R51): a taken transfer's target, else the back edge; always a PC (R33). -/
def Ctx.advance (x : Ctx) : Nat × Ctx :=
  match x.nextPc with
  | some t => (alignPc t, x)
  | none =>
    let b := backEdge x.pc x.a.loops
    (alignPc b.1, { x with a := { x.a with loops := b.2 } })

/-- A taken transfer to a target, followed by two bubbles (R48). -/
def State.transfer (s : State) (target : Nat) : State :=
  s.updMe fun x => { x with nextPc := some target, bubbles := 2 }

end Sys2Proof.Machine
end

