-- ==== Sys2Proof/Machine/Scratch.lean ====
section
/-! DEFINITION. Scratchpad loads and stores (R223), vectors, gathers and scatters (R224, R225), spill (R226) and
address arithmetic (R227). -/

namespace Sys2Proof.Machine

/-- A core load waits for the accesses an `xf` to core named (R87). -/
def coreReady (s : State) : Bool := s.fencesDone s.cur (s.me.a.fencesFor 0)

/-- The address of a scalar load. -/
def loadLsa (s : State) (b x o n : Nat) : Nat := ea (s.aReg x b) (s.me.simm 1 9 o) n

/-- The address of a scalar store. -/
def storeLsa (s : State) (b x o n : Nat) : Nat := ea (s.aReg x b) (s.me.simm 1 10 o) n

/-- A scalar load of `n` bytes (R223): each byte as the youngest value the context wrote. -/
def loadScalar (n : Nat) (signed : Bool) (g f d b x o : Nat) (s : State) : Out :=
  waitRun g s coreReady fun s =>
    let lsa := loadLsa s b x o n
    match s.access 1 0 false lsa n n with
    | .error e => .error e
    | .ok p =>
      let v := natOfBytes (s.coreRead s.cur p n)
      let r := s.me.a.dataSA f x d
      .ok ((s.coreCorrect s.cur p n).landP {
        file := r.1, reg := r.2, left := s.loadLat [p], slot := 1, seq := 0, pc := 0
        val := .word (if signed then wordOfInt (sext (8 * n) v) else word v)
        bad := if s.coreBad s.cur p n then some lsa else none })

/-- A scalar store of `n` bytes (R223): checked at issue, gated. -/
def storeScalar (n : Nat) (g f src b x o : Nat) (s : State) : Out :=
  tryRun g s fun s =>
    match s.access 1 0 true (storeLsa s b x o n) n n with
    | .error e => .error e
    | .ok p => .ok (s.gateStore (cellsAt p (bytesOfNat n (s.me.a.rFile (s.me.a.dataSA f x src)).toNat)))

/-- `lb` (R223). -/
def execLb (g f d b x o : Nat) (s : State) : Out := loadScalar 1 true g f d b x o s

/-- `lbn` (R223). -/
def execLbn (g f d b x o : Nat) (s : State) : Out := loadScalar 1 false g f d b x o s

/-- `lh` (R223). -/
def execLh (g f d b x o : Nat) (s : State) : Out := loadScalar 2 true g f d b x o s

/-- `lhn` (R223). -/
def execLhn (g f d b x o : Nat) (s : State) : Out := loadScalar 2 false g f d b x o s

/-- `lw` (R223). -/
def execLw (g f d b x o : Nat) (s : State) : Out := loadScalar 4 true g f d b x o s

/-- `lwn` (R223). -/
def execLwn (g f d b x o : Nat) (s : State) : Out := loadScalar 4 false g f d b x o s

/-- `ld` (R223). -/
def execLd (g f d b x o : Nat) (s : State) : Out := loadScalar 8 false g f d b x o s

/-- `sb` (R223). -/
def execSb (g f r b x o : Nat) (s : State) : Out := storeScalar 1 g f r b x o s

/-- `sh` (R223). -/
def execSh (g f r b x o : Nat) (s : State) : Out := storeScalar 2 g f r b x o s

/-- `sw` (R223). -/
def execSw (g f r b x o : Nat) (s : State) : Out := storeScalar 4 g f r b x o s

/-- `sd` (R223). -/
def execSd (g f r b x o : Nat) (s : State) : Out := storeScalar 8 g f r b x o s

/-! ### Vectors -/

/-- The address of a contiguous vector form. -/
def vecLsa (s : State) (b x o : Nat) : Nat := ea (s.aReg x b) (s.me.simm 1 6 o) 256

/-- `vld` (R224): inactive lanes, at the element size of the address register, keep their value at landing. -/
def execVld (g f d b m x o : Nat) (s : State) : Out :=
  waitRun g s coreReady fun s =>
    let lsa := vecLsa s b x o
    match s.access 1 0 false lsa 256 256 with
    | .error e => .error e
    | .ok p =>
      let r := s.me.a.dataVW f x d
      .ok ((s.coreCorrect s.cur p 256).landP {
        file := r.1, reg := r.2, left := s.loadLat [p], slot := 1, seq := 0, pc := 0
        val := .lanes (BitVec.ofNat 2048 (natOfBytes (s.coreRead s.cur p 256))) (s.me.a.enable m (esWidth (s.aReg x b)))
        bad := if s.coreBad s.cur p 256 then some lsa else none })

/-- The cells of the bytes of active lanes of a vector at a place. -/
def laneCells (a : Arch) (m w p : Nat) (v : Vec) : List Host.Cell :=
  ((cellsAt p (bytesOfNat 256 v.toNat)).zipIdx.filter fun c => a.active m (c.2 / (w / 8)) w).map Prod.fst

/-- `vst` (R224). The set check of a DET task runs over all 256 bytes, those of inactive lanes among them (log 119). -/
def execVst (g f r b m x o : Nat) (s : State) : Out :=
  tryRun g s fun s =>
    match s.access 1 0 true (vecLsa s b x o) 256 256 with
    | .error e => .error e
    | .ok p => .ok (s.gateStore (laneCells s.me.a m (esWidth (s.aReg x b)) p (s.me.a.rVec (s.me.a.dataVW f x r))))

/-- `vldb` (R224): one element into every lane. -/
def execVldb (g f d b m x o : Nat) (s : State) : Out :=
  waitRun g s coreReady fun s =>
    let w := esWidth (s.aReg x b)
    let lsa := vecLsa s b x o
    match s.access 1 0 false lsa (w / 8) (w / 8) with
    | .error e => .error e
    | .ok p =>
      let r := s.me.a.dataVW f x d
      let e := natOfBytes (s.coreRead s.cur p (w / 8))
      .ok ((s.coreCorrect s.cur p (w / 8)).landP {
        file := r.1, reg := r.2, left := s.loadLat [p], slot := 1, seq := 0, pc := 0
        val := .lanes (packVec w (List.replicate (laneCount w) e)) (s.me.a.enable m w)
        bad := if s.coreBad s.cur p (w / 8) then some lsa else none })

/-! ### Gathers and scatters -/

/-- The active lanes of an indexed form with their addresses (R225). -/
def idxLanes (s : State) (b m x i : Nat) : List (Nat × Nat) :=
  let base := s.aReg x b
  let w := esWidth base
  let v := s.me.a.rV (s.me.a.bV x i)
  ((upTo (laneCount w)).filter fun k => s.me.a.active m k w).map fun k =>
    (k, (lsaOf base + lane w v k * (w / 8)) % 2 ^ 24)

/-- The places of the active lanes, each check over every lane before the next (R220). -/
def idxPlaces (s : State) (wr : Bool) (w : Nat) (ls : List (Nat × Nat)) : Except Trap (List (Nat × Nat)) :=
  match ls.find? fun l => (s.resolve s.cur l.2 (w / 8) (w / 8)).isNone with
  | some l => .error (s.trapHere 1 3 l.2)
  | none =>
    match ls.find? fun l => !s.inSets s.cur 0 wr l.2 (w / 8) with
    | some l => .error (s.trapHere 1 4 (setDetail 0 l.2))
    | none => .ok (ls.map fun l => (l.1, (s.resolve s.cur l.2 (w / 8) (w / 8)).getD 0))

/-- Bank-conflict stall of a set of places (R211): the most distinct rows in one bank of one well, less one. -/
def conflictOf (places : List Nat) : Nat :=
  let rows := (places.map placeRow).eraseDups
  let bank := fun r => r / 2 ^ 14 * 16 + r % 16
  rows.foldl (fun n r => max n ((rows.filter fun q => bank q == bank r).length)) 1 - 1

/-- `vldx` (R225). -/
def execVldx (g f d b m x i : Nat) (s : State) : Out :=
  waitRun g s coreReady fun s =>
    let w := esWidth (s.aReg x b)
    if w = 8 then .error (s.trapHere 1 3 (lsaOf (s.aReg x b)))
    else
      let ls := idxLanes s b m x i
      match idxPlaces s false w ls with
      | .error e => .error e
      | .ok ps =>
        let r := s.me.a.dataVW f x d
        let val := fun k => match ps.find? fun p => p.1 == k with
          | some p => natOfBytes (s.coreRead s.cur p.2 (w / 8))
          | none => 0
        let bad := ps.find? fun p => s.coreBad s.cur p.2 (w / 8)
        .ok ((ps.foldl (fun t p => t.coreCorrect t.cur p.2 (w / 8)) s).landP {
          file := r.1, reg := r.2, left := s.loadLat (ps.map Prod.snd), slot := 1, seq := 0, pc := 0
          val := .lanes (packVec w ((upTo (laneCount w)).map val)) (s.me.a.enable m w)
          bad := match bad with
            | some p => (ls.find? fun l => l.1 == p.1).map Prod.snd
            | none => none })

/-- `vstx` (R225): one gate entry; of lanes that write one byte the highest wins. -/
def execVstx (g f r b m x i : Nat) (s : State) : Out :=
  tryRun g s fun s =>
    let w := esWidth (s.aReg x b)
    if w = 8 then .error (s.trapHere 1 3 (lsaOf (s.aReg x b)))
    else match idxPlaces s true w (idxLanes s b m x i) with
      | .error e => .error e
      | .ok ps =>
        let v := s.me.a.rVec (s.me.a.dataVW f x r)
        .ok (s.gateStore (ps.flatMap fun p => cellsAt p.2 (bytesOfNat (w / 8) (lane w v p.1))))

/-! ### Spill -/

/-- A spill byte as the context reads it: the youngest it wrote, gated or not (R212). -/
def spillByte (x : Ctx) (o : Nat) : Byte :=
  (youngest (x.gate.map fun e => match e with
    | .spill c => c
    | _ => []) o).getD (memRead x.spill o)

def spillNat (x : Ctx) (o n : Nat) : Nat := natOfBytes ((upTo n).map fun i => spillByte x (o + i))

/-- `spl` (R226). -/
def execSpl (g f r x o : Nat) (s : State) : Out :=
  run g s fun s => match f with
    | 0 => s.landS 1 (s.me.a.bS x r) (word (spillNat s.me o 8)) 1
    | 1 => s.landA 1 (s.me.a.bA x r) (word (spillNat s.me o 8)) 1
    | 2 => s.vland 1 (.v, s.me.a.bV x r) (BitVec.ofNat 2048 (spillNat s.me o 256)) (BitVec.allOnes 2048) 1
    | _ => s.vland 1 (.w, s.me.a.bW x r) (BitVec.ofNat 2048 (spillNat s.me o 256)) (BitVec.allOnes 2048) 1

/-- The bytes a spill store takes from its register. -/
def spillSource (a : Arch) (f r x : Nat) : List Byte :=
  match f with
  | 0 => bytesOfNat 8 (a.rS (a.bS x r)).toNat
  | 1 => bytesOfNat 8 (a.rA (a.bA x r)).toNat
  | 2 => bytesOfNat 256 (a.rV (a.bV x r)).toNat
  | _ => bytesOfNat 256 (a.rW (a.bW x r)).toNat

/-- `sps` (R226). -/
def execSps (g f r x o : Nat) (s : State) : Out :=
  run g s fun s => s.gateAdd (.spill (cellsAt o (spillSource s.me.a f r x)))

/-! ### Address arithmetic -/

/-- The address register with its LSA moved by y; the other bits kept (R227). -/
def moveLsa (r : Word) (y : Int) : Word := word (r.toNat / 2 ^ 24 * 2 ^ 24 + wrap 24 ((lsaOf r : Int) + y))

/-- `aadd` (R227). -/
def execAadd (g d a x b : Nat) (s : State) : Out :=
  run g s fun s => s.landA 1 (s.me.a.bA x d) (moveLsa (s.aReg x a) (s.aReg x b).toNat) 1

/-- `aaddi` (R227, R36). -/
def execAaddi (g d a x i : Nat) (s : State) : Out :=
  run g s fun s => s.landA 1 (s.me.a.bA x d) (moveLsa (s.aReg x a) (s.me.simm 1 11 i)) 1

/-- `ashl` (R227). -/
def execAshl (g d a x b k : Nat) (s : State) : Out :=
  run g s fun s => s.landA 1 (s.me.a.bA x d) (moveLsa (s.aReg x a) ((s.aReg x b).toNat * 2 ^ k : Nat)) 1

/-- `amov` (R227). -/
def execAmov (g d a x e t : Nat) (s : State) : Out :=
  run g s fun s =>
    let r := s.aReg x a
    s.landA 1 (s.me.a.bA x d) (if t = 1 then word (putBits r.toNat 24 2 e) else r) 1

end Sys2Proof.Machine
end

