-- ==== Sys2Proof/Machine/Queue.lean ====
section
/-! DEFINITION. Queue handles (R213, R214, R228 to R231) and flags (R216, R232, R233). -/

namespace Sys2Proof.Machine

/-- The handle q of the present context. -/
def State.handle (s : State) (q : Nat) : QBind := vget s.me.a.qs q

/-- The bounds fault of a queue form, with detail BASE. -/
def State.queueTrap (s : State) (q : Nat) : Trap := s.trapHere 1 3 (s.handle q).base

/-- The binding `qbind` would write (R228), or none when it is a bounds fault; the detail is its BASE. A BASE that is not
a multiple of the slot size is a bounds fault (log 98). -/
def newBinding (s : State) (a b : Word) : Option QBind :=
  let x := a.toNat
  let h : QBind := { QBind.unpack x with nsl := b.toNat % 2 ^ 16, ptr := 0, held := 0 }
  if bits x 24 11 != 0 || bits x 56 8 != 0 || h.arr || h.role == 3 || 14 ≤ h.sz then none
  else if h.nsl == 0 || 4096 < h.nsl || h.base % h.slotBytes != 0 then none
  else if (s.resolve s.cur h.base (h.nsl * h.slotBytes) 1).isNone then none
  else some h

/-- `qbind` (R228): acts at issue, governs bundles from the next one. The detail of every bounds fault is the BASE of the
binding it would write, that of one naming an attached handle too (log 113). -/
def execQbind (g q a b : Nat) (s : State) : Out :=
  tryRun g s fun s =>
    let x := s.me.a.rA a
    if (s.handle q).arr then .error (s.trapHere 1 3 (bits x.toNat 0 24))
    else match newBinding s x (s.me.a.rA b) with
      | none => .error (s.trapHere 1 3 (bits x.toNat 0 24))
      | some h => .ok (s.atEnd (.bind q h))

/-- Bytes of a queue access by its file code: 8 for a and s, 256 for v and w. -/
def queueBytes (f : Nat) : Nat := if f < 2 then 8 else 256

/-- A slot access is allowed (R229). -/
def slotOk (h : QBind) (f k o : Nat) : Bool :=
  h.role != 0 && !h.arr && k < h.nsl && (o + 1) * queueBytes f ≤ h.slotBytes

/-- The queue wait of a slot access is over (R214); an access that will fault waits for nothing. -/
def slotReady (q f k o : Nat) (s : State) : Bool :=
  !slotOk (s.handle q) f k o || s.me.canAcquire q (k + 1)

/-- `qld` (R229). -/
def execQld (g q f d k o : Nat) (s : State) : Out :=
  waitRun g s (fun s => coreReady s && slotReady q f k o s) fun s =>
    if !slotOk (s.handle q) f k o then .error (s.queueTrap q)
    else
      let n := queueBytes f
      let lsa := (s.handle q).slotLsa k + o * n
      match s.access 1 0 false lsa n n with
      | .error e => .error e
      | .ok p =>
        let s1 := s.updMe fun x => x.acquire q (k + 1)
        let v := natOfBytes (s.coreRead s.cur p n)
        .ok ((s1.coreCorrect s.cur p n).landP {
          file := match f with
            | 0 => .a
            | 1 => .s
            | 2 => .v
            | _ => .w
          reg := d, left := s.loadLat [p], slot := 1, seq := 0, pc := 0
          val := if f < 2 then .word (word v) else .lanes (BitVec.ofNat 2048 v) (BitVec.allOnes 2048)
          bad := if s.coreBad s.cur p n then some lsa else none })

/-- The bytes `qst` stores. -/
def queueSource (a : Arch) (f r : Nat) : List Byte :=
  match f with
  | 0 => bytesOfNat 8 (a.rA r).toNat
  | 1 => bytesOfNat 8 (a.rS r).toNat
  | 2 => bytesOfNat 256 (a.rV r).toNat
  | _ => bytesOfNat 256 (a.rW r).toNat

/-- `qst` (R229). -/
def execQst (g q f d k o : Nat) (s : State) : Out :=
  waitRun g s (slotReady q f k o) fun s =>
    if !slotOk (s.handle q) f k o then .error (s.queueTrap q)
    else
      let n := queueBytes f
      match s.access 1 0 true ((s.handle q).slotLsa k + o * n) n n with
      | .error e => .error e
      | .ok p => .ok ((s.updMe fun x => x.acquire q (k + 1)).gateStore (cellsAt p (queueSource s.me.a f d)))

/-- The context of a member's tile that its gang does not hold, for an index that names the member. -/
def State.besideGang (s : State) (c gi : Nat) : Option Nat :=
  (s.stepOf c).bind fun k => (k.ctxs.find? fun e => e.1 / 2 == gi / 2).map fun e => otherCtx e.2

/-- The context a gang index names for a post of context c. The service task may post across gangs (R23): for it an index
reaches the context of a member's tile that its gang does not hold (log 97). -/
def State.postGoal (s : State) (c gi : Nat) : Option Nat :=
  match s.gangCtx c gi with
  | some d => some d
  | none => if s.isSvc c then s.besideGang c gi else none

/-- The target of a post by gang index, or the detail of its bounds fault (R23, R216). -/
def postTarget (s : State) (gi : Nat) : Except Nat Nat :=
  match s.postGoal s.cur gi with
  | some c => .ok c
  | none => .error ((s.besideGang s.cur gi).getD (0x8000 + gi))

/-- An advance is allowed (R230). -/
def advOk (h : QBind) (role n : Nat) : Bool := h.role == role && !h.arr && n != 0 && n ≤ h.nsl

/-- The wait of an advance is over. -/
def advReady (role q n : Nat) (s : State) : Bool := !advOk (s.handle q) role n || s.me.canAcquire q n

/-- The binding after an advance by n slots. -/
def QBind.moved (h : QBind) (n : Nat) : QBind := { h with ptr := (h.ptr + n) % h.nsl, held := h.held - n }

/-- `advance(h, n)` (R214): the context's view moves once every slot of the bundle has read it (R51), the peer's post is gated. -/
def advance (role g q n : Nat) (s : State) : Out :=
  waitRun g s (advReady role q n) fun s =>
    let h := s.handle q
    if !advOk h role n then .error (s.queueTrap q)
    else match postTarget s h.peer with
      | .error d => .error (s.trapHere 1 3 d)
      | .ok c =>
        let s1 := s.updMe fun x => x.acquire q n
        .ok ((s1.atEnd (.bind q ((s1.handle q).moved n))).gatePost c h.pflag n)

/-- `qadv.p` (R230). -/
def execQadvP (g q n : Nat) (s : State) : Out := advance 1 g q n s

/-- `qadv.c` (R230). -/
def execQadvC (g q n : Nat) (s : State) : Out := advance 2 g q n s

/-- `qstat` is allowed (R231). -/
def statOk (h : QBind) (k : Nat) : Bool := h.role != 0 && !h.arr && k ≤ h.nsl

def statReady (q k : Nat) (s : State) : Bool := !statOk (s.handle q) k || s.me.canAcquire q k

/-- `qstat` (R231). -/
def execQstat (g q d k : Nat) (s : State) : Out :=
  waitRun g s (statReady q k) fun s =>
    if !statOk (s.handle q) k then .error (s.queueTrap q)
    else
      let s1 := s.updMe fun x => x.acquire q k
      let h := s1.handle q
      .ok (s1.landA 1 d (word (h.slotLsa 0 % 2 ^ 24 + h.held * 2 ^ 32 + h.ptr * 2 ^ 48)) 1)

/-- `fpost` (R232): gated; the target is checked at issue. -/
def execFpost (g t f n : Nat) (s : State) : Out :=
  tryRun g s fun s => match postTarget s t with
    | .error d => .error (s.trapHere 1 3 d)
    | .ok c => .ok (s.gatePost c f (n + 1))

/-- `fset` (R233): at issue, ungated. -/
def execFset (g f a x : Nat) (s : State) : Out :=
  run g s fun s => s.updMe fun c => { c with flags := vput c.flags f (BitVec.ofNat 16 (s.aReg x a).toNat) }

/-- M-slot `nop` (R40). -/
def execNopM (_g : Nat) (s : State) : Out := .next s

end Sys2Proof.Machine
end

