-- ==== Sys2Proof/Machine/Atom.lean ====
section
/-! DEFINITION. Core-path atomics (R84, R217, R234), route counters (R218, R235), and the atomic unit's act. -/

namespace Sys2Proof.Machine

/-- At scope cis or wider an atomic waits for the released stores; any atomic waits for an `xf` to core (R84, R87, R217). -/
def atomReady (s : State) : Bool := coreReady s && (s.me.scope == 0 || s.me.woq.isEmpty)

/-- Send an atomic to the cistern's unit: `c.atom` rises (R85). -/
def State.sendAtom (s : State) (k : AtomKind) (place size y z lsa : Nat) : State :=
  let a : Atom := { id := s.me.opSeq, c := s.cur, seq := s.me.opSeq, kind := k, place := place, size := size, y := y, z := z, lsa := lsa }
  (s.updCis (cisOf s.cur) fun u => { u with atoms := u.atoms ++ [a] }).updMe fun x =>
    { x with cAtom := x.cAtom + 1, opSeq := x.opSeq + 1 }

/-- The word of an atomic (R234): its place, address and size. -/
def atomWord (s : State) (r : Word) : Except Trap (Nat × Nat × Nat) :=
  let n := 2 ^ esOf r
  if esOf r < 2 then .error (s.trapHere 1 3 (lsaOf r))
  else match s.access 1 0 true (lsaOf r) n n with
    | .error e => .error e
    | .ok p => .ok (p, lsaOf r, n)

/-- A core atomic (R234): sent at issue, its old value lands after 12 issue cycles. -/
def atomic (k : AtomKind) (g d a b c x : Nat) (pd : Option Nat) (s : State) : Out :=
  waitRun g s atomReady fun s =>
    match atomWord s (s.aReg x a) with
    | .error e => .error e
    | .ok (p, lsa, n) =>
      let id := s.me.opSeq
      let s1 := s.sendAtom k p n ((s.aReg x b).toNat % 2 ^ (8 * n)) ((s.aReg x c).toNat % 2 ^ (8 * n)) lsa
      let s2 := s1.land 1 .a (s.me.a.bA x d) (.atomic id 0) 12
      .ok (match pd with
        | none => s2
        | some q => (s2.land 1 .p q (.atomic id 1) 12).land 1 .p (q + 1) (.atomic id 2) 12)

/-- `atom.add` (R234). -/
def execAtomAdd (g d a b x : Nat) (s : State) : Out := atomic .add g d a b 0 x none s
/-- `atom.min` (R234): unsigned with n = 1. -/
def execAtomMin (g d a b n x : Nat) (s : State) : Out := atomic (if n = 1 then .minU else .minS) g d a b 0 x none s
/-- `atom.max` (R234). -/
def execAtomMax (g d a b n x : Nat) (s : State) : Out := atomic (if n = 1 then .maxU else .maxS) g d a b 0 x none s
/-- `atom.xchg` (R234). -/
def execAtomXchg (g d a b x : Nat) (s : State) : Out := atomic .xchg g d a b 0 x none s
/-- `atom.cas` (R234). -/
def execAtomCas (g d a b c x : Nat) (s : State) : Out := atomic .cas g d a b c x none s
/-- `atom.incb` (R234). -/
def execAtomIncb (g d a p c x : Nat) (s : State) : Out := atomic .incb g d a 0 c x (some p) s

/-- The gang holds the cistern's route counters (R218). -/
def hasGrant (s : State) : Bool := (s.cis (cisOf s.cur)).grant == some (s.me.task, s.me.step)

/-- `rc.inc` (R235): range first, then the grant. -/
def rcInc (g c x amount : Nat) (s : State) : Out :=
  waitRun g s atomReady fun s =>
    let k := (s.aReg x c).toNat
    if 64 ≤ k then .error (s.trapHere 1 3 k)
    else if !hasGrant s then .error (s.trapHere 1 3 0)
    else .ok (s.sendAtom (.rcInc k) 0 4 amount 0 0)

/-- `rc.inc` by a register (R235). -/
def execRcIncReg (g c b x : Nat) (s : State) : Out := rcInc g c x ((s.aReg x b).toNat % 2 ^ 32) s
/-- `rc.inc` by an immediate (R235). -/
def execRcIncImm (g c x m : Nat) (s : State) : Out := rcInc g c x m s

/-- `rc.snap` (R235). -/
def execRcSnap (g a x : Nat) (s : State) : Out :=
  waitRun g s atomReady fun s =>
    let lsa := lsaOf (s.aReg x a)
    match s.resolve s.cur lsa 256 256 with
    | none => .error (s.trapHere 1 3 lsa)
    | some p =>
      if !s.inSets s.cur 0 true lsa 256 then .error (s.trapHere 1 4 (setDetail 0 lsa))
      else if !hasGrant s then .error (s.trapHere 1 3 0)
      else .ok (s.sendAtom .rcSnap p 256 0 0 lsa)

/-! ### The unit -/

/-- The word after an atomic, and whether an `incb` succeeded (R234). -/
def atomNew (k : AtomKind) (w old y z : Nat) : Nat × Bool :=
  match k with
  | .add => ((old + y) % 2 ^ w, true)
  | .minS => (if sext w y < sext w old then y else old, true)
  | .minU => (if y < old then y else old, true)
  | .maxS => (if sext w old < sext w y then y else old, true)
  | .maxU => (if old < y then y else old, true)
  | .xchg => (y, true)
  | .cas => (if old == z then y else old, true)
  | .incb => if old < z then (old + 1, true) else (old, false)
  | _ => (old, true)

/-- The value a pending write takes from a performed atomic. -/
def Pend.answer (p : Pend) (id old : Nat) (ok : Bool) (bad : Option Nat) : Pend :=
  match p.val with
  | .atomic i w =>
    if i == id then
      { p with
        val := if w = 0 then .word (word old) else .bit (if w = 1 then ok else !ok)
        bad := bad }
    else p
  | _ => p

/-- An answer reaches the live and the shadowed pending lists. -/
def Ctx.answerAtom (x : Ctx) (id old : Nat) (ok : Bool) (bad : Option Nat) : Ctx :=
  { x with
    a := { x.a with pend := x.a.pend.map fun p => p.answer id old ok bad }
    sh := { x.sh with pend := x.sh.pend.map fun p => p.answer id old ok bad }
    cAtom := minusSat x.cAtom 1 }

/-- The unit performs one atomic, indivisibly (R217, R218). R219 gives a word it cannot read the trap at the landing and no more:
the model writes the result all the same, so that an 8-byte word gets fresh check bits, and a 4-byte word leaves its granule
uncorrectable, with no entry in the log (log 118). -/
def State.doAtom (s : State) (k : Nat) (a : Atom) : State :=
  let s := s.updCis k fun u => { u with atoms := u.atoms.filter fun b => !(b.c == a.c && b.id == a.id) }
  match a.kind with
  | .rcInc n =>
    (s.updCis k fun u => { u with
      rc := vput u.rc n (BitVec.ofNat 32 (min ((vget u.rc n).toNat + a.y) (2 ^ 32 - 1))) }).updCtx a.c fun x =>
      x.answerAtom a.id 0 true none
  | .rcSnap =>
    let bytes := (s.cis k).rc.toList.flatMap fun v => bytesOfNat 4 v.toNat
    ((s.write (cellsAt a.place bytes)).updCis k fun u => { u with rc := Vector.replicate 64 0 }).updCtx a.c fun x =>
      x.answerAtom a.id 0 true none
  | kind =>
    let old := s.readNat a.place a.size
    let bad := if s.badIn a.place a.size then some a.lsa else none
    let s := s.correct a.place a.size
    let r := atomNew kind (8 * a.size) old a.y a.z
    let s1 := if kind == .incb && !r.2 then s else s.write (cellsAt a.place (bytesOfNat a.size r.1))
    s1.updCtx a.c fun x => x.answerAtom a.id old r.2 bad

/-- The oldest atomic of cistern k's unit, once the released posts that its context issued before it have taken effect: a context's core
accesses are performed in program order (R88, log 88). -/
def State.headAtom (s : State) (k : Nat) : Option Atom :=
  (s.cis k).atoms.head?.filter fun a => !s.posts.any fun p => p.before a.c a.seq

/-- ATOMIC_PERFORM (R217): the unit of cistern `arg.n` performs the oldest atomic it holds. -/
def execAtomicPerform (s : State) : Out :=
  .next (match s.headAtom s.arg.n with
    | none => s
    | some a => s.doAtom s.arg.n a)

/-- The unit of cistern k performs what it holds up to the last atomic of a kind, each after the released posts of its context before
it. -/
def State.atomsUpTo (s : State) (k : Nat) (p : Atom → Bool) : State :=
  let q := (s.cis k).atoms
  match findPos p q.reverse with
  | none => s
  | some n => (q.take (q.length - n)).foldl (fun t a => (t.postsFirst a.c a.seq).doAtom k a) s

/-- Atomics of a context whose result lands at its next issue cycle are performed first: an atomic reaches the unit two
clock cycles after it is sent, its result lands after twelve (R217). -/
def State.hurryAtoms (s : State) (c : Nat) : State :=
  let ids := (dueOf (s.ctx c).a.pend).filterMap fun p => match p.val with
    | .atomic i _ => some i
    | _ => none
  s.atomsUpTo (cisOf c) fun a => a.c == c && ids.contains a.id

/-- Before a core-path load of a context its earlier atomics are performed and its released posts take effect: core accesses are performed
in program order (R82, R88, log 88). -/
def State.ownFirst (s : State) (c : Nat) : State :=
  (s.atomsUpTo (cisOf c) fun a => a.c == c).postsFirst c (s.ctx c).opSeq

end Sys2Proof.Machine
end

