-- ==== Sys2Proof/Machine/Fence.lean ====
section
/-! DEFINITION. Counter waits (R86, R236), fences (R87, R237), determinism sets and the phase barrier (R97 to R100,
R238, R239). -/

namespace Sys2Proof.Machine

/-- An ordering counter (R85). -/
def Ctx.counter (x : Ctx) : Nat → BitVec 32
  | 0 => x.cSph
  | 1 => x.cByte
  | 2 => x.cPump
  | 3 => x.cDrn
  | _ => x.cAtom

/-- The deferred trap a `waitc` on counter k takes (R72, R259, R400). -/
def Ctx.seenBy (x : Ctx) (k : Nat) : Option DefTrap := x.deferred.find? fun d => d.watch.contains k

/-- `waitc` (R86, R236) with its target. -/
def waitc (g k : Nat) (n : State → Nat) (s : State) : Out :=
  waitRun g s (fun s => (s.me.counter k).toNat ≤ n s) fun s => match s.me.seenBy k with
    | some d => .error d.trap
    | none => .ok s

/-- `waitc` with an immediate (R236). -/
def execWaitcImm (g k i : Nat) (s : State) : Out := waitc g k (fun _ => i) s
/-- `waitc` with a register, read each clock cycle (R236). -/
def execWaitcReg (g k a x : Nat) (s : State) : Out := waitc g k (fun s => (s.aReg x a).toNat % 2 ^ 32) s

/-- Set the marker of an `xf` (R87); a later marker of the same pair covers the earlier. -/
def Arch.addMark (x : Arch) (a b seq : Nat) : Arch :=
  if a = b then x
  else { x with marks := (x.marks.filter fun m => !(m.pa == a && m.pb == b)) ++ [{ pa := a, pb := b, seq := seq }] }

/-- `xf` (R87, R237). The mark stands at once, so a held array operation (R144) in the X slot of the same bundle takes it and
waits for it; the rule does not say (log 110, DEDUCED). -/
def execXf (g a b : Nat) (s : State) : Out :=
  run g s fun s => s.updMe fun x => { x with a := x.a.addMark a b x.opSeq }

/-! ### Sets -/

/-- `rws.r` and `rws.w` (R97, R238). Re-execution after a rollback past a `phase` declares for a phase that has opened
already, whose sets stand. -/
def declare (wr : Bool) (g p a l x : Nat) (s : State) : Out :=
  tryRun g s fun s =>
    let lsa := lsaOf (s.aReg x a)
    let n := (s.aReg x l).toNat % 2 ^ 24
    if n = 0 then .ok s
    else if (s.resolve s.cur lsa n 1).isNone then .error (s.trapHere 1 3 lsa)
    else
      let r : SetRange := { path := p, wr := wr, first := (rowsOf lsa n).1, len := (rowsOf lsa n).2 }
      if s.me.a.phases < s.me.phaseTop || s.me.setsNext.contains r then .ok s
      else if 8 ≤ (s.me.setsNext.filter fun q => q.path == p && q.wr == wr).length then
        .error (s.trapHere 1 4 (setDetail p lsa))
      else .ok (s.updMe fun c => { c with setsNext := c.setsNext ++ [r] })

/-- `rws.r` (R238). -/
def execRwsR (g p a l x : Nat) (s : State) : Out := declare false g p a l x s
/-- `rws.w` (R238). -/
def execRwsW (g p a l x : Nat) (s : State) : Out := declare true g p a l x s

/-! ### Phase -/

/-- The sets a context brings to the phase after `n` phases: a context that has passed that `phase`, and may have rolled back
since, brought those now in force. -/
def Ctx.setsFor (x : Ctx) (n : Nat) : List SetRange := if n < x.phaseTop then x.setsNow else x.setsNext

/-- A context has reached its phase number n + 1: it waits there, is past it, or has exited (R178). -/
def Ctx.reached (x : Ctx) (n : Nat) : Bool :=
  x.cond == .exited || n < x.phaseTop || (x.a.phases == n && x.atPhase)

/-- What the context released is performed (R98). -/
def State.released (s : State) (c : Nat) : Bool :=
  s.allDone c (s.ctx c).markSeq && !((s.cis (cisOf c)).atoms.any fun a => a.c == c)

/-- The gang of the present context: its contexts' numbers. -/
def State.gang (s : State) : List Nat := match s.stepOf s.cur with
  | some k => k.nums
  | none => [s.cur]

/-- The barrier of R98 lets the present context pass; it repeats a phase it passed before a rollback at once. A context past the
barrier has performed what it released in the ending phase, and what it releases in the next holds nobody. -/
def phaseReady (s : State) : Bool :=
  !s.me.gate.isEmpty || s.me.a.phases < s.me.phaseTop ||
  s.gang.all fun d => (d == s.cur || (s.ctx d).reached s.me.a.phases) && (s.me.a.phases < (s.ctx d).phaseTop || s.released d)

/-- The pairs of sets compared at a phase (R98): each (context, path, range). -/
def phaseSets (s : State) : List (Nat × SetRange) :=
  s.gang.flatMap fun d =>
    if (s.ctx d).cond == .exited then [] else ((s.ctx d).setsFor s.me.a.phases).map fun r => (d, r)

/-- First shared bank row of two ranges of different (context, path) pairs, one of them a write set. -/
def clash (p q : Nat × SetRange) : Option Nat :=
  if p.1 == q.1 && p.2.path == q.2.path then none
  else if !p.2.wr && !q.2.wr then none
  else
    let lo := max p.2.first q.2.first
    if lo < p.2.first + p.2.len && lo < q.2.first + q.2.len then some lo else none

/-- Every clash at a phase, in gang and declaration order: the row and the two sides. -/
def clashes (s : State) : List (Nat × (Nat × SetRange) × (Nat × SetRange)) :=
  (phaseSets s).flatMap fun p => (phaseSets s).filterMap fun q => (clash p q).map fun row => (row, p, q)

/-- The set-overlap detail, or none when no sets clash (R150): of several clashes the one with the lowest shared row is
named, and of those the first in gang and declaration order (log 94). -/
def overlapDetail (s : State) : Option Nat :=
  let l := clashes s
  let low := (l.map Prod.fst).foldl min ((l.head?.map Prod.fst).getD 0)
  let tri := fun (p : Nat × SetRange) => (Config.setTriple ((s.ctx p.1).gi / 2) p.1 p.2.path).toNat
  (l.find? fun e => e.1 == low).map fun e => tri e.2.1 * 2 ^ 48 + tri e.2.2 * 2 ^ 40 + e.1 * 128 % 2 ^ 24

/-- The set-overlap fault in every context of the gang that has arrived: each rolls back and parks (R98, R114). -/
def State.overlapAll (s : State) (d : Nat) : State :=
  let others := s.gang.filter fun e => e != s.cur && (s.ctx e).cond == .running && (s.ctx e).atPhase
  let t := others.foldl (fun (t : State) e =>
    let u : State := { t with cur := e }
    takeTrap (u.trapHere 1 5 d) u) s
  let t : State := { t with cur := s.cur }
  takeTrap (t.trapHere 1 5 d) t

/-- `phase` (R98, R100, R239). The sets it opens govern bundles from the next one. -/
def execPhase (g : Nat) (s : State) : Out :=
  if !s.me.a.rP g then .next s
  else if !phaseReady s then .next (s.stallNow.updMe fun x => { x with atPhase := true })
  else if !s.me.gate.isEmpty then .next (takeTrap (s.trapHere 1 5 Config.heldAtPhase.toNat) s)
  else if s.me.a.phases < s.me.phaseTop then .next (s.updArch fun x => { x with phases := x.phases + 1 })
  else match (if s.isDet s.cur then overlapDetail s else none) with
    | some d => .next (s.overlapAll d)
    | none => .next ((s.updMe fun x => { x with
        a := { x.a with phases := x.a.phases + 1 }, phaseTop := x.a.phases + 1, atPhase := false }).atEnd .openSets)

end Sys2Proof.Machine
end

