-- ==== Sys2Proof/Machine/SeqCtl.lean ====
section
/-! DEFINITION. Sequencer control: branches (R164), hardware loops (R166 to R169), cross-copies and bases (R170,
R171), mode and status (R172 to R174), `nop`, `yield`, `exit`, `trap`, `sysc`, `brk` (R175 to R178), TID entries
(R309 to R311). -/

namespace Sys2Proof.Machine

/-! ### Branches -/

/-- A branch offset in bundles, sign-extended, from the bundle's own PC. -/
def Ctx.relative (x : Ctx) (w o : Nat) : Nat := wrap 32 ((x.pc : Int) + 16 * sext w o)

/-- A branch target from a register: bits 3:0 ignored (R33). -/
def regTarget (x : Word) : Nat := alignPc x.toNat

/-- `br` (R164). -/
def execBr (g o : Nat) (s : State) : Out := run g s fun s => s.transfer (s.me.relative 22 o)

/-- `call` (R164). -/
def execCall (g d o : Nat) (s : State) : Out :=
  run g s fun s => (s.landS 0 d (word (s.me.pc + 16)) 1).transfer (s.me.relative 17 o)

/-- `bra` (R164). -/
def execBra (g d a x : Nat) (s : State) : Out :=
  run g s fun s => (s.landS 0 (s.me.a.bS x d) (word (s.me.pc + 16)) 1).transfer (regTarget (s.sReg x a))

/-- `ret` (R164). -/
def execRet (g a x : Nat) (s : State) : Out := run g s fun s => s.transfer (regTarget (s.sReg x a))

/-! ### Loops -/

/-- `lp.beg` (R166) with the body length less one and the count. -/
def loopBegin (l n : Nat) (s : State) : Except Trap State :=
  if 6 ≤ s.me.a.loops.length then .error (s.trapHere 0 0x0F 1)
  else if n = 0 then .ok (s.transfer (s.me.pc + 16 * (l + 2)))
  else .ok (s.updArch fun x => { x with
    loops := { count := n, index := 0, start := (s.me.pc + 16) % 2 ^ 32, last := (s.me.pc + 16 * (l + 1)) % 2 ^ 32 } :: x.loops })

/-- `lp.beg` with a register count, at most 2^32 - 1 (R166); the register is never based. -/
def execLpBegReg (g l a : Nat) (s : State) : Out :=
  tryRun g s fun s => loopBegin l (min (s.me.a.rS a).toNat (2 ^ 32 - 1)) s

/-- `lp.beg` with an immediate count (R166). -/
def execLpBegImm (g l c : Nat) (s : State) : Out := tryRun g s fun s => loopBegin l c s

/-- `lp.idx` (R168): the index before the back edge of this bundle. -/
def execLpIdx (g d k : Nat) (s : State) : Out :=
  tryRun g s fun s =>
    if s.me.a.loops.isEmpty then .error (s.trapHere 0 0x0F 2)
    else match s.me.a.loops[k]? with
      | none => .error (s.trapHere 0 0x0F 3)
      | some l => .ok (s.landS 0 d (word l.index) 1)

/-- `lp.brk` (R169): the innermost level is popped and control goes past its end. -/
def execLpBrk (g : Nat) (s : State) : Out :=
  tryRun g s fun s => match s.me.a.loops with
    | [] => .error (s.trapHere 0 0x0F 2)
    | l :: r => .ok ((s.updArch fun x => { x with loops := r }).transfer (l.last + 16))

/-! ### Cross-copies and bases -/

/-- The source of an `xcp`: the register, never the latch (R184). -/
def xcpSource (x : Arch) (b sf a l : Nat) : Word :=
  match sf with
  | 0 => x.rS (x.bS b a)
  | 1 => x.rA (x.bA b a)
  | 2 => word (lane 64 (x.rV (x.bV b a)) l)
  | _ => word (lane 64 (x.rW (x.bW b a)) l)

/-- `xcp` (R170). -/
def execXcp (g f d sf a l x : Nat) (s : State) : Out :=
  run g s fun s =>
    if f = 1 then s.landA 0 (s.me.a.bA x d) (xcpSource s.me.a x sf a l) 2
    else s.landS 0 (s.me.a.bS x d) (xcpSource s.me.a x sf a l) 2

/-- An index base by its code. -/
def Arch.base (x : Arch) : Nat → Nat
  | 0 => x.xbS
  | 1 => x.xbA
  | 2 => x.xbV
  | _ => x.xbW

/-- `xbase` (R171). -/
def execXbase (g b r m k : Nat) (s : State) : Out :=
  run g s fun s =>
    let v := if r = 1 then (s.me.a.rS k).toNat else k
    let v := if m = 1 then s.me.a.base b + v else v
    s.land 0 .xb b (.base (v % (if b = 3 then 16 else 32))) 2

/-! ### Mode and status -/

/-- `getm` (R172). -/
def execGetm (g d : Nat) (s : State) : Out := run g s fun s => s.landS 0 d s.me.a.nmr 1

/-- The NMR after a masked write (R172, R60). -/
def setNmr (old v : Nat) (mask : Nat) : Nat :=
  let rm := bits v 0 3
  let n := if bitAt mask 0 && 1 ≤ rm && rm ≤ 5 then putBits old 0 3 rm else old
  let n := if bitAt mask 1 then putBits n 3 2 (bits v 3 2) else n
  let n := if bitAt mask 2 then putBits n 5 2 (bits v 5 2) else n
  let n := if bitAt mask 3 then putBits n 7 1 (bits v 7 1) else n
  if bitAt mask 4 then putBits n 8 5 (bits v 8 5) else n

/-- `setm` (R172): the new mode governs from the next bundle; the S slot acts last. -/
def execSetm (g a m : Nat) (s : State) : Out :=
  run g s fun s => s.updArch fun x => { x with nmr := word (setNmr x.nmr.toNat (x.rS a).toNat m) }

/-- The item of `fl.get` (R173); in a DET task the timing items read 0 (R357). -/
def statusItem (s : State) (sel : Nat) : Nat :=
  let x := s.me
  let det := s.isDet s.cur
  match sel with
  | 0 => x.a.fflags.toNat
  | 1 => x.ovf.toNat
  | 2 => if det then 0 else x.stall.toNat
  | 3 => if det then 0 else x.coll.toNat
  | 4 => (if det then 0 else s.cur % 512) + x.gi / 2 % 8 * 2 ^ 16
  | 5 => x.step
  | 6 => if det then 0 else x.wdog.toNat
  | _ => x.a.loops.length

/-- `fl.get` (R173). -/
def execFlGet (g d sel : Nat) (s : State) : Out := run g s fun s => s.landS 0 d (word (statusItem s sel)) 1

/-- `fl.clr` (R174). -/
def execFlClr (g sel m : Nat) (s : State) : Out :=
  run g s fun s => match sel with
    | 0 => s.updMe fun x => x.clearFlags (BitVec.ofNat 7 m)
    | 1 => s.updMe fun x => { x with ovf := 0 }
    | 2 => s.updMe fun x => { x with stall := 0 }
    | _ => s.updMe fun x => { x with coll := 0 }

/-! ### Control -/

/-- S-slot `nop` (R40, R175). -/
def execNopS (_g : Nat) (s : State) : Out := .next s

/-- `yield` (R175, R154): its bundle passes a progress point and the context is held for the next clock cycle,
whatever the guard says, because both belong to the bundle. -/
def execYield (_g : Nat) (s : State) : Out := .next (s.updMe fun x => { x with wdog := 0, yieldHold := true })

/-- A trap of kind C under its guard (R177): the bundle's slots have acted; commit, restart PC past the bundle, park. -/
def commitTrap (g cause code : Nat) (s : State) : Out :=
  run g s fun s =>
    let n := (s.me.endSlots).advance
    takeCommitTrap (s.trapHere 0 cause code) n.1 (s.setCtx s.cur n.2)

/-- `trap` (R177). -/
def execTrap (g c : Nat) (s : State) : Out := commitTrap g 0x0B c s

/-- `sysc` (R177). -/
def execSysc (g c : Nat) (s : State) : Out := commitTrap g 0x0C c s

/-- `brk` (R177). -/
def execBrk (g c : Nat) (s : State) : Out := commitTrap g 0x0D c s

/-- Every context of the step has exited: the step exit goes to the board under R93 (R178, R95); as an access on the task path
it waits for what an `xf` of each context makes its task accesses wait for (R87). -/
def State.stepExit (s : State) (task step : Nat) : State :=
  match s.findStep task step with
  | none => s
  | some k =>
    if k.nums.all fun d => k.exited.contains d then
      { s.updStep task step (fun k => { k with exiting := true }) with
        stageQ := s.stageQ ++ [{
          gi := s.me.gi, seq := s.me.opSeq, task := task, step := step, kind := .exit, n := 0,
          waits := k.nums.map fun d => (d, (s.ctx d).opSeq)
          fences := k.nums.flatMap fun d => ((s.ctx d).a.fencesFor 4).map fun f => (d, f) }] }
    else s

/-- The bag open at the start of the issue cycle. -/
def Ctx.bagAtIssue (x : Ctx) : Option Bag := if x.inIssue then x.bagWas else x.a.bag

/-- `exit` (R178, R285, R290). -/
def execExit (g : Nat) (s : State) : Out :=
  tryRun g s fun s =>
    if s.me.bagAtIssue.isSome then .error (s.trapHere 0 0x10 3)
    else
      let s1 := s.updMe Ctx.endSlots
      let s2 := s1.mark s1.cur s1.me.pc
      let s3 := s2.updMe fun x => { x with
        a := { x.a with pend := [], ranges := [], bag := none }, cond := .exited, inIssue := false }
      let x := s3.me
      let s4 := s3.updStep x.task x.step fun k => { k with
        exited := k.exited ++ [s3.cur], fflags := k.fflags ||| x.a.fflags }
      .ok (s4.stepExit x.task x.step)

/-! ### TID entries -/

/-- The physical entry a TID number names (R281): with one context per tile, context k's tN is entry 32k + N. -/
def State.physTid (s : State) (t : Nat) : Option Nat :=
  let two := (s.taskOf s.cur).any fun k => bitAt (opbField 42 1 k.opb) 3
  if two then some t else if t < 32 then some (32 * (s.cur % 2) + t) else none

/-- The entry a TID number names, as it stands. -/
def State.tidEntry (s : State) (t : Nat) : Option TidEntry :=
  (s.physTid t).map fun n => vget (s.tile (tileOf s.cur)).tids n

def TidEntry.nat (e : TidEntry) : Nat := e.img.toNat
def TidEntry.fmt (e : TidEntry) : Nat := bits e.nat 61 3
def TidEntry.bs (e : TidEntry) : Bool := bitAt e.nat 60
def TidEntry.mode (e : TidEntry) : Nat := bits e.nat 58 2
def TidEntry.va (e : TidEntry) : Nat := bits e.nat 0 56
def TidEntry.stride (e : TidEntry) : Nat := bits e.nat 84 20
def TidEntry.rows (e : TidEntry) : Nat := bits e.nat 104 24
def TidEntry.vb (e : TidEntry) : Nat := bits e.nat 128 56
def TidEntry.rowsB (e : TidEntry) : Nat := bits e.nat 208 24
def TidEntry.modulus (e : TidEntry) : Nat := bits e.nat 232 24

/-- The matrix-trap detail of a bad entry image (R310, items 2 and 3); 0 when it is good. -/
def tidBad (x : Nat) : Nat :=
  let e : TidEntry := { img := BitVec.ofNat 256 x }
  if bits x 184 24 != 0 || bits x 64 20 != 0 || bits x 56 2 != 0 || e.mode == 3 || e.stride % 8 != 0 ||
      e.va % 8 != 0 || e.vb % 8 != 0 || (e.fmt == 7 && x != 7 * 2 ^ 61) then 8
  else if (e.bs && e.fmt < 2) || (e.mode == 2 && (e.modulus == 0 || e.rowsB < e.modulus)) then 7
  else 0

/-- The four s-registers of `tid.set` (R310). -/
def State.tidImage (s : State) (x a : Nat) : Nat :=
  let n := s.me.a.bS x a
  (upTo 4).foldl (fun v k => v + (s.me.a.rS ((n + k) % 32)).toNat * 2 ^ (64 * k)) 0

/-- Write a TID entry, remembering the entry before for rollback (R281). -/
def State.putTid (s : State) (n : Nat) (e : TidEntry) : State :=
  let old := vget (s.tile (tileOf s.cur)).tids n
  (s.updTile (tileOf s.cur) fun t => { t with tids := vput t.tids n e }).updMe fun x =>
    { x with tidUndo := (n, old) :: x.tidUndo }

/-- `tid.set` (R310). -/
def execTidSet (g t a x : Nat) (s : State) : Out :=
  tryRun g s fun s => match s.physTid t with
    | none => .error (s.trapHere 0 0x10 0x0A)
    | some n =>
      let v := s.tidImage x a
      if tidBad v = 0 then
        .ok (s.putTid n { vget (s.tile (tileOf s.cur)).tids n with img := BitVec.ofNat 256 v })
      else .error (s.trapHere 0 0x10 (tidBad v))

/-- `tid.get` (R311). -/
def execTidGet (g t d x w : Nat) (s : State) : Out :=
  tryRun g s fun s => match s.tidEntry t with
    | none => .error (s.trapHere 0 0x10 0x0A)
    | some e => .ok (s.landS 0 (s.me.a.bS x d) (word (bits e.nat (64 * w) 64)) 1)

end Sys2Proof.Machine
end

