-- ==== Sys2Proof/Machine/Matrix.lean ====
section
/-! DEFINITION. Matrix instructions at issue (R308, R312 to R322): descriptors, checks in their order, what changes at
issue, and the operation put into the array hold. The engine is in MatrixEngine. -/

namespace Sys2Proof.Machine

/-! ### Geometry (R278, R282) -/

/-- K of a format. -/
def fmtK : Nat → Nat
  | 0 => 32
  | 1 => 64
  | 2 | 3 | 6 => 256
  | _ => 512

/-- N of a format. -/
def fmtN : Nat → Nat
  | 0 => 32
  | 1 => 64
  | _ => 128

/-- Bits of an element. -/
def fmtBits : Nat → Nat
  | 0 => 64
  | 1 => 32
  | 2 | 3 => 16
  | 4 | 5 => 8
  | _ => 4

/-- Bytes of `n` elements with their scale indices (R282). -/
def elemBytes (e : TidEntry) (n : Nat) : Nat := n * fmtBits e.fmt / 8 + (if e.bs then n / 64 else 0)

/-- Bytes of a stationary tile with its scale indices (R278, R282). -/
def tileBytes (e : TidEntry) : Nat := elemBytes e (fmtK e.fmt * fmtN e.fmt)

/-- Elements of a row in a mode (R278, R284). -/
def rowElems (mode seg fmt : Nat) : Nat := if mode = 2 then fmtN fmt * seg else fmtK fmt

/-- Row bytes of a bag (R316). -/
def rowBytes (b : Bag) : Nat := elemBytes b.ent (rowElems b.mode b.seg b.ent.fmt)

/-- Entries per tag (R284). -/
def perTag (mode seg fmt : Nat) : Nat :=
  match mode with
  | 0 => fmtN fmt
  | 2 => fmtN fmt * seg
  | _ => 0

/-! ### Traps and well sides -/

/-- The matrix trap (R305). -/
def State.matTrap (s : State) (detail : Nat) : Trap := s.trapHere 3 0x10 detail

/-- A well side of an array operation (R308): one allocation, alignment, and the sets of its path in a DET task. -/
def State.side (s : State) (path : Nat) (wr : Bool) (lsa n al : Nat) : Except Trap Nat :=
  match s.resolve s.cur lsa n al with
  | none => .error (s.trapHere 3 3 lsa)
  | some p => if s.inSets s.cur path wr lsa n then .ok p else .error (s.trapHere 3 4 (setDetail path lsa))

/-- A list of a feed, which an empty one does not touch. A misaligned one takes the bounds trap (log 146, DESIGN CHOICE). -/
def State.listSide (s : State) (count lsa n al : Nat) : Except Trap Nat :=
  if count = 0 then .ok 0 else match s.resolve s.cur lsa n al with
    | none => .error (s.trapHere 3 3 lsa)
    | some p => .ok p

/-- The sets check of a list (R316, item 4). -/
def State.listSets (s : State) (path count lsa n : Nat) : Except Trap Unit :=
  if count = 0 || s.inSets s.cur path false lsa n then .ok () else .error (s.trapHere 3 4 (setDetail path lsa))

/-- A TID of the bundle that is set (R281, R305). -/
def State.needTid (s : State) (t : Nat) : Except Trap TidEntry :=
  match s.tidEntry t with
  | none => .error (s.matTrap 0x0A)
  | some e => if e.fmt = 7 then .error (s.matTrap 7) else .ok e

/-- Issue an array operation: hold it, under its guard. -/
def arrayOp (g : Nat) (s : State) (f : State → Except Trap State) : Out := tryRun g s f

/-! ### Tiles, codebooks, scale tables (R312, R313) -/

/-- `mld` (R312). -/
def execMld (g t a x o : Nat) (s : State) : Out :=
  arrayOp g s fun s => do
    let e ← s.needTid t
    let lsa := ea (s.aReg x a) (s.me.simm 3 8 o) 256
    let p ← s.side 3 false lsa (tileBytes e) 1
    .ok ((s.updArch fun y => { y with slotTid := some (t, e.img) }).holdAdd (.mld t e p (tileBytes e)) 3)

/-- `mcb` (R313). -/
def execMcb (g t a x : Nat) (s : State) : Out :=
  arrayOp g s fun s => match s.physTid t with
    | none => .error (s.matTrap 0x0A)
    | some n => do
      let p ← s.side 3 false (lsaOf (s.aReg x a)) 32 32
      .ok (s.holdAdd (.mcb n t p) 3)

/-- `msc` (R313). -/
def execMsc (g a x : Nat) (s : State) : Out :=
  arrayOp g s fun s => do
    let p ← s.side 3 false (lsaOf (s.aReg x a)) 64 64
    .ok (s.holdAdd (.msc p) 3)

/-! ### `bag.open` (R314, R315) -/

/-- Ranges share an entry. -/
def SumpRange.meets (r : SumpRange) (first len : Nat) : Bool := r.first < first + len && first < r.first + r.len

/-- Ranges a context is releasing: drains and clears with FREE not yet complete (R290). -/
def Ctx.releasing (x : Ctx) : List SumpRange :=
  (x.hold ++ x.mx ++ x.latching).filterMap fun o => match o.kind with
    | .drain d => if d.free then some { first := d.first, len := d.len, e := d.e } else none
    | .clr f l true => some { first := f, len := l, e := 0 }
    | _ => none

/-- The range checks of R289: claimed (true) or continued, or the trap detail. -/
def claimRange (s : State) (base len : Nat) (e : Int) : Except Nat Bool :=
  let mine := s.me.a.ranges
  if 16384 < base + len then .error 5
  else match mine.find? fun r => r.first == base && r.len == len with
    | some r => if r.e == e then .ok false else .error 6
    | none =>
      let other := s.ctx (otherCtx s.cur)
      if 8 ≤ mine.length then .error 9
      else if (mine ++ other.a.ranges ++ other.releasing).any fun r => r.meets base len then .error 4
      else .ok true

/-- The bag a descriptor pair names (R314). -/
def bagOf (s : State) (x0 x1 : Nat) (e : Int) (ent : TidEntry) (rep : Nat) : Bag :=
  let mode := bits x0 62 2
  let seg := bits x0 53 3 + 1
  { id := s.me.opSeq, mode := mode, tid := bits x0 56 6, ent := ent, seg := seg, pol := bits x0 52 1, ot := bits x0 48 4
    flag := bits x0 43 5, vn := if bitAt x0 42 then some (bits x0 37 5) else none
    wn := if bitAt x0 36 then some (bits x0 32 4) else none, base := bits x0 11 14, count := bits x0 0 11 + 1
    exp := bits x1 32 32, rep := rep, e := e, w := perTag mode seg ent.fmt, nmr := s.me.a.nmr, pc := s.me.pc }

/-- Item 2 of R315. -/
def bagFieldsBad (x0 x1 : Nat) (e : Int) : Bool :=
  let mode := bits x0 62 2
  mode == 3 || bits x0 25 7 != 0 || bits x1 24 8 != 0 || (mode != 2 && bits x0 53 3 != 0) ||
  (mode != 1 && bits x0 48 4 != 0) || (mode == 1 && (bits x0 48 4 == 6 || bits x0 48 4 == 7 || bits x0 11 14 != 0)) ||
  1024 < bits x0 0 11 + 1 || e < -2048 || 2047 < e

/-- The slot fits a bag's TID, or the trap detail (R315, item 4; R316, item 3). FMT and BS of the slot are those of the TID entry that its
tile was loaded under, whatever `tid.set` has written since (log 153, DEDUCED). -/
def slotCheck (a : Arch) (mode : Nat) (e : TidEntry) : Option Nat :=
  if mode = 2 then none
  else match a.slotTid with
    | none => some 0x0B
    | some (_, img) =>
      let k : TidEntry := { img := img }
      if k.fmt != e.fmt || k.bs != e.bs then some 7 else none

/-- Bytes of the bag report (R301, R315). -/
def reportBytes (b : Bag) : Nat := 704 + (b.count * b.w + 1) / 2

/-- `bag.open` (R315). -/
def execBagOpen (g c x e : Nat) (s : State) : Out :=
  arrayOp g s fun s => do
    let n := s.me.a.bA x c
    let x0 := (s.me.a.rA n).toNat
    let x1 := (s.me.a.rA (n + 1)).toNat
    let e := s.me.simm 3 14 e
    if s.me.a.bag.isSome then .error (s.matTrap 1)
    if bagFieldsBad x0 x1 e then .error (s.matTrap 8)
    let ent ← s.needTid (bits x0 56 6)
    let b := bagOf s x0 x1 e ent 0
    if 16384 < b.count * b.w then .error (s.matTrap 8)
    match slotCheck s.me.a b.mode ent with
    | some d => .error (s.matTrap d)
    | none => do
      let p ← s.side 3 true (bits x1 0 24) (reportBytes b) 8
      let b := { b with rep := p }
      if b.mode = 1 then .ok ((s.updArch fun y => { y with bag := some b }).holdAdd (.opn b false) 3)
      else match claimRange s b.base (b.count * b.w) e with
        | .error d => .error (s.matTrap d)
        | .ok claim => .ok ((s.updArch fun y => { y with
            bag := some b
            ranges := if claim then y.ranges ++ [{ first := b.base, len := b.count * b.w, e := e }] else y.ranges }).holdAdd
              (.opn b claim) 3)

/-! ### Feeds (R316 to R318) -/

/-- Bytes of an SRA weight (R280). -/
def weightBytes (fmt : Nat) : Nat := if fmt = 0 then 8 else 4

/-- The checks common to both feeds (R316), items 1 to 3. -/
def feedStart (s : State) (resv : Bool) (x1 : Nat) : Except Trap Bag :=
  match s.me.a.bag with
  | none => .error (s.matTrap 2)
  | some b =>
    if 255 ≤ b.feeds then .error (s.matTrap 8)
    else if resv || bits x1 48 16 != 0 || (b.mode != 2 && bits x1 0 24 != 0) then .error (s.matTrap 8)
    else match slotCheck s.me.a b.mode b.ent with
      | some d => .error (s.matTrap d)
      | none => .ok b

/-- The lists of a feed (R316, item 4): places of the index, tag and weight lists. `isz` 0: no index list. -/
def feedLists (s : State) (b : Bag) (path n isz x0 x1 : Nat) : Except Trap (Nat × Nat × Nat) := do
  let tags := bits x1 24 24
  let wgts := bits x1 0 24
  let wb := weightBytes b.ent.fmt
  let i ← (if isz = 0 then .ok 0 else s.listSide n (bits x0 0 24) (n * isz) isz)
  let t ← s.listSide n tags (2 * n) 2
  let w ← (if b.mode = 2 then s.listSide n wgts (n * wb) wb else .ok 0)
  (if isz = 0 then .ok () else s.listSets path n (bits x0 0 24) (n * isz))
  s.listSets path n tags (2 * n)
  (if b.mode = 2 then s.listSets path n wgts (n * wb) else .ok ())
  .ok (i, t, w)

/-- Hold a feed of the open bag: one feed more, its handle remembered. -/
def State.holdFeed (s : State) (f : Feed) (path : Nat) : State :=
  (s.updArch fun y => { y with bag := y.bag.map fun b => { b with
    feeds := b.feeds + 1
    qs := match f.q with
      | some q => q :: b.qs
      | none => b.qs } }).holdAdd (.feed f) path

/-- The handle checks of a queue feed (R317): the bounds fault, or detail 0x08. -/
def queueFeed (s : State) (b : Bag) (q n stg stride : Nat) : Except Trap Unit :=
  let h := s.handle q
  if h.role != 2 || (h.arr && !b.qs.contains q) then .error (s.trapHere 3 3 h.base)
  else if stg * h.slotBytes % stride != 0 || n % (stg * h.slotBytes / stride) != 0 then .error (s.matTrap 8)
  else .ok ()

/-- Bytes of a ring that queue feeds before the next one are still to read (R317). -/
def Ctx.queueAhead (x : Ctx) (q : Nat) : Nat :=
  let bytes := fun (f : Feed) => if f.q == some q then f.n * f.stride else 0
  let h := vget x.a.qs q
  ((x.mx ++ x.hold).foldl (fun n o => match o.kind with
    | .feed f => n + bytes f
    | _ => n) 0) +
  x.bagRun.elim 0 fun b => b.feeds.foldl (fun n f => n + (bytes f.f - (if f.f.q == some q then f.stage * f.f.stg * h.slotBytes else 0))) 0

/-- The addresses of `n` bytes of a ring from byte `o` past its base: one range, or two across its end. -/
def QBind.ringParts (h : QBind) (o n : Nat) : List (Nat × Nat) :=
  let size := h.nsl * h.slotBytes
  let o := o % size
  if o + n ≤ size then [(h.base + o, n)] else [(h.base + o, size - o), (h.base, o + n - size)]

/-- The sets check of a queue feed's rows (R99, R308). -/
def queueSets (s : State) (q n stride bytes : Nat) : Except Trap Unit :=
  let h := s.handle q
  let start := h.ptr * h.slotBytes + s.me.queueAhead q
  match ((upTo n).flatMap fun p => h.ringParts (start + p * stride) bytes).find? fun e => !s.inSets s.cur 3 false e.1 e.2 with
  | some e => .error (s.trapHere 3 4 (setDetail 3 e.1))
  | none => .ok ()

/-- `bag.rows` (R317). STG and the LSA of row 0 that do not go with Q take detail 0x08 among item 2 of R316 (log 145, DEDUCED). Without a
queue the set check (R99) is of the whole range from the first row to the last, the gaps between strided rows among it (log 129). -/
def execBagRows (g c x q n : Nat) (s : State) : Out :=
  arrayOp g s fun s => do
    let r := s.me.a.bA x c
    let x0 := (s.me.a.rA r).toNat
    let x1 := (s.me.a.rA (r + 1)).toNat
    let cnt := bits x0 48 16
    let stg := bits x0 40 8
    let stride := bits x0 24 16
    let resv := stride % 8 != 0 || (if q = 1 then stg == 0 || bits x0 0 24 != 0 else stg != 0)
    let b ← feedStart s resv x1
    let l ← feedLists s b 3 cnt 0 x0 x1
    if stride < rowBytes b then .error (s.matTrap 8)
    let f : Feed := {
      pump := false, num := b.feeds, n := cnt, stride := stride, rows := 0, q := none, stg := stg, idx := 0, wide := false
      tags := l.2.1, wgts := l.2.2, tid := b.tid, ent := b.ent }
    if q = 1 then do
      queueFeed s b n cnt stg stride
      queueSets s n cnt stride (rowBytes b)
      .ok (s.holdFeed { f with q := some n } 3)
    else if cnt = 0 then .ok (s.holdFeed f 3)
    else do
      let p ← s.side 3 false (bits x0 0 24) ((cnt - 1) * stride + rowBytes b) 1
      .ok (s.holdFeed { f with rows := p } 3)

/-- `bag.pump` (R318): `c.pump` rises, one array-hold entry and one gate entry. -/
def execBagPump (g c x : Nat) (s : State) : Out :=
  arrayOp g s fun s => do
    let r := s.me.a.bA x c
    let x0 := (s.me.a.rA r).toNat
    let x1 := (s.me.a.rA (r + 1)).toNat
    let cnt := bits x0 48 16
    let isz := if bitAt x0 41 then 8 else 4
    let b ← feedStart s (bits x0 24 17 != 0) x1
    let l ← feedLists s b 2 cnt isz x0 x1
    match s.tidEntry (bits x0 42 6) with
    | none => .error (s.matTrap 0x0A)
    | some e =>
      if e.fmt = 7 || e.rows = 0 || e.fmt != b.ent.fmt || e.bs != b.ent.bs then .error (s.matTrap 7)
      else if e.stride < rowBytes b then .error (s.matTrap 8)
      else
        let f : Feed := {
          pump := true, num := b.feeds, n := cnt, stride := e.stride, rows := 0, q := none, stg := 0, idx := l.1
          wide := isz == 8, tags := l.2.1, wgts := l.2.2, tid := bits x0 42 6, ent := e }
        let s1 := s.updMe fun y => { y with cPump := y.cPump + BitVec.ofNat 32 cnt }
        .ok ((s1.gateAdd (.pump s1.me.opSeq)).holdFeed f 2)

/-! ### `bag.close`, `bag.rep` (R319, R320) -/

/-- `bag.close` (R319). -/
def execBagClose (g : Nat) (s : State) : Out :=
  arrayOp g s fun s =>
    if s.me.a.bag.isNone then .error (s.matTrap 2)
    else .ok ((s.holdAdd .close 3).updArch fun y => { y with bag := none })

/-- `bag.rep` (R320). -/
def execBagRep (g a x : Nat) (s : State) : Out :=
  arrayOp g s fun s => do
    if s.me.a.bag.isNone then .error (s.matTrap 2)
    let p ← s.side 3 true (lsaOf (s.aReg x a)) 16 8
    .ok (s.holdAdd (.rep p) 3)

/-! ### `sump.dr`, `sump.clr` (R321, R322) -/

/-- The range of the bag open now. -/
def Bag.inside (b : Bag) (first len : Nat) : Bool := b.mode != 1 && b.base ≤ first && first + len ≤ b.base + b.count * b.w

/-- Item 2 of R321: the table's range, which with FREE is the named one. -/
def tableRange (s : State) (first len : Nat) (free : Bool) : Except Trap SumpRange :=
  match s.me.a.ranges.find? fun r => r.first ≤ first && first + len ≤ r.first + r.len with
  | none => .error (s.matTrap 4)
  | some r =>
    if s.me.a.bag.any (fun b => b.inside first len) || (free && (r.first != first || r.len != len)) then
      .error (s.matTrap 4)
    else .ok r

/-- FREE removes the range at issue (R290). -/
def Arch.freeRange (x : Arch) (free : Bool) (first len : Nat) : Arch :=
  if free then { x with ranges := x.ranges.filter fun r => !(r.first == first && r.len == len) } else x

/-- Bytes of a drained element: 40 for the exact-transport type (R74, R321). -/
def drainBytes (t : Nat) : Nat := if t = 6 then 40 else (ETy.ofCode t).width / 8

/-- `sump.dr` (R321). -/
def execSumpDr (g c x t r f dst : Nat) (s : State) : Out :=
  arrayOp g s fun s => do
    let x0 := (s.aReg x c).toNat
    let first := bits x0 50 14
    let len := bits x0 35 15
    let group := bits x0 24 11
    let lsa := bits x0 0 24
    let well := dst % 2 == 1
    let sz := drainBytes t
    if len = 0 || 16384 < len || group = 0 || 1024 < group || len % group != 0 || (2 ≤ dst && 256 < group * sz) ||
        (t == 6 && (dst != 1 || r != 0)) || (!well && lsa != 0) then .error (s.matTrap 8)
    let range ← tableRange s first len (f == 1)
    let p ← (if well then s.side 3 true lsa (len * sz) (if t = 6 then 8 else sz) else .ok 0)
    let s1 := s.updMe fun y => { y with cDrn := y.cDrn + 1, a := y.a.freeRange (f == 1) first len }
    .ok (s1.holdAdd (.drain {
      first := first, len := len, group := group, out := p, ty := t, rm := r, free := f == 1, dst := dst, e := range.e
      nmr := s.me.a.nmr }) 3)

/-- `sump.clr` (R322): with FC, WX and WO go at the end of the issue cycle. -/
def execSumpClr (g fc c x f : Nat) (s : State) : Out :=
  arrayOp g s fun s => do
    let x0 := (s.aReg x c).toNat
    let first := bits x0 50 14
    let len := bits x0 35 15
    if len = 0 || 16384 < len || bits x0 0 35 != 0 then .error (s.matTrap 8)
    let _ ← tableRange s first len (f == 1)
    let s1 := (s.updArch fun y => y.freeRange (f == 1) first len).holdAdd (.clr first len (f == 1)) 3
    .ok (if fc = 1 then s1.atEnd (.clear (fWX ||| fWO)) else s1)

end Sys2Proof.Machine
end

