-- ==== Sys2Proof/Machine/Window.lean ====
section
/-! DEFINITION. The exact window: products (R69), `win_add` (R70), `win_drain` (R71), and the exact-transport element
with `xt_add` (R74, R258). -/

namespace Sys2Proof.Machine

/-- An operand with its block scale, exactly (R57); 0 × ∞ is an invalid NaN (DEDUCED: ordinary multiplication, log 42). -/
def scaled (x : FVal) (scale : Option FVal) : FVal :=
  match scale with
  | none => x
  | some k =>
    if x.isNan || k.isNan then .nan (x.isSig || k.isSig)
    else if (x.isZero && k.isInf) || (x.isInf && k.isZero) then .nan true
    else mulVal x k

/-- `prod(a, b)`: a NaN marked true is invalid (R69). -/
def prod (a b : FVal) : FVal :=
  if a.isNan || b.isNan then .nan (a.isSig || b.isSig)
  else if (a.isInf && b.isZero) || (a.isZero && b.isInf) then .nan true
  else mulVal a b

/-- ±m·2^k divided by 2^e and floored, and whether that dropped bits. -/
def floorShift (neg : Bool) (m : Nat) (k e : Int) : Int × Bool :=
  if e ≤ k then
    let v : Int := ((m * 2 ^ (k - e).toNat : Nat) : Int)
    (if neg then -v else v, false)
  else
    let d : Int := ((2 ^ (e - k).toNat : Nat) : Int)
    let v : Int := if neg then -(m : Int) else m
    (v / d, v % d != 0)

/-- `win_add` (R70) under the base exponent e. -/
def winAdd (e : Int) (E : WinEntry) (x : FVal) : WinEntry :=
  let E := if E.cnt = BitVec.allOnes 32 then { E with wo := true } else { E with cnt := E.cnt + 1 }
  match x with
  | .nan inv => { E with cls := 3, nvi := E.nvi || inv }
  | .inf neg =>
    if E.cls = (if neg then 1 else 2) then { E with cls := 3, nvi := true }
    else if E.cls = 0 then { E with cls := if neg then 2 else 1 }
    else E
  | .fin neg m k =>
    let q := floorShift neg m k e
    { E with
      wo := E.wo || (m != 0 && e + 223 ≤ k + bitLen m - 1)
      wx := E.wx || q.2
      i := E.i + BitVec.ofInt 256 q.1 }

/-- A product reaches an entry: `win_add` (R70), and the order of arrival changes no bit (R73, R101, R112): whatever came between, the
entry holds what R70 gives for the products met so far with their infinities in front (log 100, DEDUCED). -/
def winPut (e : Int) (E : WinEntry) (x : FVal) : WinEntry :=
  let F := winAdd e E x
  let p := E.metInf false || x == .inf false
  let n := E.metInf true || x == .inf true
  { F with nvi := F.nvi || (p && n), posInf := p, negInf := n }

/-- `win_drain` (R71) to a type: the pattern and the flags. -/
def winDrain (v : FEnv) (e : Int) (E : WinEntry) (t : ETy) (rm : RMode) : Nat × FFlags :=
  if E.wo then
    (match t with
      | .flt f => f.cnan
      | .int _ _ => 0, fWO ||| fNV)
  else
    let f0 : FFlags := if E.wx then fWX ||| fNX else 0
    let r : Nat × FFlags :=
      if E.cls = 3 then
        match t with
        | .flt f => (f.cnan, if E.nvi then fNV else 0)
        | .int sg z => ((cvtInt sg (2 ^ (z + 3)) (.nan false) rm).1, if E.nvi then fNV ||| fNV else fNV)
      else if E.cls = 1 || E.cls = 2 then
        match t with
        | .flt f => infTo v f (E.cls = 2)
        | .int sg z => cvtInt sg (2 ^ (z + 3)) (.inf (E.cls = 2)) rm
      else
        let i := E.i.toInt
        match t with
        | .flt f => if i = 0 then (f.zero false, 0) else roundTo v f ⟨i < 0, i.natAbs, e, false⟩ rm
        | .int sg z => cvtInt sg (2 ^ (z + 3)) (.fin (i < 0) i.natAbs e) rm
    (r.1, f0 ||| r.2)

/-! ### The exact-transport format (R74) -/

/-- An element: its entry and e as a 16-bit pattern; `bad` when a reserved part is not zero or e is out of range. -/
structure XtElem where
  ent : WinEntry
  e : BitVec 16
  bad : Bool
  deriving DecidableEq, Repr, Inhabited

def readXt (x : Nat) : XtElem :=
  let st := bits x 288 8
  let e := BitVec.ofNat 16 (bits x 296 16)
  { ent := {
      i := BitVec.ofNat 256 x, cnt := BitVec.ofNat 32 (bits x 256 32), cls := BitVec.ofNat 2 st, wx := bitAt st 2,
      wo := bitAt st 3, nvi := bitAt st 4 }
    e := e
    bad := bits st 5 3 != 0 || bits x 312 8 != 0 || e.toInt < -2048 || 2047 < e.toInt }

/-- The 40 bytes of an entry under e. -/
def xtNat (E : WinEntry) (e : BitVec 16) : Nat :=
  E.i.toNat + E.cnt.toNat * 2 ^ 256 +
  (E.cls.toNat + 4 * ofBool E.wx + 8 * ofBool E.wo + 16 * ofBool E.nvi) * 2 ^ 288 + e.toNat * 2 ^ 296

/-- `xt_add` (R74), as its pseudocode has it: an element of 40 bytes holds no trace of an infinity that met a NaN (log 100). -/
def xtAdd (A B : WinEntry) : WinEntry :=
  let s := A.cnt.toNat + B.cnt.toNat
  let opp := (A.cls = 1 && B.cls = 2) || (A.cls = 2 && B.cls = 1)
  { i := A.i + B.i
    cnt := BitVec.ofNat 32 (min s (2 ^ 32 - 1))
    wo := A.wo || B.wo || 2 ^ 32 - 1 < s
    wx := A.wx || B.wx
    nvi := A.nvi || B.nvi || opp
    cls := if A.cls = B.cls || B.cls = 0 then A.cls else if A.cls = 0 then B.cls else 3 }

/-- An exact add of two 40-byte elements (R256, R258): the destination's new bytes and whether the pair was bad. A bad
element keeps its other bytes as they stand. -/
def exactAdd (dst src : Nat) : Nat × Bool :=
  let a := readXt dst
  let b := readXt src
  if a.bad || b.bad then (putBits (putBits dst 291 1 1) 292 1 1, true)
  else if a.e ≠ b.e then (xtNat { xtAdd a.ent b.ent with wo := true } a.e, true)
  else (xtNat (xtAdd a.ent b.ent) a.e, false)

/-- Sump access: entries not listed are zero (R68). -/
def sumpGet (l : List (Nat × WinEntry)) (n : Nat) : WinEntry :=
  match l with
  | [] => {}
  | (k, e) :: r => if k = n then e else sumpGet r n

def sumpPut (l : List (Nat × WinEntry)) (n : Nat) (E : WinEntry) : List (Nat × WinEntry) :=
  match l with
  | [] => if E = {} then [] else [(n, E)]
  | (k, e) :: r =>
    if n < k then (if E = {} then (k, e) :: r else (n, E) :: (k, e) :: r)
    else if n = k then (if E = {} then r else (n, E) :: r)
    else (k, e) :: sumpPut r n E

end Sys2Proof.Machine
end

