-- ==== Sys2Proof/Machine/Xlate.lean ====
section
/-! DEFINITION. Address translation: the walk (R244 to R246), TLBs (R247), the revision unit's copy-on-write (R248),
and the task engine's own translations (R14). -/

namespace Sys2Proof.Machine

/-- A leaf found by a walk: the entry, whether it maps 2 MiB, and the place the entry lies at. -/
structure Leaf where
  entry : Nat
  large : Bool
  place : Nat
  deriving DecidableEq, Repr, Inhabited

/-- Entry `i` of the table at a physical address: its place, or cause 0x03 where the table is not the device's own (R244). -/
def entryPlace (s : State) (table i : Nat) : Except Nat Nat :=
  match ownPlace s (table + 8 * i) with
  | some p => .ok p
  | none => .error 3

/-- Reserved bits of any entry (R246). -/
def entryReserved (e : Nat) : Bool :=
  bits e 52 12 != 0 || bits e 6 6 != 0 || (!bitAt e 3 && (bitAt e 4 || bitAt e 5))

/-- One table level on the way down (levels 0 and 1, and level 2 without LF): the next table. -/
def nextTable (s : State) (e : Nat) : Except Nat Nat :=
  if bitAt e 1 || bitAt e 3 || entryReserved e then .error 3
  else match ownPlace s (bits e 12 40 * 2 ^ 12) with
    | some _ => .ok (bits e 12 40 * 2 ^ 12)
    | none => .error 3

/-- The walk from a level-0 table: a leaf, or the cause of R243; 6, the cause of R297, where an entry is uncorrectable (R391, log 32). -/
def walk (s : State) (table va : Nat) : Except Nat Leaf := do
  let p0 ← entryPlace s table (bits va 44 12)
  if s.badIn p0 8 then .error 6
  let e0 := s.readNat p0 8
  if !bitAt e0 0 then .error 1
  let t1 ← nextTable s e0
  let p1 ← entryPlace s t1 (bits va 32 12)
  if s.badIn p1 8 then .error 6
  let e1 := s.readNat p1 8
  if !bitAt e1 0 then .error 1
  let t2 ← nextTable s e1
  let p2 ← entryPlace s t2 (bits va 21 11)
  if s.badIn p2 8 then .error 6
  let e2 := s.readNat p2 8
  if !bitAt e2 0 then .error 1
  if bitAt e2 1 then
    if bitAt e2 3 || entryReserved e2 || bits e2 12 9 != 0 then .error 3
    else .ok { entry := e2, large := true, place := p2 }
  else
    let t3 ← nextTable s e2
    let p3 ← entryPlace s t3 (bits va 16 5)
    if s.badIn p3 8 then .error 6
    let e3 := s.readNat p3 8
    if !bitAt e3 0 then .error 1
    if !bitAt e3 1 || entryReserved e3 || bits e3 12 4 != 0 then .error 3
    if bitAt e3 3 && (ownPlace s (bits e3 16 36 * 2 ^ 16)).isNone then .error 3
    .ok { entry := e3, large := false, place := p3 }

/-- The entries a walk reads from a table on, one for each field of the address: it ends at one that is not present, cannot be read or
leads to no table. -/
def entryReads (s : State) (va : Nat) : List (Nat × Nat) → Nat → List (Nat × Nat)
  | [], _ => []
  | f :: r, table => match entryPlace s table (bits va f.1 f.2) with
    | .error _ => []
    | .ok p => (p, 8) :: match (if s.badIn p 8 || !bitAt (s.readNat p 8) 0 then .error 1 else nextTable s (s.readNat p 8)) with
      | .ok t => entryReads s va r t
      | .error _ => []

/-- The places of the entries a walk reads. -/
def walkReads (s : State) (table va : Nat) : List (Nat × Nat) := entryReads s va [(44, 12), (32, 12), (21, 11), (16, 5)] table

/-- A walk corrects the single-bit errors it meets (R391). -/
def State.correctWalk (s : State) (table va : Nat) : State :=
  if s.softMem.isEmpty then s else s.correctAll (walkReads s table va)

/-- The memory that can be read: what stands in an uncorrectable granule is left out, so that no entry of a table there is followed
(R391). -/
def State.readable (s : State) : State :=
  if s.badMem.isEmpty then s else { s with mem := s.mem.filter fun c => !s.badAt c.1 }

/-- The physical address a leaf entry gives a virtual address. -/
def leafPa (entry : Nat) (large : Bool) (va : Nat) : Nat :=
  if large then bits entry 21 31 * 2 ^ 21 + va % 2 ^ 21 else bits entry 16 36 * 2 ^ 16 + va % 2 ^ 16

/-- The place a leaf gives: a write needs W (cause 0x02); a target must exist (cause 0x04). Of the two, 0x02 is reported first
(log 115). -/
def leafPlace (s : State) (entry : Nat) (large wr : Bool) (va : Nat) : Except Nat Nat :=
  if wr && !bitAt entry 2 then .error 2
  else match physPlace s (leafPa entry large va) with
    | some p => .ok p
    | none => .error 4

/-- The task path reaches device memory and nothing else (R18, R12): a place elsewhere is no target for it (log 99). -/
def onTaskPath (p : Nat) : Except Nat Nat := if zoneOf p == .device then .ok p else .error 4

/-- The task engine's translation: a walk on every use (R14). -/
def taskXlate (s : State) (table va : Nat) (wr : Bool) : Except Nat Nat := do
  let l ← walk s table (va % 2 ^ 56)
  let p ← leafPlace s l.entry l.large wr (va % 2 ^ 56)
  onTaskPath p

/-- A revision by its id. -/
def State.findRev (s : State) (r : Nat) : Option Revision := s.revs.find? fun x => x.id == r

/-- The level-0 table of the revision a context runs in; 0 when none is live. -/
def State.revOf (s : State) (c : Nat) : Revision :=
  ((s.taskOf c).bind fun t => s.findRev t.rev).getD
    { id := 0, table := 0, parent := 0, depth := 0, owner := 0 }

/-- Pieces of a range that no 64 KiB page boundary divides: offset in the range, length, address. Addresses go on from 0 past
2^56 (log 116). -/
def pagePieces (fuel off va n : Nat) : List (Nat × Nat × Nat) :=
  match fuel with
  | 0 => []
  | fuel + 1 =>
    if n = 0 then []
    else
      let k := min n (65536 - va % 65536)
      (off, k, va) :: pagePieces fuel (off + k) ((va + k) % 2 ^ 56) (n - k)

/-- The pieces of `n` bytes at a virtual address, ascending. -/
def piecesOf (off va n : Nat) : List (Nat × Nat × Nat) := pagePieces (n / 65536 + 2) off (va % 2 ^ 56) n

/-- The task engine reads `n` bytes at a virtual address; the cause where a page fails, 6 for uncorrectable data (R391). -/
def taskRead (s : State) (table va n : Nat) : Except Nat (List Byte) :=
  (piecesOf 0 va n).foldl (fun acc p => match acc with
    | .error c => .error c
    | .ok l => match taskXlate s table p.2.2 false with
      | .error c => .error c
      | .ok q => if s.badIn q p.2.1 then .error 6 else .ok (l ++ s.read q p.2.1)) (.ok [])

/-- The walks that translate a range. -/
def State.correctMap (s : State) (table va n : Nat) : State :=
  if s.softMem.isEmpty then s else (piecesOf 0 va n).foldl (fun t p => t.correctWalk table (p.2.2 % 2 ^ 56)) s

/-- The reads of the task engine at a virtual address correct the single-bit errors they meet (R391). -/
def State.correctRead (s : State) (table va n : Nat) : State :=
  if s.softMem.isEmpty then s
  else (piecesOf 0 va n).foldl (fun t p =>
    let u := t.correctWalk table (p.2.2 % 2 ^ 56)
    match taskXlate u table p.2.2 false with
    | .ok q => u.correct q p.2.1
    | .error _ => u) s

/-- Every route to a device is down (R385): its configured links, or all links when none are configured. -/
def State.routesDown (s : State) (d : Nat) : Bool :=
  match s.routes.find? fun r => r.1 == d with
  | some r => r.2.all fun n => 12 ≤ n || (vget s.links n).st == .down
  | none => s.links.toList.all fun l => l.st == .down

/-- A place another device holds that no route reaches: the device is contained, or no route is left (R386). -/
def State.lost (s : State) (p : Nat) : Bool :=
  match zoneOf p with
  | .remote d => s.contained.contains d || s.routesDown d
  | _ => false

/-- A byte of a range is uncorrectable, or lost (R386). -/
def State.unreadable (s : State) (p n : Nat) : Bool := s.badIn p n || s.lost p

/-! ### TLBs -/

/-- A TLB entry maps an address in a revision. -/
def TlbEnt.maps (e : TlbEnt) (rev va : Nat) : Bool :=
  e.rev == rev && e.page == (if e.large then va / 2 ^ 21 else va / 2 ^ 16)

/-- The entry serves without a walk (R247). -/
def TlbEnt.serves (e : TlbEnt) (wr : Bool) : Bool :=
  let n := e.entry.toNat
  if wr then bitAt n 2 && (!bitAt n 3 || (bitAt n 5 && !bitAt n 4)) else bitAt n 0

/-- Put an entry into a TLB of `cap` entries; which one it displaces is free (log 3). -/
def tlbPut (k cap : Nat) (l : List TlbEnt) (e : TlbEnt) : List TlbEnt :=
  let l := l.filter fun x => !(x.rev == e.rev && x.page == e.page && x.large == e.large)
  if l.length < cap then e :: l else e :: l.eraseIdx (Config.freeChoice k % l.length)

/-- The TLB entry that serves the siphon (`pump` false) or the row pump of a context's tile without a walk (R247). -/
def State.tlbHit (s : State) (pump : Bool) (c : Nat) (rev : Revision) (va : Nat) (wr : Bool) : Option TlbEnt :=
  let t := s.tile (tileOf c)
  ((if pump then t.pumpTlb else t.siphonTlb) ++ (s.cis (cisOf c)).tlb2).find? fun e => e.maps rev.id va && e.serves wr

/-- The machine after a translation that fails: where no TLB entry served it, its walk has corrected the single-bit errors it met
(R391). -/
def State.missed (s : State) (pump : Bool) (c : Nat) (rev : Revision) (va : Nat) (wr : Bool) : State :=
  if (s.tlbHit pump c rev va wr).isSome then s else s.correctWalk rev.table va

/-- Translate for the siphon (`pump` false) or the row pump of a context's tile: the place, with the TLBs refilled. -/
def State.xlate (s : State) (pump : Bool) (c : Nat) (rev : Revision) (va : Nat) (wr : Bool) : Except Nat (Nat × State) :=
  match s.tlbHit pump c rev va wr with
  | some e => match leafPlace s e.entry.toNat e.large wr va with
    | .error k => .error k
    | .ok p => .ok (p, s)
  | none => match walk s rev.table va with
    | .error k => .error k
    | .ok l => match leafPlace s l.entry l.large wr va with
      | .error k => .error k
      | .ok p =>
        let e : TlbEnt := { rev := rev.id, page := if l.large then va / 2 ^ 21 else va / 2 ^ 16, large := l.large, entry := word l.entry }
        let s1 := (s.correctWalk rev.table va).updTile (tileOf c) fun t =>
          if pump then { t with pumpTlb := tlbPut s.freeCount 256 t.pumpTlb e }
          else { t with siphonTlb := tlbPut s.freeCount 512 t.siphonTlb e }
        let s2 := s1.updCis (cisOf c) fun u => { u with tlb2 := tlbPut (s.freeCount + 1) 8192 u.tlb2 e }
        .ok (p, { s2 with freeCount := s2.freeCount + 2 })

/-- Invalidate the entries of a revision in every TLB of the device (R247); commands held in gates become stale (R400). -/
def State.invalidate (s : State) (rev : Nat) : State :=
  let inRev := fun (c : Nat) => (s.revOf c).id == rev
  { s with
    tiles := s.tiles.map fun t => { t with
      siphonTlb := t.siphonTlb.filter fun e => e.rev != rev
      pumpTlb := t.pumpTlb.filter fun e => e.rev != rev }
    ciss := s.ciss.map fun u => { u with tlb2 := u.tlb2.filter fun e => e.rev != rev }
    ctxs := s.ctxs.mapIdx fun c x =>
      if x.records.any (fun r => r.st == .held) && inRev c then
        { x with records := x.records.map fun r => if r.st == .held then { r with stale := true } else r }
      else x }

/-! ### The revision unit (R248) -/

/-- Entries of a table by the entries it must be walked below: levels 0, 1, 2 and 3 count 3, 2, 1 and 0 (R244). -/
def tableLen : Nat → Nat
  | 3 => 4096
  | 2 => 4096
  | 1 => 2048
  | _ => 32

/-- Bytes of address space one entry covers. -/
def tableSpan : Nat → Nat
  | 3 => 2 ^ 44
  | 2 => 2 ^ 32
  | 1 => 2 ^ 21
  | _ => 2 ^ 16

/-- The entries of the table at a place that are not zero, ascending: index and value. -/
def tableEntries (s : State) (p rem : Nat) : List (Nat × Nat) :=
  let l := (s.mem.filter fun c => p ≤ c.1 && c.1 < p + 8 * tableLen rem).map fun c => (c.1 - p) / 8
  l.eraseDups.map fun i => (i, s.readNat (p + 8 * i) 8)

/-- An entry that leads to a further table of the device. -/
def subTable (s : State) (rem e : Nat) : Option Nat :=
  if rem = 0 || !bitAt e 0 || (rem == 1 && bitAt e 1) then none else ownPlace s (bits e 12 40 * 2 ^ 12)

/-- A revisioned leaf (R346). -/
def revLeaf (rem e : Nat) : Bool := rem == 0 && bitAt e 0 && bitAt e 1 && bitAt e 3

/-- The revisioned leaves of a table, ascending: 64 KiB page number and frame. -/
def revLeaves (s : State) : Nat → Nat → Nat → List (Nat × Nat)
  | 0, p, va => (tableEntries s p 0).filterMap fun e =>
      if revLeaf 0 e.2 then (ownPlace s (bits e.2 16 36 * 2 ^ 16)).map fun f => (va / 65536 + e.1, f) else none
  | n + 1, p, va => (tableEntries s p (n + 1)).flatMap fun e => match subTable s (n + 1) e.2 with
      | some q => revLeaves s n q (va + e.1 * tableSpan (n + 1))
      | none => []

/-- Every table of a tree, as places. -/
def treeTables (s : State) : Nat → Nat → List Nat
  | 0, p => [p]
  | n + 1, p => p :: (tableEntries s p (n + 1)).flatMap fun e => match subTable s (n + 1) e.2 with
      | some q => treeTables s n q
      | none => []

/-- The frames of the device's own memory a leaf names, revisioned or not: one of a 64 KiB leaf, 32 of a 2 MiB leaf (R244, R246). -/
def leafFrames (s : State) (rem e : Nat) : List Nat :=
  if !bitAt e 0 || !bitAt e 1 then []
  else match rem with
    | 0 => (ownPlace s (bits e 16 36 * 2 ^ 16)).toList
    | 1 => ((ownPlace s (bits e 21 31 * 2 ^ 21)).toList.flatMap fun p => (upTo 32).map fun i => p + 65536 * i)
    | _ => []

/-- The frames the leaves of a tree name. -/
def treeFrames (s : State) : Nat → Nat → List Nat
  | 0, p => (tableEntries s p 0).flatMap fun e => leafFrames s 0 e.2
  | n + 1, p => (tableEntries s p (n + 1)).flatMap fun e => match subTable s (n + 1) e.2 with
      | some q => treeFrames s n q
      | none => leafFrames s (n + 1) e.2

/-- Frames a revision names: those its tables stand in, those its leaves name, and its ancestor map (R347). -/
def Revision.frames (r : Revision) (s : State) : List Nat :=
  match ownPlace s r.table with
  | none => r.anc.map Prod.snd
  | some p => (treeTables s 3 p).map (fun t => t / 65536 * 65536) ++ treeFrames s 3 p ++ r.anc.map Prod.snd

/-- Frames of the reserve that no table and no ancestor map names return to it (R347). -/
def State.reclaim (s : State) : State :=
  let named := s.revs.flatMap fun r => r.frames s
  { s with framesUsed := s.framesUsed.filter fun f => named.contains f }

/-- Places of the free frames of the revision reserve. -/
def State.freeFrames (s : State) : List Nat :=
  match ownPlace s s.mgmt.reserve with
  | none => []
  | some base => ((upTo (s.mgmt.resSize / 65536)).map fun i => base + 65536 * i).filter fun f =>
      !s.framesUsed.contains f

/-- Take a frame of the reserve: which free one is open (log 3). -/
def State.takeFrame (s : State) : Option (Nat × State) :=
  match s.freeFrames with
  | [] => none
  | f :: r =>
    let k := (f :: r).getD (Config.freeChoice s.freeCount % (r.length + 1)) f
    some (k, { s with freeCount := s.freeCount + 1, framesUsed := k :: s.framesUsed })

/-- The bytes a copy holds for an uncorrectable granule of its source: free values (log 114). -/
def lostCells (k dst src n g : Nat) : List Host.Cell :=
  ((upTo (granuleLen g)).filter fun i => src ≤ g + i && g + i < src + n).map fun i =>
    (g + i - src + dst, Config.lostCopy k (g + i))

/-- What an engine that copies a range makes of its uncorrectable granules: no mark goes with the data, whose bytes are free, and
each granule is reported to the log (R391, log 114). `s` stands before the copy and `t` after it. -/
def State.copyLost (t s : State) (dst src n : Nat) : State :=
  (s.badMem.filter (granuleMeets src n)).foldl (fun u g =>
    State.logAt { u.write (lostCells u.freeCount dst src n g) with freeCount := u.freeCount + 1 } g false) t

/-- Copy 64 KiB between frames. -/
def State.copyFrame (s : State) (dst src : Nat) : State :=
  ((s.correct src 65536).fill dst 65536
    ((s.mem.filter fun c => src ≤ c.1 && c.1 < src + 65536).map fun c => (c.1 - src + dst, c.2))).copyLost s dst src 65536

/-- Copy-on-write and dirty marking of one destination page (R248): none when the reserve is empty. A frame of
the reserve that the copy displaces returns to it once nothing names it (R347). Those who ask for it have had the page's walk corrected
(`ownPages`, `mergeNext`; R391). -/
def State.ownPage (s : State) (rev : Revision) (va : Nat) : Option State :=
  match walk s rev.table va with
  | .error _ => some s
  | .ok l =>
    if l.large || !bitAt l.entry 3 then some s
    else if bitAt l.entry 4 then
      match s.takeFrame with
      | none => none
      | some (f, s1) =>
        match ownPlace s (bits l.entry 16 36 * 2 ^ 16) with
        | none => some s
        | some old =>
          let e := (ownPa s f) + l.entry % 2 ^ 16
          let e := putBits (putBits e 4 1 0) 5 1 1
          let t := (s1.copyFrame f old).write (cellsAt l.place (bytesOfNat 8 e))
          some (if t.framesUsed.contains old then t.reclaim else t)
    else some (s.write (cellsAt l.place (bytesOfNat 8 (putBits l.entry 5 1 1))))

end Sys2Proof.Machine
end

