-- ==== Sys2Proof/Machine/MatrixEngine.lean ====
section
/-! DEFINITION. The matrix engine after the commit: operations in issue order (R88, R144), rows (R280, R286), the row
pump (R294 to R299), queue stages (R300), the report (R301, R302), drains and the latch (R291 to R293). -/

namespace Sys2Proof.Machine

/-! ### Operands of rows (R57, R69, R278, R282) -/

/-- Element `i` of `b`-bit elements laid out in bytes. -/
def elemAt (l : List Byte) (b i : Nat) : Nat :=
  if b = 4 then (l.getD (i / 2) 0).toNat / 2 ^ (4 * (i % 2)) % 16
  else natOfBytes ((l.drop (i * (b / 8))).take (b / 8))

/-- Elements of a format decoded, flush-inputs applied; cb4 through a codebook. -/
def decodeElems (v : FEnv) (fmt : Nat) (book : List (BitVec 16)) (n : Nat) (l : List Byte) : List FVal :=
  (upTo n).map fun i =>
    let x := elemAt l (fmtBits fmt) i
    if fmt = 6 then readVal v .bf16 (book.getD x 0).toNat else readVal v (FTy.ofCode fmt) x

/-- The block scale of an index (R57). Its subnormal values are taken as they stand: the flush of SUBN64 is for the operands
that are read as f32 or f64, and no rule counts a scale among them (log 101). -/
def scaleOf (tbl : List (BitVec 32)) (idx : Nat) : FVal := FTy.f32.val (tbl.getD idx 0).toNat

/-- A row's elements, scaled when the entry enables scales. -/
def rowVals (v : FEnv) (e : TidEntry) (book : List (BitVec 16)) (tbl : List (BitVec 32)) (n : Nat) (l : List Byte) : List FVal :=
  let xs := decodeElems v e.fmt book n l
  if e.bs then
    let idx := l.drop (n * fmtBits e.fmt / 8)
    xs.zipIdx.map fun x => scaled x.1 (some (scaleOf tbl (elemAt idx 4 (x.2 / 32))))
  else xs

/-- The stationary tile as K rows of N elements. -/
def tileVals (v : FEnv) (k : StatSlot) (tbl : List (BitVec 32)) : List (List FVal) :=
  let K := fmtK k.ent.fmt
  let N := fmtN k.ent.fmt
  let xs := decodeElems v k.ent.fmt k.ent.book (K * N) k.data
  let idx := k.data.drop (K * N * fmtBits k.ent.fmt / 8)
  (upTo K).map fun i => (upTo N).map fun n =>
    let x := xs.getD (i * N + n) default
    if k.ent.bs then scaled x (some (scaleOf tbl (elemAt (idx.drop (n * (K / 64))) 4 (i / 32)))) else x

/-! ### Rows into the sump or the latch (R280) -/

/-- Add one GEMM row into N entries. -/
def gemmRow (e : Int) (xs : List FVal) (tile : List (List FVal)) (acc : List WinEntry) : List WinEntry :=
  (xs.zip tile).foldl (fun acc p => acc.zipWith (fun E y => winPut e E (prod p.1 y)) p.2) acc

/-- Add one SRA row into its entries. -/
def sraRow (e : Int) (w : FVal) (xs : List FVal) (acc : List WinEntry) : List WinEntry :=
  acc.zipWith (fun E x => winPut e E (prod w x)) xs

/-- Entries of a range. -/
def Tile.entries (t : Tile) (first n : Nat) : List WinEntry := (upTo n).map fun j => sumpGet t.sump (first + j)

/-- The entry an addition into an uncorrectable one leaves: WO and NVI are set, and the rest of it is free (R292, log 14). -/
def spoiled (k : Nat) : WinEntry :=
  let x := Config.lostEntry k
  { i := x.extractLsb' 0 256, cnt := x.extractLsb' 256 32, cls := x.extractLsb' 288 2, wx := x.getLsbD 290, wo := true, nvi := true }

/-- Write entries from `first` after an addition. -/
def Tile.putEntries (t : Tile) (k first : Nat) (l : List WinEntry) : Tile :=
  { t with
    sump := l.zipIdx.foldl (fun m e =>
      sumpPut m (first + e.2) (if t.badSump.contains (first + e.2) then spoiled (k + e.2) else e.1)) t.sump
    badSump := t.badSump.filter fun n => !(first ≤ n && n < first + l.length) }

/-- Clear a range. -/
def Tile.clearRange (t : Tile) (first n : Nat) : Tile :=
  { t with
    sump := t.sump.filter fun e => !(first ≤ e.1 && e.1 < first + n)
    badSump := t.badSump.filter fun k => !(first ≤ k && k < first + n)
    softSump := t.softSump.filter fun k => !(first ≤ k && k < first + n) }

/-- The single-bit errors of entries read or added to are corrected and logged (R292). -/
def State.correctSump (s : State) (t first n : Nat) : State :=
  let u := s.tile t
  let l := u.softSump.filter fun k => first ≤ k && k < first + n
  if l.isEmpty then s
  else State.updCis (s.updTile t fun u => { u with softSump := u.softSump.filter fun k => !(first ≤ k && k < first + n) }) (t / 8)
    fun u => { u with log := l.foldl (fun g k => logPut { place := 4, idx := 16384 * t + k, check := 0, corrected := true, count := 1 } g) u.log }

/-- The side bits of an entry as the window byte of a report shows them (R301). -/
def WinEntry.sideBits (E : WinEntry) : Nat :=
  ofBool E.wx + 2 * ofBool E.wo + 4 * ofBool E.nvi + 8 * ofBool (E.cls != 0)

/-- The codebook a TID number of context c names now (R281, R313). -/
def State.bookOf (s : State) (c t : Nat) : List (BitVec 16) :=
  match ({ s with cur := c }).physTid t with
  | some n => (vget (s.tile (tileOf c)).tids n).book
  | none => []

/-- The stationary slot a row meets; an emptied one holds free bytes (R306). -/
def State.slotOf (s : State) (c : Nat) (b : Bag) : StatSlot :=
  ((s.ctx c).statSlot).getD {
    tid := b.tid, ent := b.ent, data := (upTo (tileBytes b.ent)).map (Config.emptyTile s.freeCount) }

/-- Change the bag at the engine of a context. -/
def State.updBag (s : State) (c : Nat) (f : RunBag → RunBag) : State :=
  s.updCtx c fun x => { x with bagRun := x.bagRun.map f }

/-! ### Fates (R286) -/

/-- An entry of a begun feed. -/
def RunBag.entry (b : RunBag) (n p : Nat) : Option RowEnt := (b.feeds[n]?).bind fun f => f.rows[p]?

/-- Give an entry a fate, with the counts of the report. -/
def RunBag.settle (b : RunBag) (n p : Nat) (fate : Fate) : RunBag :=
  match b.entry n p with
  | none => b
  | some r =>
    let b1 := { b with feeds := mapAt n (fun f => { f with rows := mapAt p (fun r => { r with fate := fate }) f.rows }) b.feeds }
    let arr := fun (b : RunBag) => { b with
      arrived := b.arrived + 1, cover := b.cover ||| 2 ^ r.tag, retried := b.retried + ofBool r.retried }
    match fate with
    | .arrived => arr b1
    | .replayed => { arr b1 with replayed := b1.replayed + 1 }
    | .dropped => { b1 with dropped := b1.dropped + 1 }
    | .faulted k => { b1 with faulted := b1.faulted + 1, full := b1.full + ofBool (k == 7) }
    | _ => b1

/-- Settle an entry of a context: a pump entry leaves `c.pump` (R85). -/
def State.settle (s : State) (c n p : Nat) (fate : Fate) : State :=
  s.updCtx c fun x =>
    let pump := x.bagRun.any fun b => (b.feeds[n]?).any fun f => f.f.pump
    { x with
      bagRun := x.bagRun.map fun b => b.settle n p fate
      cPump := if pump && fate.settled then minusSat x.cPump 1 else x.cPump }

/-- The row-progress register: the four fields are those of the feed begun last (R298). -/
def RunBag.progress (b : RunBag) : Option Nat :=
  b.feeds.getLast?.map fun f =>
    let parked := f.rows.filter fun r => r.fate == .parked
    let flt := f.rows.filter fun r => match r.fate with
      | .faulted _ => true
      | _ => false
    let set := f.rows.filter fun r => r.fate.settled
    f.rows.length % 65536 + set.length % 65536 * 2 ^ 16 + flt.length % 65536 * 2 ^ 32 + parked.length % 65536 * 2 ^ 48

def Ctx.progress (x : Ctx) : Word := ((x.bagRun.bind RunBag.progress).map word).getD x.rowProg

/-! ### Deferred traps of the array path (R72, R292, R306) -/

/-- Make a deferred trap due, merged with one of the same operation. -/
def addDeferred (d : DefTrap) : List DefTrap → List DefTrap
  | [] => [d]
  | e :: r => if e.cause == d.cause && e.id == d.id && e.pc == d.pc then { e with exc := e.exc ||| d.exc } :: r else e :: addDeferred d r

/-- Flags of an output row land; enabled exceptions and a machine check fall due. -/
def State.landRow (s : State) (r : LatchRow) : State :=
  s.updCtx r.c fun x =>
    let x := { x with a := { x.a with fflags := x.a.fflags ||| r.flags } }
    let l := if r.exc = 0 then x.deferred else addDeferred {
      cause := 7, pc := r.pc, slot := some 3, exc := r.exc.toNat, detail := 1, watch := [], id := r.id } x.deferred
    { x with deferred := match r.machineCheck with
      | some i => addDeferred {
          cause := 0x0A, pc := r.pc, slot := some 3, exc := 0, detail := mcDetail 4 i, watch := [], id := r.id } l
      | none => l }

/-- A deferred machine check of an operation of the context. -/
def State.arrayCheck (s : State) (c pc id idx : Nat) : State :=
  s.updCtx c fun x => { x with deferred := addDeferred {
    cause := 0x0A, pc := pc, slot := some 3, exc := 0, detail := mcDetail 5 idx, watch := [], id := id } x.deferred }

/-! ### Row in -/

/-- Take a row of elements into its bag: `rows` one list, or two in COMPOSE mode. A STEER row wider than a register keeps its low
2,048 bits (log 126). -/
def takeRow (c : Nat) (b : Bag) (n p tag wgt : Nat) (book : List (BitVec 16)) (ent : TidEntry) (fate : Fate)
    (rows : List (List Byte)) (s : State) : State :=
  let v := fenv b.nmr
  let x := s.ctx c
  let cnt := rowElems b.mode b.seg ent.fmt
  let xs := rows.map fun l => rowVals v ent book x.scale cnt l
  let t := tileOf c
  match b.mode with
  | 0 =>
    let first := b.base + tag * b.w
    let tile := tileVals v (s.slotOf c b) x.scale
    let acc := xs.foldl (fun acc r => gemmRow b.e r tile acc) ((s.tile t).entries first b.w)
    let s1 := (s.correctSump t first b.w).updTile t fun u => u.putEntries s.freeCount first acc
    State.settle { s1 with freeCount := s1.freeCount + b.w } c n p fate
  | 2 =>
    let first := b.base + tag * b.w
    let w := if b.ent.fmt = 0 then readVal v .f64 wgt else readVal v .f32 wgt
    let acc := xs.foldl (fun acc r => sraRow b.e w r acc) ((s.tile t).entries first b.w)
    let s1 := (s.correctSump t first b.w).updTile t fun u => u.putEntries s.freeCount first acc
    State.settle { s1 with freeCount := s1.freeCount + b.w } c n p fate
  | _ =>
    let tile := tileVals v (s.slotOf c b) x.scale
    let acc := xs.foldl (fun acc r => gemmRow b.e r tile acc) (List.replicate (fmtN b.ent.fmt) {})
    let ty := ETy.ofCode b.ot
    let out := acc.map fun E => winDrain v b.e E ty v.rm
    let flags := out.foldl (fun f r => f ||| r.2) 0
    let row : LatchRow := {
      c := c, tag := tag, row := packVec ty.width (out.map Prod.fst), bag := b.id, drain := false, last := false
      flags := flags, exc := enabledExc b.nmr flags, pc := b.pc, feed := n, pos := p, id := b.id }
    let side := acc.foldl (fun k E => k ||| E.sideBits) 0
    ((s.updTile t fun u => { u with waiting := u.waiting ++ [row] }).updBag c fun r =>
      { r.settle n p .latching with window := r.window ||| side })

/-! ### Queue-fed feeds (R214, R215, R300) -/

/-- Rows of a stage. -/
def FeedRun.perStage (f : FeedRun) (h : QBind) : Nat := f.f.stg * h.slotBytes / f.f.stride

/-- The engine's acquire on an attached handle: flag counts go, the view and its shadow hold the slots. -/
def Ctx.engineAcquire (x : Ctx) (q j : Nat) : Ctx :=
  let h := vget x.a.qs q
  if j ≤ h.held then x
  else { x with
    flags := vput x.flags h.wflag (vget x.flags h.wflag - BitVec.ofNat 16 (j - h.held))
    a := { x.a with qs := vput x.a.qs q { h with held := j } }
    sh := { x.sh with qs := vput x.sh.qs q { h with held := j } } }

/-- Put a handle into the view and its shadow. -/
def Ctx.putHandle (x : Ctx) (q : Nat) (h : QBind) : Ctx :=
  { x with a := { x.a with qs := vput x.a.qs q h }, sh := { x.sh with qs := vput x.sh.qs q h } }

/-- The place of byte `o` past a handle's pointer, across wraps of the ring. -/
def ringPlace (s : State) (c : Nat) (h : QBind) (o : Nat) : Nat :=
  (s.resolve c (h.base + (h.ptr * h.slotBytes + o) % (h.nsl * h.slotBytes)) 1 1).getD 0

/-- The places of the bytes of a row of a `bag.rows` feed. -/
def rowPlaces (s : State) (c : Nat) (f : FeedRun) (p n : Nat) : List Nat :=
  match f.f.q with
  | none => (upTo n).map (f.f.rows + p * f.f.stride + ·)
  | some q =>
    let h := vget (s.ctx c).a.qs q
    (upTo n).map fun i => ringPlace s c h ((p - f.stage * f.perStage h) * f.f.stride + i)

/-- Every stage of a feed has advanced. -/
def Ctx.stagesOver (x : Ctx) (f : FeedRun) : Bool :=
  match f.f.q with
  | none => true
  | some q => f.f.n ≤ f.stage * f.perStage (vget x.a.qs q)

/-- Feed `n` has the handle to itself: every earlier feed of the bag on it has advanced all its stages, and the feed goes on
from where PTR then stands (R317). -/
def Ctx.handleMine (x : Ctx) (n : Nat) (f : FeedRun) : Bool :=
  x.bagRun.all fun b => (b.feeds.take n).all fun g => g.f.q != f.f.q || x.stagesOver g

/-- Row `p` of queue-fed feed `n` lies in the present stage, whose slots can be acquired. -/
def Ctx.stageReady (x : Ctx) (n : Nat) (f : FeedRun) (p : Nat) : Bool :=
  match f.f.q with
  | none => true
  | some q => x.handleMine n f && f.perStage (vget x.a.qs q) != 0 && p / f.perStage (vget x.a.qs q) == f.stage && x.canAcquire q f.f.stg

/-! ### Beginning an operation -/

/-- Every feed of the context that is at the engine has settled. -/
def Ctx.feedsSettled (x : Ctx) (p : FeedRun → Bool) : Bool :=
  x.bagRun.all fun b => b.feeds.all fun f => !p f || f.allSettled

/-- The TID a feed reads its rows through. -/
def FeedRun.through (b : RunBag) (f : FeedRun) (t : Nat) : Bool := (if f.f.pump then f.f.tid else b.bag.tid) == t

/-- The head operation of a context may begin (R87, R279, R283, R294, R313, R317, R319). A feed begins, and so reads its rows, only once
every store released with it or before it is performed: R307 and R88 let it read the old row or the new one, and the model takes the new
one (log 139, DESIGN CHOICE). -/
def State.mayBegin (s : State) (c : Nat) (o : ArrOp) : Bool :=
  let x := s.ctx c
  !o.begun && s.fencesDone c o.fences && match o.kind with
    | .mld .. => x.feedsSettled fun _ => true
    | .msc _ => x.feedsSettled fun _ => true
    | .mcb _ t _ => x.bagRun.all fun b => b.feeds.all fun f => !f.through b t || f.allSettled
    | .opn _ _ => x.bagRun.isNone
    | .feed _ => x.bagRun.isSome && !(x.woq.any fun e => e.seq < o.rel)
    | _ => true

/-- The head operation leaves the engine. -/
def Ctx.popOp (x : Ctx) : Ctx := { x with mx := x.mx.tail }

/-- The list bytes of a feed: place and length (R316). -/
def Feed.lists (f : Feed) (b : Bag) : List (Nat × Nat) :=
  [(f.tags, 2 * f.n)] ++ (if b.mode = 2 then [(f.wgts, weightBytes b.ent.fmt * f.n)] else []) ++
  (if f.pump then [(f.idx, (if f.wide then 8 else 4) * f.n)] else [])

/-- Bytes an operation loads; one found uncorrectable is free. -/
def State.loadBytes (s : State) (p n : Nat) : List Byte :=
  (upTo n).map fun i => if s.badAt (p + i) then Config.emptyTile s.freeCount i else memRead s.mem (p + i)

/-- A load of `n` bytes that meets an uncorrectable one: its machine check falls due (R391, R306). -/
def State.checkLoad (s : State) (c : Nat) (o : ArrOp) (p n : Nat) : State :=
  if s.badIn p n then s.arrayCheck c o.pc o.seq p else s

/-- A table index out of range (R295). -/
def outOfRange (e : TidEntry) (i : Nat) : Bool :=
  match e.mode with
  | 0 => e.rows ≤ i
  | 2 => e.rows ≤ i / e.modulus
  | _ => false

/-- The checks of R296 for one entry: the bag's keys, and the entry with its fate. An entry with an uncorrectable list byte is faulted with
cause 0x06, takes no key and offers no record (R297; log 51). -/
def checkEntry (b : Bag) (f : Feed) (fnum : Nat) (keys : List KeyRec) (p tag wgt idx : Nat) (bad : Bool) : List KeyRec × RowEnt :=
  let ent := fun (fate : Fate) (k : Nat) => { pos := p, tag := tag, wgt := wgt, idx := idx, fate := fate, key := k : RowEnt }
  if bad then (keys, ent (.faulted 6) 0)
  else if b.count ≤ tag || (f.pump && idx == 2 ^ (if f.wide then 64 else 32) - 1) then (keys, ent .dropped 0)
  else if !f.pump then (keys, ent .pending 0)
  else if outOfRange f.ent idx then (keys, ent .dropped 0)
  else match findPos (fun k => k.tid == f.tid && k.idx == idx) keys with
    | some k => (keys, match (keys[k]?).map KeyRec.st with
      | some (.faulted c) => ent (.faulted c) k
      | some .parked => { ent .parked k with retried := true }
      | _ => ent .fetching k)
    | none =>
      if 4096 ≤ keys.length then (keys, ent (.faulted 7) 0)
      else (keys ++ [{ tid := f.tid, ent := f.ent, idx := idx, feed := fnum, pos := p }], ent .fetching keys.length)

/-- Entry `p` of a feed as its lists give it: tag, weight, index, and whether a list byte is uncorrectable. A row of `bag.rows` has
no index; a fault list (R302) shows its list position in that field (log 123). -/
def listEntry (s : State) (b : Bag) (f : Feed) (p : Nat) : Nat × Nat × Nat × Bool :=
  let wb := weightBytes b.ent.fmt
  let ib := if f.wide then 8 else 4
  (s.readNat (f.tags + 2 * p) 2, if b.mode = 2 then s.readNat (f.wgts + wb * p) wb else 0,
   if f.pump then s.readNat (f.idx + ib * p) ib else p,
   s.badIn (f.tags + 2 * p) 2 || (b.mode == 2 && s.badIn (f.wgts + wb * p) wb) || (f.pump && s.badIn (f.idx + ib * p) ib))

/-- Begin a feed: its lists are read and its entries checked; what settles at once settles (R294, R296, R298, R317). -/
def beginFeed (c : Nat) (o : ArrOp) (f : Feed) (s : State) : State :=
  match (s.ctx c).bagRun with
  | none => s
  | some r =>
    let n := r.feeds.length
    let res := (upTo f.n).foldl (fun (acc : List KeyRec × List RowEnt) p =>
      let e := listEntry s r.bag f p
      let k := checkEntry r.bag f n acc.1 p e.1 e.2.1 e.2.2.1 e.2.2.2
      (k.1, acc.2 ++ [k.2])) (r.keys, [])
    let run : FeedRun := { f := f, seq := o.seq, pc := o.pc, fences := o.fences, rows := res.2 }
    let s1 := (s.correctAll (f.lists r.bag)).updCtx c fun x =>
      let y := match f.q with
        | some q => x.putHandle q { vget x.a.qs q with arr := true }
        | none => x
      { y with bagRun := some { r with feeds := r.feeds ++ [run], keys := res.1 }, mx := y.mx.tail }
    let s2 := (res.2.filter fun e => e.fate.settled).foldl (fun t e => t.settle c n e.pos e.fate) s1
    if !f.pump && res.2.any (fun e => e.fate == .faulted 6) then s2.arrayCheck c o.pc o.seq n else s2

/-- `bag.rep` at the engine (R320). -/
def snapshot (c p : Nat) (s : State) : State :=
  let x := s.ctx c
  let done := match x.bagRun with
    | some r => r.arrived + r.dropped + r.faulted
    | none => 0
  let keys := match x.bagRun with
    | some r => r.keys.length
    | none => 0
  s.store (cellsAt p (bytesOfNat 8 x.progress.toNat ++ bytesOfNat 4 done ++ bytesOfNat 4 keys))

/-- Begin the head operation. -/
def beginOp (c : Nat) (o : ArrOp) (s : State) : State :=
  let started := fun (s : State) => s.updCtx c fun x => { x with mx := mapAt 0 (fun o => { o with begun := true }) x.mx }
  match o.kind with
  | .opn b claim =>
    let s1 := if claim then s.updTile (tileOf c) fun t => t.clearRange b.base (b.count * b.w) else s
    s1.updCtx c fun x => { x.popOp with bagRun := some { bag := b } }
  | .feed f => if f.pump then s else beginFeed c o f s
  | .rep p => (snapshot c p s).updCtx c Ctx.popOp
  | .mcb phys _ p =>
    let l := s.loadBytes p 32
    let s1 := ((s.correct p 32).checkLoad c o p 32).updTile (tileOf c) fun t => { t with tids := vput t.tids phys { vget t.tids phys with
      book := (upTo 16).map fun i => BitVec.ofNat 16 (elemAt l 16 i) } }
    State.updCtx { s1 with freeCount := s1.freeCount + 1 } c Ctx.popOp
  | .msc p =>
    let l := s.loadBytes p 64
    State.updCtx { (s.correct p 64).checkLoad c o p 64 with freeCount := s.freeCount + 1 } c fun x => { x.popOp with
      scale := (upTo 16).map fun i => BitVec.ofNat 32 (elemAt l 32 i) }
  | _ => started s

/-- ARRAY_OP_START (R144): the oldest operation of context `arg.c` begins at the engine. -/
def execArrayOpStart (s : State) : Out :=
  .next (match (s.ctx s.arg.c).mx with
    | [] => s
    | o :: _ => if s.mayBegin s.arg.c o then beginOp s.arg.c o s else s)

/-- PUMP_FEED_BEGIN (R294, R298): the pump feed at the head of context `arg.c` begins. -/
def execPumpFeedBegin (s : State) : Out :=
  .next (match (s.ctx s.arg.c).mx with
    | [] => s
    | o :: _ => match o.kind with
      | .feed f => if f.pump && s.mayBegin s.arg.c o then beginFeed s.arg.c o f s else s
      | _ => s)

/-- The slot after a tile load (R279, R312), which reads the whole tile in this event (log 152, DESIGN CHOICE): a read that fails empties
it, unless a later load is on its way; in the shadowed record a load that rollback would discard is none. -/
def finishLoad (c tid : Nat) (e : TidEntry) (p n : Nat) (o : ArrOp) (s : State) : State :=
  let loads := fun (l : List ArrOp) => l.any fun o => match o.kind with
    | .mld .. => true
    | _ => false
  if s.badIn p n then
    ((s.correct p n).updCtx c fun x => { x.popOp with
      statSlot := none
      a := if loads (x.hold ++ x.mx.tail) then x.a else { x.a with slotTid := none }
      sh := if loads x.mx.tail then x.sh else { x.sh with slotTid := none } }).arrayCheck c o.pc o.seq p
  else (s.correct p n).updCtx c fun x => { x.popOp with
    statSlot := some { tid := tid, ent := { e with book := s.bookOf c tid }, data := s.read p n } }

/-- ARRAY_OP_COMPLETE (R279, R290, R322): the begun tile load or clear of context `arg.c` finishes. -/
def execArrayOpComplete (s : State) : Out :=
  .next (match (s.ctx s.arg.c).mx with
    | [] => s
    | o :: _ =>
      if !o.begun then s
      else match o.kind with
        | .mld t e p n => finishLoad s.arg.c t e p n o s
        | .clr first n _ => (s.updTile (tileOf s.arg.c) fun t => t.clearRange first n).updCtx s.arg.c Ctx.popOp
        | _ => s)

/-! ### Row in, fetches -/

/-- Earlier entries of a key, in list order: feed number and position before (n, p). -/
def earlierOfKey (b : RunBag) (key n p : Nat) : List RowEnt :=
  (b.feeds.zipIdx.filter fun f => f.1.f.pump).flatMap fun f => f.1.rows.filter fun r =>
    r.key == key && (r.fate != .dropped) && (f.2 < n || (f.2 == n && r.pos < p)) && match r.fate with
      | .faulted _ => false
      | _ => true

/-- Entry (n, p) of the bag of context c may enter the array (R280, R293, R300, R329). -/
def State.rowReady (s : State) (c n p : Nat) : Bool :=
  match (s.ctx c).bagRun with
  | none => false
  | some b => match b.feeds[n]?, b.entry n p with
    | some f, some r =>
      (b.bag.mode != 1 || (s.tile (tileOf c)).waiting.isEmpty) &&
      (if f.f.pump then
        r.fate == .fetching && ((b.keys[r.key]?).bind KeyRec.data).isSome &&
          (earlierOfKey b r.key n p).all fun q => q.fate.settled
      else r.fate == .pending && (s.ctx c).stageReady n f p)
    | _, _ => false

/-- A replay: not the entry that fetched its key. -/
def RunBag.isReplay (b : RunBag) (r : RowEnt) (n p : Nat) : Bool :=
  (b.keys[r.key]?).any fun k => !(k.feed == n && k.pos == p)

/-- Take entry (n, p): a well row is read now; one found uncorrectable faults (R306). -/
def rowEnter (c n p : Nat) (s : State) : State :=
  match (s.ctx c).bagRun with
  | none => s
  | some b => match b.feeds[n]?, b.entry n p with
    | some f, some r =>
      if f.f.pump then
        let rows := ((b.keys[r.key]?).bind KeyRec.data).getD []
        takeRow c b.bag n p r.tag r.wgt (s.bookOf c f.f.tid) f.f.ent
          (if b.isReplay r n p then .replayed else .arrived) rows s
      else
        let s := match f.f.q with
          | some q => s.updCtx c fun x => x.engineAcquire q f.f.stg
          | none => s
        let ps := rowPlaces s c f p (rowBytes b.bag)
        let s := s.correctBytes ps
        if ps.any s.badAt then (s.settle c n p (.faulted 6)).arrayCheck c f.pc f.seq n
        else takeRow c b.bag n p r.tag r.wgt (s.bookOf c b.bag.tid) b.bag.ent .arrived [ps.map (memRead s.mem)] s
    | _, _ => s

/-- ROW_IN (R280): entry `arg.k` of feed `arg.n` of the bag of context `arg.c` enters the array and is added. -/
def execRowIn (s : State) : Out :=
  .next (if s.rowReady s.arg.c s.arg.n s.arg.k then rowEnter s.arg.c s.arg.n s.arg.k s else s)

/-- The table rows of a key (R295): their virtual addresses. -/
def keyRows (k : KeyRec) : List Nat :=
  let e := k.ent
  match e.mode with
  | 0 => [(e.va + k.idx * e.stride) % 2 ^ 56]
  | 1 => [(e.va + k.idx * 0x9E3779B1 % 2 ^ 64 % e.rows * e.stride) % 2 ^ 56]
  | _ => [(e.va + k.idx / e.modulus * e.stride) % 2 ^ 56, (e.vb + k.idx % e.modulus * e.stride) % 2 ^ 56]

/-- Fetch one table row: its bytes, or the cause and address of the failure. The row pump reaches no well (R18): the well
aperture is no target for it (log 99). -/
def fetchRow (c n va : Nat) (s : State) : Except (Nat × Nat × State) (List Byte × State) :=
  (piecesOf 0 va n).foldl (fun acc p => match acc with
    | .error e => .error e
    | .ok (l, t) => match t.xlate true c (t.revOf c) p.2.2 false with
      | .error k => .error (k, va, t.missed true c (t.revOf c) p.2.2 false)
      | .ok (q, u) => if zoneOf q == .well then .error (4, va, u)
        else if u.unreadable q p.2.1 then .error (6, va, u) else .ok (l ++ u.read q p.2.1, u.correct q p.2.1)) (.ok ([], s))

/-- Fetch every row of a key. Where several of them fail, or several pages of one, the first failure is reported, rows in the order A, B and
pages ascending (R299; log 141, DESIGN CHOICE). -/
def fetchKey (c n : Nat) (k : KeyRec) (s : State) : Except (Nat × Nat × State) (List (List Byte) × State) :=
  (keyRows k).foldl (fun acc va => match acc with
    | .error e => .error e
    | .ok (l, t) => match fetchRow c n va t with
      | .error e => .error e
      | .ok (r, u) => .ok (l ++ [r], u)) (.ok ([], s))

/-- Replace the key record at a position. -/
def State.updKey (s : State) (c k : Nat) (f : KeyRec → KeyRec) : State :=
  s.updBag c fun b => { b with keys := mapAt k f b.keys }

/-- Every entry of a key with its feed number. -/
def RunBag.entriesOf (b : RunBag) (key : Nat) (sel : Fate → Bool) : List (Nat × Nat) :=
  b.feeds.zipIdx.flatMap fun f => if f.1.f.pump then
    (f.1.rows.filter fun r => r.key == key && sel r.fate).map fun r => (f.2, r.pos) else []

/-- Set the fate of unsettled entries of a key. -/
def RunBag.refate (b : RunBag) (key : Nat) (was now : Fate) (retried : Bool) : RunBag :=
  { b with feeds := b.feeds.map fun f => if f.f.pump then { f with rows := f.rows.map fun r =>
      if r.key == key && r.fate == was then { r with fate := now, retried := r.retried || retried } else r } else f }

/-- A kind-4 record (R299). -/
def State.offerPump (s : State) (c : Nat) (b : RunBag) (k : KeyRec) (cause va : Nat) : State :=
  s.offer {
    engine := 193 + tileOf c
    bytes := bytesOfNat 1 4 ++ bytesOfNat 1 cause ++ bytesOfNat 2 k.pos ++ bytesOfNat 2 c ++ bytesOfNat 1 k.feed ++
      bytesOfNat 1 b.bag.pol ++ bytesOfNat 8 va ++ bytesOfNat 4 k.idx ++ bytesOfNat 4 (s.ctx c).step ++
      bytesOfNat 4 (s.ctx c).task ++ bytesOfNat 4 0 }

/-- Every waiting entry of a key is faulted. -/
def State.faultKey (s : State) (c key cause : Nat) : State :=
  let s1 := s.updKey c key fun k => { k with st := .faulted cause }
  match (s1.ctx c).bagRun with
  | none => s1
  | some b => (b.entriesOf key fun f => f == .fetching || f == .parked).foldl (fun t e =>
      t.settle c e.1 e.2 (.faulted cause)) s1

/-- One attempt to fetch a key (R297). -/
def tryFetch (c key : Nat) (b : RunBag) (k : KeyRec) (s : State) : State :=
  match fetchKey c (rowBytes b.bag) k s with
  | .ok (l, t) => (t.updKey c key fun k => { k with data := some l, st := .arrived }).updBag c fun b =>
      b.refate key .parked .fetching true
  | .error (6, va, t) => (t.offerPump c b k 6 va).faultKey c key 6
  | .error (cause, va, t) =>
    if b.bag.pol = 0 then t.faultKey c key cause
    else
      let t1 := if k.st == .parked then t else t.offerPump c b k cause va
      (t1.updKey c key fun k => { k with st := .parked }).updBag c fun b => b.refate key .fetching .parked true

/-- A key of the bag of context c at position k in a given state. -/
def State.keyIn (s : State) (c k : Nat) (st : Fate) : Option (RunBag × KeyRec) :=
  (s.ctx c).bagRun.bind fun b => (b.keys[k]?).bind fun r => if r.st == st && r.data.isNone then some (b, r) else none

/-- PUMP_FETCH_RETURN (R297): the fetch of key `arg.k` of context `arg.c` returns. -/
def execPumpFetchReturn (s : State) : Out :=
  .next (match s.keyIn s.arg.c s.arg.k .fetching with
    | some (b, r) => tryFetch s.arg.c s.arg.k b r s
    | none => s)

/-- PUMP_WALK_RETRY (R297): the back-off of parked key `arg.k` of context `arg.c` expires. -/
def execPumpWalkRetry (s : State) : Out :=
  .next (match s.keyIn s.arg.c s.arg.k .parked with
    | some (b, r) => tryFetch s.arg.c s.arg.k b r s
    | none => s)

/-! ### Stages (R20, R300) -/

/-- Every row of the present stage of queue feed `n` is read, and its slots can be held. -/
def Ctx.stageDone (x : Ctx) (n : Nat) (f : FeedRun) : Bool :=
  match f.f.q with
  | none => false
  | some q =>
    let k := f.perStage (vget x.a.qs q)
    x.handleMine n f && k != 0 && f.stage * k < f.f.n && x.canAcquire q f.f.stg &&
    ((f.rows.drop (f.stage * k)).take k).all fun r => r.fate != .pending

/-- QUEUE_STAGE_ADVANCE (R20): feed `arg.n` of context `arg.c` advances its handle by a stage and posts the producer. A
handle whose PEER names no context of the gang advances and posts to nobody (log 112). -/
def execQueueStageAdvance (s : State) : Out :=
  let c := s.arg.c
  .next (match ((s.ctx c).bagRun.bind fun b => b.feeds[s.arg.n]?) with
    | none => s
    | some f => match f.f.q with
      | none => s
      | some q =>
        if !(s.ctx c).stageDone s.arg.n f then s
        else
          let s1 := s.updCtx c fun x =>
            let y := x.engineAcquire q f.f.stg
            let h := vget y.a.qs q
            y.putHandle q { h with ptr := (h.ptr + f.f.stg) % h.nsl, held := h.held - f.f.stg }
          let s2 := s1.updBag c fun b => { b with feeds := mapAt s.arg.n (fun f => { f with stage := f.stage + 1 }) b.feeds }
          let h := vget (s2.ctx c).a.qs q
          match s2.postGoal c h.peer with
          | some d => s2.updCtx d fun x => x.post h.pflag f.f.stg
          | none => s2)

/-! ### The close and its report (R287, R301, R302) -/

/-- Faulted entries in ascending (feed, position) order: position, feed, cause, index. -/
def RunBag.faults (b : RunBag) : List (Nat × Nat × Nat × Nat) :=
  b.feeds.zipIdx.flatMap fun f => f.1.rows.filterMap fun r => match r.fate with
    | .faulted k => some (r.pos, f.2, k, r.idx)
    | _ => none

/-- Nibbles packed two per byte, the first in the low half. -/
def packNibbles (l : List Nat) : List Byte := bytesOfNat ((l.length + 1) / 2) (packLanes 4 l)

/-- The bag report (R301). An entry that is uncorrectable and that the bag has not added to is shown with its side bits as they are
stored (log 124). -/
def RunBag.report (b : RunBag) (t : Tile) : List Byte :=
  let g := b.bag
  let settled := b.arrived + b.dropped + b.faulted
  let listed := b.faults.take 64
  let es := t.entries g.base (g.count * g.w)
  let window := if g.mode = 1 then b.window else es.foldl (fun k E => k ||| E.sideBits) 0
  bytesOfNat 1 1 ++ bytesOfNat 1 g.mode ++ bytesOfNat 2 g.count ++ bytesOfNat 4 g.exp ++ bytesOfNat 4 b.arrived ++
  bytesOfNat 4 b.replayed ++ bytesOfNat 4 b.dropped ++ bytesOfNat 4 b.faulted ++ bytesOfNat 4 (g.exp - settled) ++
  bytesOfNat 4 (settled - g.exp) ++ bytesOfNat 2 b.keys.length ++ bytesOfNat 2 listed.length ++
  bytesOfNat 2 (wrap 16 g.e) ++ bytesOfNat 1 window ++ bytesOfNat 1 0 ++ bytesOfNat 4 b.retried ++
  bytesOfNat 4 b.full ++ bytesOfNat 16 0 ++
  bytesOfNat 512 (packLanes 64 (listed.map fun f =>
    f.1 % 2 ^ 16 + f.2.1 % 2 ^ 8 * 2 ^ 16 + f.2.2.1 % 2 ^ 8 * 2 ^ 24 + f.2.2.2 % 2 ^ 32 * 2 ^ 32)) ++
  bytesOfNat 128 b.cover ++
  packNibbles (es.map fun E => E.cls.toNat + 4 * ofBool E.wx + 8 * ofBool E.wo)

/-- The close at the head of a context can complete. -/
def State.closeReady (s : State) (c : Nat) : Bool :=
  match (s.ctx c).mx with
  | [] => false
  | o :: _ => o.kind == .close && s.fencesDone c o.fences && (s.ctx c).bagRun.isSome &&
      (s.ctx c).feedsSettled (fun _ => true) &&
      (s.ctx c).bagRun.all fun b => b.feeds.all fun f => (s.ctx c).stagesOver f

/-- A committed feed that has not begun names handle `q`: it stays attached for the bag of that feed (R215). -/
def Ctx.stillAttached (x : Ctx) (q : Nat) : Bool :=
  x.mx.any fun o => match o.kind with
    | .feed f => f.q == some q
    | _ => false

/-- BAG_CLOSE_COMPLETE (R287): the close of context `arg.c` writes the report, detaches the handles and posts the flag. -/
def execBagCloseComplete (s : State) : Out :=
  let c := s.arg.c
  .next (if !s.closeReady c then s else match (s.ctx c).bagRun with
    | none => s
    | some b =>
      let s1 := (s.correctSump (tileOf c) b.bag.base (if b.bag.mode = 1 then 0 else b.bag.count * b.bag.w)).store
        (cellsAt b.bag.rep (b.report (s.tile (tileOf c))))
      let s2 := s1.updCtx c fun x =>
        let y := (b.feeds.filterMap fun f => f.f.q).foldl (fun (y : Ctx) q =>
          y.putHandle q { vget y.a.qs q with arr := y.stillAttached q }) x
        { y.popOp with rowProg := x.progress, bagRun := none }
      { s2 with posts := s2.posts ++ [{ src := none, c := c, f := b.bag.flag, n := 1 }] })

/-! ### Drains (R291, R292, R321) -/

/-- One drained element: pattern, flags, and whether it was uncorrectable. -/
def drainElem (d : Drain) (t : Tile) (n : Nat) : Nat × FFlags × Bool :=
  let bad := t.badSump.contains n
  let E := sumpGet t.sump n
  let e16 := BitVec.ofInt 16 d.e
  if d.ty = 6 then (xtNat (if bad then { wo := true, nvi := true } else E) e16, 0, bad)
  else
    let v := fenv d.nmr
    if bad then ((match ETy.ofCode d.ty with
      | .flt f => f.cnan
      | .int _ _ => 0), 0, true)
    else
      let r := winDrain v d.e E (ETy.ofCode d.ty) (RMode.ofCode v.rm d.rm)
      (r.1, r.2, false)

/-- Drain `id` is complete: `c.drn` falls, and a `waitc` on it takes what fell due (R72). -/
def State.finishDrain (s : State) (c id : Nat) : State :=
  s.updCtx c fun x =>
    { x with
      latching := x.latching.filter fun o => o.seq != id
      cDrn := minusSat x.cDrn 1
      deferred := x.deferred.map fun d => if d.id == id then { d with watch := [3] } else d }

/-- The drain at the head of a context. -/
def Ctx.drainOp (x : Ctx) : Option (ArrOp × Drain) :=
  match x.mx with
  | [] => none
  | o :: _ => match o.kind with
    | .drain d => if o.begun && d.next * d.group < d.len then some (o, d) else none
    | _ => none

/-- A drain that has emitted its last group leaves the engine, so that its latch-bound rows hold back nothing bound for the
sump (R293); else its next group follows. -/
def Ctx.stepDrain (x : Ctx) (o : ArrOp) (d : Drain) (last : Bool) : Ctx :=
  if last then { x.popOp with latching := x.latching ++ [o] }
  else { x with mx := mapAt 0 (fun o => { o with kind := .drain { d with next := d.next + 1 } }) x.mx }

/-- One tag group. -/
def drainGroup (c : Nat) (o : ArrOp) (d : Drain) (s : State) : State :=
  let t := s.tile (tileOf c)
  let sz := drainBytes d.ty
  let l := (upTo d.group).map fun i => drainElem d t (d.first + d.next * d.group + i)
  let flags := l.foldl (fun f r => f ||| r.2.1) 0
  let last := d.len ≤ (d.next + 1) * d.group
  let row : LatchRow := {
    c := c, tag := d.next, row := packVec (8 * sz) (l.map Prod.fst), bag := 0, drain := true, last := last
    flags := flags, exc := enabledExc d.nmr flags, pc := o.pc, id := o.seq
    machineCheck := (l.zipIdx.find? fun r => r.1.2.2).map fun r => d.first + d.next * d.group + r.2 }
  let s0 := s.correctSump (tileOf c) (d.first + d.next * d.group) d.group
  let s1 := if d.dst % 2 = 1 then
      s0.store (cellsAt (d.out + d.next * d.group * sz) (l.flatMap fun r => bytesOfNat sz r.1)) else s0
  let s2 := s1.updCtx c fun x => x.stepDrain o d last
  if d.dst = 1 then
    let s3 := s2.landRow row
    if last then s3.finishDrain c o.seq else s3
  else s2.updTile (tileOf c) fun t => { t with waiting := t.waiting ++ [row] }

/-- DRAIN_ROW (R291): the drain of context `arg.c` emits one tag group. -/
def execDrainRow (s : State) : Out :=
  .next (match (s.ctx s.arg.c).drainOp with
    | some (o, d) => drainGroup s.arg.c o d s
    | none => s)

/-! ### The latch (R293) -/

/-- The latch is free: empty, or held by a row of a context that issues nothing more. -/
def State.latchFree (s : State) (t : Nat) : Bool :=
  match (s.tile t).latch with
  | none => true
  | some r => (s.ctx r.c).cond == .exited || (s.ctx r.c).cond == .absent

/-- SPOUT_LATCH_ENTRY (R293): the oldest row waiting on tile `arg.t` enters the free latch and its flags land. -/
def execSpoutLatchEntry (s : State) : Out :=
  let t := s.arg.t
  .next (match (s.tile t).waiting with
    | [] => s
    | r :: rest =>
      if !s.latchFree t then s
      else
        let s1 := (s.updTile t fun u => { u with latch := some r, waiting := rest }).landRow r
        if r.drain then (if r.last then s1.finishDrain r.c r.id else s1)
        else
          let replay := (s1.ctx r.c).bagRun.any fun b => (b.feeds[r.feed]?).any (fun f => f.f.pump) &&
            (b.entry r.feed r.pos).any fun e => b.isReplay e r.feed r.pos
          s1.settle r.c r.feed r.pos (if replay then .replayed else .arrived))

end Sys2Proof.Machine
end

