-- ==== Sys2Proof/Machine/Seq.lean ====
section
/-! DEFINITION. Sequencer arithmetic: integer register and immediate forms, constants, compares, select and
predicate logic (R157 to R163). -/

namespace Sys2Proof.Machine

/-- A two-operand integer form (R157): both operands read at issue, the result lands after `lat`. -/
def aluR (g d a b x lat : Nat) (f : Word → Word → Word) (s : State) : Out :=
  run g s fun s => s.landS 0 (s.me.a.bS x d) (f (s.sReg x a) (s.sReg x b)) lat

/-- An immediate form (R159) with its extended immediate. -/
def aluI (g d a x lat : Nat) (k : Word) (f : Word → Word → Word) (s : State) : Out :=
  run g s fun s => s.landS 0 (s.me.a.bS x d) (f (s.sReg x a) k) lat

/-- The sign-extended 9-bit immediate. -/
def imm9 (i : Nat) : Word := wordOfInt (sext 9 i)

/-- The high half of a signed or unsigned product. -/
def mulHigh (signed : Bool) (x y : Word) : Word :=
  if signed then wordOfInt (x.toInt * y.toInt / 2 ^ 64) else word (x.toNat * y.toNat / 2 ^ 64)

/-- Signed division (R158): quotient and remainder; neither ever traps. -/
def divS (x y : Word) : Word × Word :=
  if y = 0 then (wordOfInt (-1), x)
  else (wordOfInt (x.toInt.tdiv y.toInt), wordOfInt (x.toInt - x.toInt.tdiv y.toInt * y.toInt))

/-- Unsigned division (R158). -/
def divU (x y : Word) : Word × Word :=
  if y = 0 then (BitVec.allOnes 64, x) else (word (x.toNat / y.toNat), word (x.toNat % y.toNat))

/-- Shifts by y mod 64 (R157). -/
def shiftL (x y : Word) : Word := word (x.toNat * 2 ^ (y.toNat % 64))
def shiftR (x y : Word) : Word := word (x.toNat / 2 ^ (y.toNat % 64))
def shiftA (x y : Word) : Word := wordOfInt (x.toInt / 2 ^ (y.toNat % 64))

def minS (x y : Word) : Word := if x.toInt ≤ y.toInt then x else y
def maxS (x y : Word) : Word := if x.toInt ≥ y.toInt then x else y
def minU (x y : Word) : Word := if x.toNat ≤ y.toNat then x else y
def maxU (x y : Word) : Word := if x.toNat ≥ y.toNat then x else y

/-- Leading zero bits; 64 for 0 (R157). -/
def clzWord (x : Word) : Word := word (64 - bitLen x.toNat)

def popcWord (x : Word) : Word := word (popCount x.toNat 64)

/-- `add` (R157). -/
def execAdd (g d a b x : Nat) (s : State) : Out := aluR g d a b x 1 (fun x y => x + y) s

/-- `sub` (R157). -/
def execSub (g d a b x : Nat) (s : State) : Out := aluR g d a b x 1 (fun x y => x - y) s

/-- `mul` (R157). -/
def execMul (g d a b x : Nat) (s : State) : Out := aluR g d a b x 3 (fun x y => x * y) s

/-- `mulh` (R157). -/
def execMulh (g d a b x : Nat) (s : State) : Out := aluR g d a b x 3 (fun x y => mulHigh true x y) s

/-- `mulhn` (R157). -/
def execMulhn (g d a b x : Nat) (s : State) : Out := aluR g d a b x 3 (fun x y => mulHigh false x y) s

/-- `div` (R158). -/
def execDiv (g d a b x : Nat) (s : State) : Out := aluR g d a b x 20 (fun x y => (divS x y).1) s

/-- `divn` (R158). -/
def execDivn (g d a b x : Nat) (s : State) : Out := aluR g d a b x 20 (fun x y => (divU x y).1) s

/-- `rem` (R158). -/
def execRem (g d a b x : Nat) (s : State) : Out := aluR g d a b x 20 (fun x y => (divS x y).2) s

/-- `remn` (R158). -/
def execRemn (g d a b x : Nat) (s : State) : Out := aluR g d a b x 20 (fun x y => (divU x y).2) s

/-- `and` (R157). -/
def execAnd (g d a b x : Nat) (s : State) : Out := aluR g d a b x 1 (fun x y => x &&& y) s

/-- `or` (R157). -/
def execOr (g d a b x : Nat) (s : State) : Out := aluR g d a b x 1 (fun x y => x ||| y) s

/-- `xor` (R157). -/
def execXor (g d a b x : Nat) (s : State) : Out := aluR g d a b x 1 (fun x y => x ^^^ y) s

/-- `andn` (R157). -/
def execAndn (g d a b x : Nat) (s : State) : Out := aluR g d a b x 1 (fun x y => x &&& ~~~y) s

/-- `shl` (R157). -/
def execShl (g d a b x : Nat) (s : State) : Out := aluR g d a b x 1 (fun x y => shiftL x y) s

/-- `shr` (R157). -/
def execShr (g d a b x : Nat) (s : State) : Out := aluR g d a b x 1 (fun x y => shiftR x y) s

/-- `sha` (R157). -/
def execSha (g d a b x : Nat) (s : State) : Out := aluR g d a b x 1 (fun x y => shiftA x y) s

/-- `min` (R157). -/
def execMin (g d a b x : Nat) (s : State) : Out := aluR g d a b x 1 (fun x y => minS x y) s

/-- `max` (R157). -/
def execMax (g d a b x : Nat) (s : State) : Out := aluR g d a b x 1 (fun x y => maxS x y) s

/-- `minn` (R157). -/
def execMinn (g d a b x : Nat) (s : State) : Out := aluR g d a b x 1 (fun x y => minU x y) s

/-- `maxn` (R157). -/
def execMaxn (g d a b x : Nat) (s : State) : Out := aluR g d a b x 1 (fun x y => maxU x y) s

/-- `clz` (R157). -/
def execClz (g d a x : Nat) (s : State) : Out := aluI g d a x 1 0 (fun x _ => clzWord x) s

/-- `popc` (R157). -/
def execPopc (g d a x : Nat) (s : State) : Out := aluI g d a x 1 0 (fun x _ => popcWord x) s

/-- `addi` (R159). -/
def execAddi (g d a x i : Nat) (s : State) : Out := aluI g d a x 1 (imm9 i) (fun x y => x + y) s

/-- `muli` (R159). -/
def execMuli (g d a x i : Nat) (s : State) : Out := aluI g d a x 3 (imm9 i) (fun x y => x * y) s

/-- `andi` (R159). -/
def execAndi (g d a x i : Nat) (s : State) : Out := aluI g d a x 1 (imm9 i) (fun x y => x &&& y) s

/-- `ori` (R159). -/
def execOri (g d a x i : Nat) (s : State) : Out := aluI g d a x 1 (imm9 i) (fun x y => x ||| y) s

/-- `xori` (R159). -/
def execXori (g d a x i : Nat) (s : State) : Out := aluI g d a x 1 (imm9 i) (fun x y => x ^^^ y) s

/-- `andni` (R159). -/
def execAndni (g d a x i : Nat) (s : State) : Out := aluI g d a x 1 (imm9 i) (fun x y => x &&& ~~~y) s

/-- `shli` (R159). -/
def execShli (g d a x i : Nat) (s : State) : Out := aluI g d a x 1 (word (i % 64)) (fun x y => shiftL x y) s

/-- `shri` (R159). -/
def execShri (g d a x i : Nat) (s : State) : Out := aluI g d a x 1 (word (i % 64)) (fun x y => shiftR x y) s

/-- `shai` (R159). -/
def execShai (g d a x i : Nat) (s : State) : Out := aluI g d a x 1 (word (i % 64)) (fun x y => shiftA x y) s

/-- `mini` (R159). -/
def execMini (g d a x i : Nat) (s : State) : Out := aluI g d a x 1 (imm9 i) (fun x y => minS x y) s

/-- `maxi` (R159). -/
def execMaxi (g d a x i : Nat) (s : State) : Out := aluI g d a x 1 (imm9 i) (fun x y => maxS x y) s

/-- `minni` (R159). -/
def execMinni (g d a x i : Nat) (s : State) : Out := aluI g d a x 1 (word i) (fun x y => minU x y) s

/-- `maxni` (R159). -/
def execMaxni (g d a x i : Nat) (s : State) : Out := aluI g d a x 1 (word i) (fun x y => maxU x y) s

/-- A compare into a predicate pair (R161). -/
def cmpR (g p a b x : Nat) (c : Word → Word → Bool) (s : State) : Out :=
  run g s fun s => s.landPair 0 p (c (s.sReg x a) (s.sReg x b)) 1

/-- A compare with an immediate; the a field is never based (R161). -/
def cmpI (g p a : Nat) (k : Word) (c : Word → Word → Bool) (s : State) : Out :=
  run g s fun s => s.landPair 0 p (c (s.me.a.rS a) k) 1

/-- The sign-extended 12-bit immediate. -/
def imm12 (i : Nat) : Word := wordOfInt (sext 12 i)

/-- `ceq` (R161). -/
def execCeq (g p a b x : Nat) (s : State) : Out := cmpR g p a b x (fun x y => x == y) s

/-- `cne` (R161). -/
def execCne (g p a b x : Nat) (s : State) : Out := cmpR g p a b x (fun x y => x != y) s

/-- `clt` (R161). -/
def execClt (g p a b x : Nat) (s : State) : Out := cmpR g p a b x (fun x y => x.toInt < y.toInt) s

/-- `cle` (R161). -/
def execCle (g p a b x : Nat) (s : State) : Out := cmpR g p a b x (fun x y => x.toInt ≤ y.toInt) s

/-- `cltn` (R161). -/
def execCltn (g p a b x : Nat) (s : State) : Out := cmpR g p a b x (fun x y => x.toNat < y.toNat) s

/-- `clen` (R161). -/
def execClen (g p a b x : Nat) (s : State) : Out := cmpR g p a b x (fun x y => x.toNat ≤ y.toNat) s

/-- `ceqi` (R161). -/
def execCeqi (g p a i : Nat) (s : State) : Out := cmpI g p a (imm12 i) (fun x y => x == y) s

/-- `cnei` (R161). -/
def execCnei (g p a i : Nat) (s : State) : Out := cmpI g p a (imm12 i) (fun x y => x != y) s

/-- `clti` (R161). -/
def execClti (g p a i : Nat) (s : State) : Out := cmpI g p a (imm12 i) (fun x y => x.toInt < y.toInt) s

/-- `clei` (R161). -/
def execClei (g p a i : Nat) (s : State) : Out := cmpI g p a (imm12 i) (fun x y => x.toInt ≤ y.toInt) s

/-- `cltni` (R161). -/
def execCltni (g p a i : Nat) (s : State) : Out := cmpI g p a (word i) (fun x y => x.toNat < y.toNat) s

/-- `cleni` (R161). -/
def execCleni (g p a i : Nat) (s : State) : Out := cmpI g p a (word i) (fun x y => x.toNat ≤ y.toNat) s

/-- `lih` with KP = 0: one halfword, every other bit zero (R160). -/
def execLih (g d h i : Nat) (s : State) : Out :=
  run g s fun s => s.landS 0 d (word (i * 2 ^ (16 * h))) 1

/-- `lih.k`: one halfword, the other bits kept (R160). It reads the value landed by its issue cycle (R49, R51); R160's last sentence is
read as one about two writes that land together (log 147, DEDUCED). -/
def execLihK (g d h i : Nat) (s : State) : Out :=
  run g s fun s => s.landS 0 d (word (putBits (s.me.a.rS d).toNat (16 * h) 16 i)) 1

/-- `sel` (R162). -/
def execSel (g d a b p x : Nat) (s : State) : Out :=
  run g s fun s => s.landS 0 (s.me.a.bS x d) (if s.me.a.rP p then s.sReg x a else s.sReg x b) 1

/-- A predicate function of two predicates (R163). -/
def predR (g d a b : Nat) (f : Bool → Bool → Bool) (s : State) : Out :=
  run g s fun s => s.landBit 0 d (f (s.me.a.rP a) (s.me.a.rP b)) 1

/-- `pand` (R163). -/
def execPand (g d a b : Nat) (s : State) : Out := predR g d a b (fun x y => x && y) s

/-- `por` (R163). -/
def execPor (g d a b : Nat) (s : State) : Out := predR g d a b (fun x y => x || y) s

/-- `pxor` (R163). -/
def execPxor (g d a b : Nat) (s : State) : Out := predR g d a b (fun x y => x != y) s

/-- `pset` (R163). -/
def execPset (g d v : Nat) (s : State) : Out := run g s fun s => s.landBit 0 d (v == 1) 1

end Sys2Proof.Machine
end

