-- ==== Sys2Proof/Machine/Siphon.lean ====
section
/-! DEFINITION. Siphon commands: the operands of each form (R265 to R272), acceptance (R242, R254), `sph.cnl` and
`sph.stat` (R273, R274). The moving of bytes is in SiphonMove. -/

namespace Sys2Proof.Machine

/-! ### Pieces of a side -/

/-- The part of a list of pieces (offset, length, place) that lies in `n` stream bytes from `off`. -/
def clip (l : List (Nat × Nat × Nat)) (off n : Nat) : List (Nat × Nat × Nat) :=
  l.filterMap fun p =>
    let lo := max p.1 off
    let hi := min (p.1 + p.2.1) (off + n)
    if lo < hi then some (lo, hi - lo, p.2.2 + (lo - p.1)) else none

/-- The places of `n` stream bytes from `off`, byte by byte. -/
def placesOf (l : List (Nat × Nat × Nat)) (off n : Nat) : List Nat :=
  (clip l off n).flatMap fun p => (upTo p.2.1).map (p.2.2 + ·)

/-- The address or place of one stream byte. -/
def addrAt (l : List (Nat × Nat × Nat)) (off : Nat) : Nat := ((clip l off 1).map fun p => p.2.2).headD 0

/-- Two lists of pieces share a place. -/
def touches (a b : List (Nat × Nat × Nat)) : Bool :=
  a.any fun p => b.any fun q => p.2.2 < q.2.2 + q.2.1 && q.2.2 < p.2.2 + p.2.1

/-- Insert into a strictly ascending list. -/
def insertAsc (x : Nat) : List Nat → List Nat
  | [] => [x]
  | y :: r => if x < y then x :: y :: r else if x = y then y :: r else y :: insertAsc x r

/-- The numbers of a list, strictly ascending. -/
def ascending (l : List Nat) : List Nat := l.foldl (fun acc x => insertAsc x acc) []

/-! ### Operands (R265, R266, R270) -/

/-- A command as its operands name it, with its local sides (address, length, alignment, written) in the order of R242,
step 3, and its index list (address, count, index bytes, table rows). -/
structure Draft where
  cmd : SphCmd
  lsas : List (Nat × Nat × Nat × Bool)
  list : Option (Nat × Nat × Nat × Nat) := none
  deriving DecidableEq, Repr, Inhabited

/-- The register `k` after the one a field selects, based by XB.A (R265). -/
def State.sphReg (s : State) (x n k : Nat) : Word := s.me.a.rA ((s.me.a.bA x n + k) % 32)

/-- A side's address: an LSA, or a VA with `v` = 1. -/
def sideAddr (v : Nat) (r : Word) : Nat := if v = 1 then r.toNat % 2 ^ 56 else r.toNat % 2 ^ 24

/-- The pieces of a contiguous side. -/
def sidePieces (v addr n : Nat) : List (Nat × Nat × Nat) := if v = 1 then piecesOf 0 addr n else [(0, n, addr)]

/-- LEN of a control word. -/
def ctlLen (cw : Word) : Nat := bits cw.toNat 0 27
/-- The reserved bits of a control word are zero. -/
def ctlOk (cw : Word) : Bool := bits cw.toNat 46 18 == 0 && bits cw.toNat 27 5 == 0
/-- The post of a control word: gang index, flag, count (R266). -/
def ctlPost (cw : Word) : Option (Nat × Nat × Nat) :=
  if bitAt cw.toNat 45 then some (bits cw.toNat 37 4, bits cw.toNat 32 5, bits cw.toNat 41 4 + 1) else none

/-- A command of the present bundle moving `n` stream bytes. -/
def State.newCmd (s : State) (form n : Nat) (cw : Word) : SphCmd :=
  { form := form, scope := s.me.scope, pc := s.me.pc, post := ctlPost cw, len := ctlLen cw, total := n, left := n, stream := n }

/-- Give a contiguous command its sides. -/
def SphCmd.withSides (r : SphCmd) (sv dv : Nat) (src dst : Option Nat) : SphCmd :=
  { r with
    sv := sv == 1, dv := dv == 1, src := src.getD 0, dst := dst.getD 0
    sVas := match src with
      | some a => sidePieces sv a r.stream
      | none => []
    dVas := match dst with
      | some a => sidePieces dv a r.stream
      | none => [] }

/-- The local side among the checks of step 3. -/
def localSide (v addr n : Nat) (wr : Bool) : List (Nat × Nat × Nat × Bool) := if v = 1 then [] else [(addr, n, 1, wr)]

/-- Two ranges of one kind of address overlap. -/
def rangesMeet (a b n : Nat) : Bool := a < b + n && b < a + n

/-- `sph.cp` (R268). -/
def draftCp (s : State) (d src c x u v : Nat) : Option Draft :=
  let cw := s.sphReg x c 0
  let n := ctlLen cw
  let a := sideAddr u (s.sphReg x src 0)
  let b := sideAddr v (s.sphReg x d 0)
  if !ctlOk cw || n == 0 || 2 ^ 26 < n then none
  else some { cmd := (s.newCmd 0 n cw).withSides u v (some a) (some b), lsas := localSide u a n false ++ localSide v b n true }

/-- `sph.red` (R268). -/
def draftRed (s : State) (d src c x u v : Nat) : Option Draft :=
  let cw := s.sphReg x c 0
  let n := ctlLen cw
  let a := sideAddr u (s.sphReg x src 0)
  let b := sideAddr v (s.sphReg x d 0)
  if !ctlOk cw || n < 40 || 2 ^ 26 < n || n % 40 != 0 || a % 8 != 0 || b % 8 != 0 || (u == v && rangesMeet a b n) then none
  else some { cmd := (s.newCmd 3 n cw).withSides u v (some a) (some b), lsas := localSide u a n false ++ localSide v b n true }

/-- `sph.fill` (R268). -/
def draftFill (s : State) (d p c x v : Nat) : Option Draft :=
  let cw := s.sphReg x c 0
  let n := ctlLen cw
  let b := sideAddr v (s.sphReg x d 0)
  if !ctlOk cw || n == 0 || 2 ^ 26 < n then none
  else some {
    cmd := { (s.newCmd 4 n cw).withSides 0 v none (some b) with opnd := (s.sphReg x p 0).toNat }
    lsas := localSide v b n true }

/-- `sph.imm` (R268). -/
def draftImm (s : State) (d p c x v : Nat) : Option Draft :=
  let cw := s.sphReg x c 0
  let n := ctlLen cw
  let b := sideAddr v (s.sphReg x d 0)
  if !ctlOk cw || n == 0 || 8 < n then none
  else some {
    cmd := { (s.newCmd 9 n cw).withSides 0 v none (some b) with opnd := (s.sphReg x p 0).toNat }
    lsas := localSide v b n true }

/-- `sph.pre` (R268). -/
def draftPre (s : State) (src c x : Nat) : Option Draft :=
  let cw := s.sphReg x c 0
  let n := ctlLen cw
  if !ctlOk cw || n == 0 || 2 ^ 26 < n then none
  else some { cmd := (s.newCmd 7 n cw).withSides 1 0 (some (sideAddr 1 (s.sphReg x src 0))) none, lsas := [] }

/-- `sph.atom` (R272): the target is the destination side, the well word the source side's place. -/
def draftAtom (s : State) (d t c x o : Nat) : Option Draft :=
  let cw := s.sphReg x c 0
  let n := ctlLen cw
  let a := sideAddr 0 (s.sphReg x d 0)
  let b := sideAddr 1 (s.sphReg x t 0)
  if !ctlOk cw || (n != 4 && n != 8) || a % n != 0 || b % n != 0 then none
  else some {
    cmd := { (s.newCmd 5 n cw).withSides 0 1 (some a) (some b) with
      op := o, opnd := (s.sphReg x c 1).toNat % 2 ^ (8 * n), opnd2 := (s.sphReg x c 2).toNat % 2 ^ (8 * n) }
    lsas := [(a, n, 1, true)] }

/-- `sph.gth` and `sph.sct` (R270): `t` the table, `w` the well rows. The skip word of a list that ends at byte 2^24 lies at LSA 0 (log 151,
DESIGN CHOICE). -/
def draftRows (s : State) (form : Nat) (add : Bool) (t w c x : Nat) : Option Draft :=
  let cw := s.sphReg x c 0
  let ix := (s.sphReg x c 1).toNat
  let len := ctlLen cw
  let rows := bits ix 40 24
  let sk := bitAt ix 39
  let n := bits ix 24 13
  let va := sideAddr 1 (s.sphReg x t 0)
  let lsa := sideAddr 0 (s.sphReg x w 0)
  let isz := if bits ix 37 2 = 2 then 4 else 8
  let skip := (ix % 2 ^ 24 + n * isz) % 2 ^ 24
  if !ctlOk cw || len % 8 != 0 || len < 8 || 65536 < len || (add && len % 40 != 0) || 2 ^ 26 < n * len || va % 8 != 0 ||
      lsa % 8 != 0 || rows == 0 || n == 0 || 4096 < n || bits ix 37 2 < 2 then none
  else some {
    cmd := { s.newCmd form (n * len + (if sk then 4 else 0)) cw with
      add := add, sv := form == 1, dv := form == 2
      src := if form = 1 then va else lsa
      dst := if form = 1 then lsa else va
      skipAt := if sk then some skip else none }
    lsas := [(lsa, n * len, 1, form == 1), (ix % 2 ^ 24, n * isz, isz, false)] ++
      (if sk then [(skip, 4, 1, true)] else [])
    list := some (ix % 2 ^ 24, n, isz, rows) }

/-! ### The index list (R271) -/

/-- The entries of an index list that name rows, as (entry, row); an entry whose index is uncorrectable names none. -/
def State.listRows (s : State) (place isz rows : Nat) (n : Nat) : List (Nat × Nat) :=
  (upTo n).filterMap fun k =>
    let j := natOfBytes (s.coreRead s.cur (place + k * isz) isz)
    if s.coreBad s.cur (place + k * isz) isz || rows ≤ j then none else some (k, j)

/-- The number of skipped entries. -/
def State.listSkips (s : State) (place isz rows : Nat) (n : Nat) : Nat :=
  ((upTo n).filter fun k => !s.coreBad s.cur (place + k * isz) isz &&
    rows ≤ natOfBytes (s.coreRead s.cur (place + k * isz) isz)).length

/-- The entries whose index is uncorrectable (R259). -/
def State.listBad (s : State) (place isz : Nat) (n : Nat) : List Nat :=
  (upTo n).filter fun k => s.coreBad s.cur (place + k * isz) isz

/-- Table rows in list order: entry number in the stream, row. -/
def tablePieces (va len : Nat) (rows : List (Nat × Nat)) : List (Nat × Nat × Nat) :=
  rows.zipIdx.flatMap fun e => piecesOf (e.2 * len) ((va + e.1.2 * len) % 2 ^ 56) len

/-- Well rows in list order. -/
def wellPieces (lsa len : Nat) (rows : List (Nat × Nat)) : List (Nat × Nat × Nat) :=
  rows.zipIdx.map fun e => (e.2 * len, len, (lsa + e.1.1 * len) % 2 ^ 24)

/-- The read of the index list corrects the single-bit errors it meets, as a core-path load does (R271, R219). -/
def Draft.readList (d : Draft) (s : State) : State :=
  match d.list with
  | none => s
  | some (lsa, n, isz, _) => s.coreCorrect s.cur ((s.resolve s.cur lsa (n * isz) isz).getD 0) (n * isz)

/-- Read the index list at acceptance. -/
def Draft.finish (s : State) (d : Draft) : SphCmd :=
  match d.list with
  | none => d.cmd
  | some (lsa, n, isz, rows) =>
    let r := d.cmd
    let p := (s.resolve s.cur lsa (n * isz) isz).getD 0
    let l := s.listRows p isz rows n
    let tbl := tablePieces (if r.sv then r.src else r.dst) r.len l
    let wel := wellPieces (if r.sv then r.dst else r.src) r.len l
    let bad := s.listBad p isz n
    { r with
      stream := l.length * r.len
      skips := s.listSkips p isz rows n
      skipAt := r.skipAt.bind fun a => s.resolve s.cur a 4 1
      sVas := if r.sv then tbl else wel
      dVas := if r.sv then wel else tbl
      errFirst := bad.head?.map fun k => lsa + k * isz
      errCount := bad.length * isz }

/-! ### Translating the sides (R242, steps 6 to 8) -/

/-- The outcome of translating a command's sides: cause and address, or a refused page. -/
inductive Sides where
  | ok (src dst : List (Nat × Nat × Nat)) (s : State)
  | fail (cause va : Nat) (s : State)
  | refused (va : Nat) (s : State)

/-- Translate the pieces of one side in order, a walk that fails with its single-bit errors corrected (R391); an exact add may not reach
host memory (R256). -/
def xlSide (c : Nat) (rev : Revision) (wr noHost : Bool) :
    List (Nat × Nat × Nat) → State → Except (Nat × Nat × State) (List (Nat × Nat × Nat) × State)
  | [], s => .ok ([], s)
  | (o, l, a) :: r, s =>
    match s.xlate false c rev a wr with
    | .error k => .error (k, a, s.missed false c rev a wr)
    | .ok (p, t) =>
      if noHost && zoneOf p == .host then .error (5, 0, t)
      else match xlSide c rev wr noHost r t with
        | .error e => .error e
        | .ok (q, u) => .ok ((o, l, p) :: q, u)

/-- Copy and mark destination pages in ascending order (R248), each walk with its single-bit errors corrected (R391); a page the
reserve refuses. -/
def ownPages (rev : Revision) : List Nat → State → Except (Nat × State) State
  | [], s => .ok s
  | p :: r, s =>
    let s := s.correctWalk rev.table (p * 65536)
    match s.ownPage rev (p * 65536) with
    | none => .error (p * 65536, s)
    | some t => ownPages rev r t

/-- The places of a local side. -/
def localPlaces (s : State) (c : Nat) (l : List (Nat × Nat × Nat)) : List (Nat × Nat × Nat) :=
  l.map fun p => (p.1, p.2.1, (s.resolve c p.2.2 p.2.1 1).getD 0)

/-- The places of both sides of a command of context c; its destination pages are copied and marked when `own`. -/
def SphCmd.places (r : SphCmd) (own : Bool) (c : Nat) (s : State) : Sides :=
  let rev := s.revOf c
  let noHost := r.form == 3 || r.add
  match (if r.sv then xlSide c rev false false r.sVas s else .ok (localPlaces s c r.sVas, s)) with
  | .error (k, va, t) => .fail k va t
  | .ok (sp, s1) =>
    if !r.dv then
      (if r.form == 3 && touches sp (localPlaces s1 c r.dVas) then .fail 5 0 s1 else .ok sp (localPlaces s1 c r.dVas) s1)
    else match xlSide c rev true noHost r.dVas s1 with
      | .error (k, va, t) => .fail k va t
      | .ok (dp, s2) =>
        if r.form == 3 && touches sp dp then .fail 5 0 s2
        else if !own then .ok sp dp s2
        else match ownPages rev (ascending (r.dVas.map fun p => p.2.2 / 65536)) s2 with
          | .error (va, t) => .refused va t
          | .ok s3 => match xlSide c rev true noHost r.dVas s3 with
            | .error (k, va, t) => .fail k va t
            | .ok (dp, s4) => .ok sp dp s4

/-! ### Acceptance (R242) -/

/-- The outcome of an acceptance: accepted, a trap, or a stall; what it changed outside the context stays. -/
inductive Accept where
  | ok (s : State)
  | trap (t : Trap) (s : State)
  | wait (s : State)

/-- The lowest free pending-record index (R267). -/
def Ctx.freeIndex (x : Ctx) : Nat := ((upTo 32).find? fun i => !(x.records.any fun r => r.idx == i)).getD 0

/-- The first local side that fails step 3. -/
def Draft.badSide (d : Draft) (s : State) : Option Nat :=
  (d.lsas.find? fun l => (s.resolve s.cur l.1 l.2.1 l.2.2.1).isNone).map Prod.fst

/-- The first local side that fails step 4. -/
def Draft.outside (d : Draft) (s : State) : Option Nat :=
  (d.lsas.find? fun l => !s.inSets s.cur 1 l.2.2.2 l.1 l.2.1).map Prod.fst

/-- The detail of a TGT that names no context of the gang. -/
def SphCmd.badTarget (r : SphCmd) (s : State) : Option Nat :=
  match r.post with
  | none => none
  | some (gi, _, _) => match postTarget s gi with
    | .ok _ => none
    | .error k => some k

/-- The fence byte of a command: the paths of the markers to siphon set since the previous command (R266). -/
def Arch.freshByte (x : Arch) : Nat :=
  x.marks.foldl (fun n m => if m.pb == 1 && m.fresh then n ||| 2 ^ (m.pa % 8) else n) 0

/-- A command is accepted: the next one's fence byte counts from here. -/
def Arch.spendMarks (x : Arch) : Arch :=
  { x with marks := x.marks.map fun m => if m.pb == 1 then { m with fresh := false } else m }

/-- The number of a command in acceptance order: an acceptance that was refused has taken it already. -/
def SphCmd.place (r : SphCmd) (x : Ctx) : Nat := if r.refusals = 0 then x.acceptSeq else r.order

/-- Step 9: counters, pending record, gate. Refusals at a later commit (R400) are counted anew (log 122). -/
def State.takeIn (s : State) (r : SphCmd) : State :=
  let x := s.me
  let r := { r with
    idx := x.freeIndex, seq := x.opSeq, order := r.place x, fences := x.a.fencesFor 1, marker := x.a.freshByte, st := .held
    refusals := 0 }
  (s.updMe fun x => { x with
    records := x.records ++ [r], cSph := x.cSph + 1, cByte := x.cByte + BitVec.ofNat 32 r.total
    acceptSeq := max x.acceptSeq (r.order + 1), draft := none, a := { x.a.spendMarks with lastRec := some r.idx } }).gateAdd
      (.sph r.idx)

/-- An acceptance whose page the reserve refuses: a kind-3 record, which must be written before the command completes, and a
back-off (R252, R254). -/
def State.refuseAccept (s : State) (r : SphCmd) (va : Nat) : State :=
  let q := { r with order := r.place s.me, refusals := r.refusals + 1, recs := r.recs + 1, st := .waitFrame }
  (s.offerSph s.cur 3 1 q 0xFFFF va q.refusals true).updMe fun x => { x with
    draft := some q, acceptSeq := max x.acceptSeq (q.order + 1) }

/-- Steps 5 to 9 for a command whose operands are read. Where the walk meets an uncorrectable table entry the acceptance takes the machine
check of class "siphon" at once, in slot 1, with the index of the record it would have taken (log 32, DEDUCED). -/
def acceptRest (r : SphCmd) (s : State) : Accept :=
  if 32 ≤ s.me.records.length then .wait s.stallNow
  else match r.places true s.cur s with
    | .fail k va t => .trap (if k = 6 then t.trapHere 1 0x0A (mcDetail 3 t.me.freeIndex) else t.trapHere 1 6 (k * 2 ^ 56 + va)) t
    | .refused va t => .wait (t.refuseAccept r va).stallNow
    | .ok sp dp t => .ok (t.takeIn { r with sPlaces := sp, dPlaces := dp })

/-- An index list is read as a core-path load reads: after the accesses an `xf` to core names (R87, R271). -/
def Draft.listReady (d : Draft) (s : State) : Bool := d.list.isNone || coreReady s

/-- Acceptance. A draft kept over a refusal runs steps 6 to 8 again once its back-off has expired (R254). -/
def accept (d : Option Draft) (s : State) : Accept :=
  match s.me.draft with
  | some r => if r.st == .waitFrame then .wait s.stallNow else acceptRest r s
  | none => match d with
    | none => .trap (s.trapHere 1 6 (5 * 2 ^ 56)) s
    | some d =>
      if !d.listReady s then .wait s.stallNow
      else match d.badSide s with
        | some lsa => .trap (s.trapHere 1 3 lsa) s
        | none => match d.cmd.badTarget s with
          | some k => .trap (s.trapHere 1 3 k) s
          | none => match d.outside s with
            | some lsa => .trap (s.trapHere 1 4 (setDetail 1 lsa)) s
            | none => acceptRest (d.finish s) (d.readList s)

/-- An acceptance as the meaning of its instruction, under its guard. -/
def runAccept (g : Nat) (d : State → Option Draft) (s : State) : Out :=
  if s.me.a.rP g then
    match accept (d s) s with
    | .ok t => .next t
    | .trap e t => .next (takeTrap e t)
    | .wait t => .next t
  else .next s

/-- `sph.cp` (R268). -/
def execSphCp (g d src c x u v : Nat) (s : State) : Out := runAccept g (fun s => draftCp s d src c x u v) s
/-- `sph.gth` (R270, R271). -/
def execSphGth (g d t c x : Nat) (s : State) : Out := runAccept g (fun s => draftRows s 1 false t d c x) s
/-- `sph.sct` (R270, R271). -/
def execSphSct (g t src c x : Nat) (s : State) : Out := runAccept g (fun s => draftRows s 2 false t src c x) s
/-- `sph.sct.add` (R270, R271). -/
def execSphSctAdd (g t src c x : Nat) (s : State) : Out := runAccept g (fun s => draftRows s 2 true t src c x) s
/-- `sph.red` (R268). -/
def execSphRed (g d src c x u v : Nat) (s : State) : Out := runAccept g (fun s => draftRed s d src c x u v) s
/-- `sph.fill` (R268). -/
def execSphFill (g d p c x v : Nat) (s : State) : Out := runAccept g (fun s => draftFill s d p c x v) s
/-- `sph.atom` (R272). -/
def execSphAtom (g d t c x o : Nat) (s : State) : Out := runAccept g (fun s => draftAtom s d t c x o) s
/-- `sph.pre` (R268). -/
def execSphPre (g src c x : Nat) (s : State) : Out := runAccept g (fun s => draftPre s src c x) s
/-- `sph.imm` (R268). -/
def execSphImm (g d v c x w : Nat) (s : State) : Out := runAccept g (fun s => draftImm s d v c x w) s

/-! ### `sph.cnl` and `sph.stat` (R273, R274) -/

/-- `sph.cnl` (R273). -/
def execSphCnl (g a l x : Nat) (s : State) : Out :=
  run g s fun s =>
    let m := (s.aReg x a).toNat
    s.cancel s.cur fun i => l == 1 || bitAt m i

/-- The records of a context in a state, as bits. -/
def Ctx.recordBits (x : Ctx) (p : SphCmd → Bool) : Nat :=
  x.records.foldl (fun n r => if p r then n ||| 2 ^ (r.idx % 32) else n) 0

/-- `sph.stat` (R274); sel 0 reads 0 in a DET task (R357). -/
def execSphStat (g d sel x : Nat) (s : State) : Out :=
  run g s fun s =>
    let r := match sel with
      | 0 => if s.isDet s.cur then 0 else s.me.recordBits fun r => r.st != .held
      | 1 => s.me.recordBits fun r => r.st == .held
      | _ => match s.me.a.lastRec with
        | some i => 32 + i % 32
        | none => 0
    s.landA 1 (s.me.a.bA x d) (word r) 2

end Sys2Proof.Machine
end

