-- ==== Sys2Proof/Machine/SiphonMove.lean ====
section
/-! DEFINITION. Moving the bytes of siphon commands: order (R87, R88), reads and the read buffer (R89), each form
(R255, R256, R258, R268, R271, R272), uncorrectable reads (R259, R386), translation at commit (R400), completion (R91),
quiescing and re-issue (R261, R263). -/

namespace Sys2Proof.Machine

/-- A command's record by index. -/
def Ctx.sphRec (x : Ctx) (k : Nat) : Option SphCmd := x.records.find? fun r => r.idx == k

/-- Replace a command's record. -/
def State.putRec (s : State) (c : Nat) (r : SphCmd) : State :=
  s.updCtx c fun x => { x with records := x.records.map fun q => if q.idx == r.idx then r else q }

/-- A command leaves its record. -/
def State.dropRec (s : State) (c k : Nat) : State :=
  s.updCtx c fun x => { x with records := x.records.filter fun q => q.idx != k }

/-! ### Order (R88) -/

/-- What a command has still to write: pieces of places. -/
def SphCmd.toWrite (r : SphCmd) : List (Nat × Nat × Nat) :=
  clip r.dPlaces r.done (r.stream - r.done) ++
  (if r.form = 5 && r.done == 0 then r.sPlaces else []) ++
  (match r.skipAt with
    | some p => if 0 < r.left then [(0, 4, p)] else []
    | none => [])

/-- Bytes moved at once: an element, an atomic's word, or at most 128 bytes (R255). A plain scatter of rows that can hold
40-byte elements cuts none of them (R275). -/
def SphCmd.chunk (r : SphCmd) : Nat :=
  min (r.stream - r.done) (if r.form = 3 || r.add then 40 else if r.form = 5 then r.stream
    else if r.form = 2 && r.len % 40 = 0 then 120 else 128)

/-- An overlapping copy, which reads its whole source first (R268). -/
def SphCmd.overlapping (r : SphCmd) : Bool := r.form == 0 && touches r.sPlaces r.dPlaces

/-- The places the next part of a command reads or writes. -/
def SphCmd.footprint (r : SphCmd) : List (Nat × Nat × Nat) :=
  let n := r.chunk
  if r.stream ≤ r.done then (match r.skipAt with
    | some p => [(0, 4, p)]
    | none => [])
  else if !r.begun && r.overlapping then r.sPlaces ++ clip r.dPlaces r.done n
  else clip r.sPlaces r.done n ++ clip r.dPlaces r.done n

/-! ### What a pre-emption saves (R261) -/

/-- A command that a pre-emption saves: restartable and contiguous (R261). -/
def SphCmd.savable (r : SphCmd) : Bool := r.form == 0 || r.form == 4 || r.form == 7 || r.form == 9

/-- The skip word an indexed command writes. -/
def SphCmd.skipPiece (r : SphCmd) : List (Nat × Nat × Nat) := match r.skipAt with
  | some p => [(0, 4, p)]
  | none => []

/-- A later command depends on this one (R88): it writes bytes this one writes, or reads bytes this one writes. -/
def SphCmd.neededBy (r q : SphCmd) : Bool :=
  r.order < q.order && touches r.dPlaces (q.dPlaces ++ q.sPlaces ++ q.skipPiece)

/-- Commands that run on to completion, grown until no further one is added. -/
def keepRunning (l : List SphCmd) : Nat → List SphCmd → List SphCmd
  | 0, k => k
  | n + 1, k => keepRunning l n (l.filter fun r => k.any fun q => q.idx == r.idx || r.neededBy q)

/-- The commands a quiescing context saves, in acceptance order: one whose bytes are all performed completes (R261). -/
def Ctx.savedCmds (x : Ctx) : List SphCmd :=
  let run := keepRunning x.records x.records.length (x.records.filter fun r => !r.savable || r.keep || r.moved)
  x.records.filter fun r => !(run.any fun q => q.idx == r.idx)

/-- Every context of a step has stopped or exited. -/
def State.allStopped (s : State) (k : Step) : Bool :=
  k.nums.all fun c => (s.ctx c).cond == .stopped || (s.ctx c).cond == .exited

/-- The siphon quiesces the context: a pre-emption was asked of its step, and every context of the gang has stopped or exited (R343). -/
def State.quiescing (s : State) (c : Nat) : Bool := (s.stepOf c).any fun k => k.asked.isSome && s.allStopped k

/-- The command may move its next part: committed, its fences done, every earlier command begun, no earlier command's
bytes in its way (R87, R88). A quiescing context starts no new byte of a command it saves (R261). -/
def State.mayMove (s : State) (c : Nat) (r : SphCmd) : Bool :=
  let held := if s.quiescing c then (s.ctx c).savedCmds.map SphCmd.idx else []
  r.st == .committed && !r.stale && !r.moved && s.fencesDone c r.fences && !held.contains r.idx &&
  (s.ctx c).records.all fun q =>
    q.order ≥ r.order || ((q.begun || q.moved || held.contains q.idx) && !touches q.toWrite r.footprint)

/-! ### Reads -/

/-- The line of a place in a cistern's read buffer. -/
def State.line (s : State) (c p : Nat) : Option (List Byte) :=
  ((s.cis (cisOf c)).lines.find? fun l => l.1 == p / 64).map Prod.snd

/-- One byte as a command of the context reads it; none where it is uncorrectable or lost. Below `scope=dev` the read
buffer may serve it: whether it does is free (R89, log 3). -/
def State.sphByte (s : State) (c scope p : Nat) : Option Byte :=
  match (if zoneOf p == .device && scope < 2 && Config.freeChoice s.freeCount % 2 == 1 then s.line c p else none) with
  | some l => some (l.getD (p % 64) 0)
  | none => if s.unreadable p 1 then none else some (memRead s.mem p)

/-- Put the device-memory lines of places into the cistern's read buffer. -/
def State.refill (s : State) (c : Nat) (places : List Nat) : State :=
  let lines := (places.filterMap fun p => if zoneOf p == .device then some (p / 64) else none).eraseDups
  s.updCis (cisOf c) fun u => { u with
    lines := lines.foldl (fun l n =>
      if s.badIn (64 * n) 64 then l else (n, s.read (64 * n) 64) :: l.filter fun e => e.1 != n) u.lines }

/-- Note uncorrectable bytes or elements (R259). -/
def SphCmd.noteErr (r : SphCmd) (addr n : Nat) : SphCmd :=
  if n = 0 then r else { r with errFirst := some (r.errFirst.getD addr), errCount := r.errCount + n }

/-- Note a bad pair of elements (R258). -/
def SphCmd.noteBad (r : SphCmd) (addr : Nat) : SphCmd :=
  { r with badFirst := some (r.badFirst.getD addr), badCount := r.badCount + 1 }

/-- Bytes performed: they leave `c.byte` (R85); with the last of them a machine check may fall due (R259). -/
def State.perform (s : State) (c : Nat) (r : SphCmd) (n : Nat) : State :=
  (s.putRec c { r with done := r.done + n, left := r.left - n }).updCtx c fun x =>
    Ctx.dueCheck { x with cByte := minusSat x.cByte n } r.idx

/-! ### Each form -/

/-- The source bytes of the next `n` of a command. -/
def SphCmd.source (r : SphCmd) (s : State) (c n : Nat) : List (Option Byte) :=
  match r.form with
  | 4 => (upTo n).map fun i => some (BitVec.ofNat 8 (r.opnd / 2 ^ (8 * ((r.done + i) % 8))))
  | 9 => (upTo n).map fun i => some (BitVec.ofNat 8 (r.opnd / 2 ^ (8 * (r.done + i))))
  | _ => match r.snap with
    | some l => (l.drop r.done).take n
    | none => (placesOf r.sPlaces r.done n).map fun p => s.sphByte c r.scope p

/-- Plain bytes: those that depend on an unreadable byte, or go to a lost device, stay unwritten. -/
def moveBytes (c : Nat) (r : SphCmd) (s : State) : State :=
  let n := r.chunk
  let src := r.source s c n
  let dst := placesOf r.dPlaces r.done n
  let cells := (dst.zip src).filterMap fun e => match e.2 with
    | some b => if s.lost e.1 then none else some (e.1, b)
    | none => none
  let bad := (dst.zip src).zipIdx.filter fun e => e.1.2.isNone || s.lost e.1.1
  let addr := match bad.head? with
    | some e => addrAt (if e.1.2.isNone then r.sVas else r.dVas) (r.done + e.2)
    | none => 0
  let ps := placesOf r.sPlaces r.done n
  let t := if r.snap.isNone && 0 < r.sPlaces.length then (s.correctBytes ps).refill c ps else s
  let u := t.store cells
  State.perform { u with freeCount := u.freeCount + 1 } c (r.noteErr addr bad.length) n

/-- One exact-transport element (R256, R258). -/
def moveElement (c : Nat) (r : SphCmd) (s : State) : State :=
  let src := placesOf r.sPlaces r.done 40
  let dst := placesOf r.dPlaces r.done 40
  if src.any fun p => s.unreadable p 1 then (s.correctBytes src).perform c (r.noteErr (addrAt r.sVas r.done) 1) 40
  else if dst.any fun p => s.unreadable p 1 then (s.correctBytes (src ++ dst)).perform c (r.noteErr (addrAt r.dVas r.done) 1) 40
  else
    let val := fun (l : List Nat) => natOfBytes (l.map fun p => memRead s.mem p)
    let q := exactAdd (val dst) (val src)
    let r1 := if q.2 then r.noteBad (addrAt r.dVas r.done) else r
    ((((s.correctBytes (src ++ dst)).refill c src).store (dst.zip (bytesOfNat 40 q.1)))).perform c r1 40

/-- The new word of `sph.atom` (R272). -/
def sphAtomNew (op w old y z : Nat) : Nat :=
  match op with
  | 0 => (old + y) % 2 ^ w
  | 1 => if sext w y < sext w old then y else old
  | 2 => if sext w old < sext w y then y else old
  | 3 => y
  | 4 => if old == z then y else old
  | 5 => if y < old then y else old
  | _ => if old < y then y else old

/-- One atomic at its point of coherence; the old value goes to the well word. -/
def moveAtom (c : Nat) (r : SphCmd) (s : State) : State :=
  let n := r.stream
  let word := placesOf r.dPlaces 0 n
  if word.any fun p => s.unreadable p 1 then s.perform c (r.noteErr (addrAt r.dVas 0) n) n
  else
    let old := natOfBytes (word.map fun p => memRead s.mem p)
    let new := sphAtomNew r.op (8 * n) old r.opnd r.opnd2
    (((s.correctBytes word).store (word.zip (bytesOfNat n new))).store ((placesOf r.sPlaces 0 n).zip (bytesOfNat n old))).perform
      c r n

/-- The next lines of `sph.pre`: those of the device's own memory are read into the read buffer, and unreadable bytes among
them noted (R259); of other pages nothing is read (R268). -/
def moveLines (c : Nat) (r : SphCmd) (s : State) : State :=
  let all := placesOf r.sPlaces r.done r.chunk
  let ps := all.filter fun p => zoneOf p == .device
  let bad := all.zipIdx.filter fun e => zoneOf e.1 == .device && s.unreadable e.1 1
  let addr := match bad.head? with
    | some e => addrAt r.sVas (r.done + e.2)
    | none => 0
  ((s.correctBytes ps).refill c ps).perform c (r.noteErr addr bad.length) r.chunk

/-- The bytes of an overlapping copy's source, all read before it writes (R268). -/
def SphCmd.taken (r : SphCmd) (s : State) (c : Nat) : SphCmd :=
  { r with
    begun := true
    snap := if r.overlapping then some ((placesOf r.sPlaces 0 r.stream).map fun p => s.sphByte c r.scope p) else none }

/-- The next part of a command. -/
def moveNext (c : Nat) (r : SphCmd) (s : State) : State :=
  if r.stream ≤ r.done then
    let cells := match r.skipAt with
      | some p => cellsAt p (bytesOfNat 4 r.skips)
      | none => []
    ((s.store cells).putRec c { r with left := 0, begun := true }).updCtx c fun x =>
      Ctx.dueCheck { x with cByte := minusSat x.cByte r.left } r.idx
  else
    let ps := placesOf r.sPlaces 0 r.stream
    let t := if !r.begun && r.overlapping then (s.correctBytes ps).refill c ps else s
    let r := if r.begun then r else r.taken s c
    match r.form with
    | 3 => moveElement c r t
    | 5 => moveAtom c r t
    | 7 => moveLines c r t
    | _ => if r.add then moveElement c r t else moveBytes c r t

/-! ### Translation again at commit (R400) -/

/-- A command leaves as by cancellation: its remainder leaves the counters, no post. -/
def State.cancelRec (s : State) (c : Nat) (r : SphCmd) : State :=
  (s.dropRec c r.idx).updCtx c fun x => { x with cSph := minusSat x.cSph 1, cByte := minusSat x.cByte r.left }

/-- Steps 6 to 8 again for a committed command whose revision was invalidated while it was held. The command completes
only once the records of its refusals are written (R252). Where step 6 fails with cause 0x05, which concerns no one page, the
record's address is 0, as in the detail of R243 (log 120). A command it cancels still reports what its index list met (R259), with a
check of its own beside the one of the failure. -/
def retranslate (c : Nat) (r : SphCmd) (s : State) : State :=
  match r.places true c s with
  | .ok sp dp t => t.putRec c { r with sPlaces := sp, dPlaces := dp, stale := false }
  | .refused va t =>
    (t.offerSph c 3 1 r r.idx va (r.refusals + 1) true).putRec c { r with
      refusals := r.refusals + 1, st := .waitFrame, recs := r.recs + 1 }
  | .fail _ va t =>
    (((t.reportCancelled c r).offerSph c 2 3 r r.idx va r.left false).cancelRec c r).updCtx c fun x =>
      if x.cond == .absent then x else x.siphonCheck r [0, 1]

/-- The command can act at all: it moves, or translates again. -/
def State.sphReady (s : State) (c : Nat) (r : SphCmd) : Bool := s.mayMove c r || (r.st == .committed && r.stale)

/-- SIPHON_TRANSFER (R255): command `arg.k` of context `arg.c` moves its next part. -/
def execSiphonTransfer (s : State) : Out :=
  .next (match (s.ctx s.arg.c).sphRec s.arg.k with
    | none => s
    | some r =>
      if r.st == .committed && r.stale then retranslate s.arg.c r s
      else if s.mayMove s.arg.c r then moveNext s.arg.c r s
      else s)

/-- RESERVE_REFUSAL_RETRY (R254): the back-off of command `arg.k` of context `arg.c` expires, or with `arg.ok` false that
of the context's acceptance. -/
def execReserveRefusalRetry (s : State) : Out :=
  .next (s.updCtx s.arg.c fun x =>
    if s.arg.ok then { x with records := x.records.map fun r =>
      if r.idx == s.arg.k && r.st == .waitFrame then { r with st := .committed } else r }
    else { x with draft := x.draft.map fun r => { r with st := .held } })

/-! ### Completion (R91, R252, R258, R259) -/

/-- The records a command offers before it completes; of both kinds the one with cause 0x01 is formed first (log 150, DESIGN CHOICE). -/
def State.offerOwn (s : State) (c : Nat) (r : SphCmd) : State :=
  let s1 := match r.badFirst with
    | some a => s.offerSph c 2 1 r r.idx a r.badCount true
    | none => s
  match r.errFirst with
  | some a => s1.offerSph c 2 2 r r.idx a r.errCount true
  | none => s1

/-- The command completes: its record is freed, `c.sph` falls, so that a `waitc` on it sees a machine check of the command (R259),
its flag is posted. A command it depended on may not run again from its first byte (log 90). -/
def completeSph (c : Nat) (r : SphCmd) (s : State) : State :=
  let s1 := (s.dropRec c r.idx).updCtx c fun x => { x.watchOn r.seq 0 with
    cSph := minusSat x.cSph 1, records := x.records.map fun q => { q with keep := q.keep || q.neededBy r } }
  match r.post with
  | none => s1
  | some (gi, f, n) => match s1.postGoal c gi with
    | some t => { s1 with posts := s1.posts ++ [{ src := some (c, (s1.ctx c).opSeq, []), c := t, f := f, n := n }] }
    | none => s1

/-- SIPHON_COMPLETE (R241): command `arg.k` of context `arg.c`, every byte performed, offers its records and then completes. -/
def execSiphonComplete (s : State) : Out :=
  .next (match (s.ctx s.arg.c).sphRec s.arg.k with
    | none => s
    | some r =>
      if r.st != .committed || r.stale || !r.moved then s
      else
        let n := ofBool r.badFirst.isSome + ofBool r.errFirst.isSome
        if 0 < n && !r.offered then (s.putRec s.arg.c { r with recs := r.recs + n, offered := true }).offerOwn s.arg.c r
        else if 0 < r.recs then s
        else completeSph s.arg.c r s)

/-! ### Quiescing and re-issue (R261 to R263) -/

/-- The siphon has quiesced the context: only commands that are saved are left, and each of them has its translation, so that
its destination pages are its own before it is issued again without a copy (R261, R263, R400). -/
def Ctx.quiet (x : Ctx) : Bool :=
  x.records.length == x.savedCmds.length && x.records.all fun r => r.st == .committed && !r.stale

/-- The fences a record's fence byte names: the context's earlier accesses on those paths (R262). -/
def fencesOfByte (b seq : Nat) : List Fence := ((upTo 5).filter fun n => bitAt b n).map fun n => { path := n, seq := seq }

/-- Every local side of a command lies in an allocation of context c's gang. -/
def SphCmd.sidesResolve (r : SphCmd) (c : Nat) (s : State) : Bool :=
  (r.sv || r.sVas.all fun p => (s.resolve c p.2.2 p.2.1 1).isSome) && (r.dv || r.dVas.all fun p => (s.resolve c p.2.2 p.2.1 1).isSome)

/-- A pending record of an image as a committed command of context c (R262, R263); none when its translation fails, or a local
side lies in no allocation of the gang (log 111). A form code or a length that no saved command has breaks no image: the record is issued
as it stands, its length modulo 2^27 (log 149, DESIGN CHOICE). `was` is the command it was saved from: the new one keeps its place among the
context's operations. -/
def State.reissue (s : State) (c p idx : Nat) (was : Option SphCmd) : Option State :=
  let status := s.readNat (p + 1) 1
  let form := s.readNat p 1
  let n := s.readNat (p + 24) 8 % 2 ^ 27
  let sv := ofBool (bitAt status 4)
  let dv := ofBool (bitAt status 5)
  let post := s.readNat (p + 3) 1
  let tgt := s.readNat (p + 4) 1
  let src := if form = 4 || form = 9 then none else some (s.readNat (p + 8) 8 % (if sv = 1 then 2 ^ 56 else 2 ^ 24))
  let dst := if form = 7 then none else some (s.readNat (p + 16) 8 % (if dv = 1 then 2 ^ 56 else 2 ^ 24))
  let x := s.ctx c
  let r : SphCmd := {
    idx := idx, form := form, add := bitAt status 3, scope := bits status 1 2, st := .committed
    seq := (was.map SphCmd.seq).getD x.opSeq, pc := (was.map SphCmd.pc).getD x.pc, marker := s.readNat (p + 2) 1
    fences := fencesOfByte (s.readNat (p + 2) 1) ((was.map SphCmd.seq).getD x.opSeq), order := x.acceptSeq
    post := if bitAt post 7 then some (bits tgt 0 4, bits post 0 5, bits tgt 4 4 + 1) else none
    len := n, total := n, left := n, stream := n, opnd := s.readNat (p + 32) 8 }
  if !(r.withSides sv dv src dst).sidesResolve c s then none
  else match (r.withSides sv dv src dst).places false c s with
  | .ok sp dp t => some (t.updCtx c fun x => { x with
      records := x.records ++ [{ r.withSides sv dv src dst with sPlaces := sp, dPlaces := dp }]
      acceptSeq := x.acceptSeq + 1 })
  | _ => none

/-- Re-issue the records of an image, in order; `saved` are the commands they were saved from. -/
def State.reissueAll (s : State) (c area : Nat) (saved : List SphCmd) : Nat → Option State
  | 0 => some s
  | n + 1 => (s.reissueAll c area saved n).bind fun t => t.reissue c (area + 0x600 + 64 * n) n saved[n]?

end Sys2Proof.Machine
end

