-- ==== Sys2Proof/Machine/Stream.lean ====
section
/-! DEFINITION. Stream instructions (R303, R323 to R327). -/

namespace Sys2Proof.Machine

/-! ### The unit (R323) -/

/-- Further wait cycles for a pair count. -/
def streamWait (n : Nat) : Nat := (n + 31) / 32 - 1

/-- The stream unit serves the tile's other context: it waits for its pairs, or it has issued in the present cycle. -/
def State.unitBusy (s : State) : Bool :=
  ((s.ctx (otherCtx s.cur)).cond == .running && (s.ctx (otherCtx s.cur)).strWait.isSome) || (s.tile (tileOf s.cur)).strBusy

/-- A stream instruction: `ready` is its fence wait, `n` its pair count, `f` its act once the unit has served it. -/
def streamRun (g : Nat) (s : State) (ready : State → Bool) (n : State → Nat) (f : State → Except Trap State) : Out :=
  let go := fun (_ : Unit) => match f (s.updMe fun x => { x with strWait := none }) with
    | .ok t => Host.Outcome.next t
    | .error e => .next (takeTrap e s)
  if !s.me.a.rP g then .next s
  else match s.me.strWait with
    | some 0 => go ()
    | some (k + 1) => .next (s.stallNow.updMe fun x => { x with strWait := some k })
    | none =>
      if !ready s || s.unitBusy then .next s.stallNow
      else match streamWait (n s) with
        | 0 => go ()
        | k + 1 => .next (s.stallNow.updMe fun x => { x with strWait := some k })

/-- A well access of the unit waits for an `xf` to array (R323). -/
def arrayReady (s : State) : Bool := s.fencesDone s.cur (s.me.a.fencesFor 3)

/-! ### Pairs (R303) -/

def pairKey (x : Word) : Nat := bits x.toNat 0 32
def pairVal (x : Word) : Nat := bits x.toNat 32 32
def mkPair (k v : Nat) : Word := word (k + v * 2 ^ 32)

/-- Keys strictly ascending. -/
def keysAscend : List Word → Bool
  | x :: y :: r => pairKey x < pairKey y && keysAscend (y :: r)
  | _ => true

/-- A stream register. -/
def State.zReg (s : State) (n : Nat) : List Word := vget s.me.a.z n

/-! ### `zld`, `zst` (R324) -/

/-- A range of pairs; a misaligned one takes the bounds trap, for `zld` as for `zst` (log 154, DEDUCED). An empty one is in no set, and its
address is checked all the same when `always` (R324, log 46). -/
def pairSide (s : State) (wr always : Bool) (lsa n : Nat) : Except Trap Nat :=
  if n != 0 then s.side 3 wr lsa (8 * n) 8
  else if always && (s.resolve s.cur lsa 0 8).isNone then .error (s.trapHere 3 3 lsa)
  else .ok 0

/-- `zld` (R324). All its bytes are read in the issue cycle (log 127). Where a granule of them is uncorrectable the keys are checked as they
stand, and a machine check of class "well" is taken as the result lands (log 140, DEDUCED). -/
def execZld (g z a b x : Nat) (s : State) : Out :=
  streamRun g s arrayReady (fun s => (s.aReg x b).toNat) fun s => do
    let n := (s.aReg x b).toNat
    let lsa := lsaOf (s.aReg x a)
    if 4096 < n then .error (s.matTrap 8)
    let p ← pairSide s false false lsa n
    let l := (upTo n).map fun k => word (s.readNat (p + 8 * k) 8)
    if !keysAscend l then .error (s.matTrap 0x0C)
    .ok ((s.correct p (8 * n)).landP {
      file := .z, reg := z, val := .pairs l, left := 8, slot := 3, seq := 0, pc := 0
      bad := if s.badIn p (8 * n) then some lsa else none })

/-- `zst` (R324): not gated. The n of its wait is the number of its pairs, which R324 does not say (log 142, DEDUCED). -/
def execZst (g z a x : Nat) (s : State) : Out :=
  streamRun g s arrayReady (fun s => (s.zReg z).length) fun s => do
    let l := s.zReg z
    let p ← pairSide s true true (lsaOf (s.aReg x a)) l.length
    .ok (s.store (cellsAt p (l.flatMap fun w => bytesOfNat 8 w.toNat)))

/-! ### Merges (R325) -/

/-- The value of a key in both operands, with its flags. -/
def bothVal (v : FEnv) (vo va vb : Nat) : Nat × FFlags :=
  match vo with
  | 0 => (va, 0)
  | 1 => (vb, 0)
  | 2 => ((va + vb) % 2 ^ 32, 0)
  | _ => fopAdd v .f32 v.rm (readVal v .f32 va) (readVal v .f32 vb)

/-- The value bits a register has for a key. -/
def pairAt (l : List Word) (k : Nat) : Option Nat := (l.find? fun x => pairKey x == k).map pairVal

/-- Intersection: key, value and flags in key order. -/
def zInter (v : FEnv) (vo : Nat) (a b : List Word) : List (Nat × Nat × FFlags) :=
  a.filterMap fun x => (pairAt b (pairKey x)).map fun vb => (pairKey x, bothVal v vo (pairVal x) vb)

/-- Difference: the pairs of `a` whose key `b` lacks. -/
def zDiff (a b : List Word) : List (Nat × Nat × FFlags) :=
  (a.filter fun x => (pairAt b (pairKey x)).isNone).map fun x => (pairKey x, pairVal x, 0)

/-- Merge two lists of disjoint keys by key. -/
def zMerge (a b : List (Nat × Nat × FFlags)) : List (Nat × Nat × FFlags) :=
  match a with
  | [] => b
  | x :: r => insertPair x (zMerge r b)
where
  /-- Put a pair before the first larger key. -/
  insertPair (x : Nat × Nat × FFlags) : List (Nat × Nat × FFlags) → List (Nat × Nat × FFlags)
    | [] => [x]
    | y :: l => if x.1 < y.1 then x :: y :: l else y :: insertPair x l

/-- Union. -/
def zUnion (v : FEnv) (vo : Nat) (a b : List Word) : List (Nat × Nat × FFlags) :=
  zMerge (zInter v vo a b) (zMerge (zDiff a b) (zDiff b a))

/-- Land merged pairs with their flags: an enabled exception names the pair's position as the lane. -/
def landPairs (s : State) (z : Nat) (l : List (Nat × Nat × FFlags)) : State :=
  let exc := l.map fun p => enabledExc s.me.a.nmr p.2.2
  s.landP {
    file := .z, reg := z, val := .pairs (l.map fun p => mkPair p.1 p.2.1), left := 4, slot := 3, seq := 0, pc := 0
    flags := l.foldl (fun f p => f ||| p.2.2) 0
    exc := exc.foldl (· ||| ·) 0
    lane := (findPos (· != 0) exc).getD 0 }

/-- Pair count of a merge. -/
def bothLen (a b : Nat) (s : State) : Nat := (s.zReg a).length + (s.zReg b).length

/-- `zis` (R325). -/
def execZis (g z a b o : Nat) (s : State) : Out :=
  streamRun g s (fun _ => true) (bothLen a b) fun s => .ok (landPairs s z (zInter s.env o (s.zReg a) (s.zReg b)))

/-- `zun` (R325). -/
def execZun (g z a b o : Nat) (s : State) : Out :=
  streamRun g s (fun _ => true) (bothLen a b) fun s =>
    if 4096 < bothLen a b s then .error (s.matTrap 8)
    else .ok (landPairs s z (zUnion s.env o (s.zReg a) (s.zReg b)))

/-- `zsb` (R325). -/
def execZsb (g z a b : Nat) (s : State) : Out :=
  streamRun g s (fun _ => true) (bothLen a b) fun s => .ok (landPairs s z (zDiff (s.zReg a) (s.zReg b)))

/-! ### `zma`, `zlen` (R326, R327) -/

/-- The exact sum of products so far: the sum in units of 2^-298, and the products that are not finite, which combine as in `win_add`: a
NaN among them, a signalling one, infinities of either sign. -/
structure DotAcc where
  sum : Int := 0
  nan : Bool := false
  inv : Bool := false
  posInf : Bool := false
  negInf : Bool := false
  deriving DecidableEq, Repr

/-- Add one product. -/
def DotAcc.add (d : DotAcc) (x : FVal) : DotAcc :=
  match x with
  | .nan inv => { d with nan := true, inv := d.inv || inv }
  | .inf neg => { d with posInf := d.posInf || !neg, negInf := d.negInf || neg }
  | .fin neg m k =>
    let q : Int := ((m * 2 ^ (k + 298).toNat : Nat) : Int)
    { d with sum := if neg then d.sum - q else d.sum + q }

/-- The sum rounded once (R326). -/
def DotAcc.result (d : DotAcc) (v : FEnv) : Nat × FFlags :=
  let both := d.posInf && d.negInf
  if d.nan || both then (FTy.f32.cnan, if d.inv || both then fNV else 0)
  else if d.posInf || d.negInf then (FTy.f32.infBits d.negInf, 0)
  else if d.sum = 0 then (0, 0)
  else roundTo v .f32 ⟨d.sum < 0, d.sum.natAbs, -298, false⟩ v.rm

/-- The exact dot product of two stream registers. -/
def dotOf (v : FEnv) (a b : List Word) : DotAcc :=
  a.foldl (fun d x => match pairAt b (pairKey x) with
    | some y => d.add (prod (readVal v .f32 (pairVal x)) (readVal v .f32 y))
    | none => d) {}

/-- `zma` (R326). The n of its wait is the number of pairs of both operands, which R326 does not say (log 142, DEDUCED). -/
def execZma (g d a b : Nat) (s : State) : Out :=
  streamRun g s (fun _ => true) (bothLen a b) fun s =>
    let r := (dotOf s.env (s.zReg a) (s.zReg b)).result s.env
    .ok (s.landP {
      file := .w, reg := d, val := .lanes (BitVec.ofNat 2048 r.1) (BitVec.allOnes 2048), left := 12, slot := 3, seq := 0, pc := 0
      flags := r.2, exc := enabledExc s.me.a.nmr r.2 })

/-- `zlen` (R327). -/
def execZlen (g d z : Nat) (s : State) : Out :=
  streamRun g s (fun _ => true) (fun _ => 0) fun s =>
    .ok (s.land 3 .w d (.lanes (BitVec.ofNat 2048 (s.zReg z).length) (BitVec.allOnes 2048)) 1)

end Sys2Proof.Machine
end

