-- ==== Sys2Proof/Machine/Sha512.lean ====
section
/-! DEFINITION. SHA-512, by which the spec's digests and signatures are formed (R78, R136, R333, R387); the function
itself is that of FIPS 180-4 (log 30, PRESUMED: the spec names it and does not restate it). -/

namespace Sys2Proof.Machine

/-- The first eighty primes. -/
def shaPrimes : List Nat :=
  [2, 3, 5, 7, 11, 13, 17, 19, 23, 29, 31, 37, 41, 43, 47, 53, 59, 61, 67, 71, 73, 79, 83, 89, 97, 101, 103, 107, 109,
   113, 127, 131, 137, 139, 149, 151, 157, 163, 167, 173] ++
  [179, 181, 191, 193, 197, 199, 211, 223, 227, 229, 233, 239, 241, 251, 257, 263, 269, 271, 277, 281, 283, 293, 307,
   311, 313, 317, 331, 337, 347, 349, 353, 359, 367, 373, 379, 383, 389, 397, 401, 409]

/-- Round constants: the first 64 fraction bits of the cube roots. -/
def shaK : List Word := shaPrimes.map fun p => word (icbrt (p * 2 ^ 192))

/-- Initial hash: the first 64 fraction bits of the square roots of the first eight primes. -/
def shaInit : List Word := (shaPrimes.take 8).map fun p => word (isqrt (p * 2 ^ 128))

def shaRot (x : Word) (n : Nat) : Word := x.rotateRight n

/-- A big-endian number of bytes. -/
def natOfBE (l : List Byte) : Nat := l.foldl (fun n b => n * 256 + b.toNat) 0

/-- The 128-byte block padded message: a one bit, zeros, and the bit length in 16 bytes. -/
def shaPad (l : List Byte) : List Byte :=
  let z := (239 - l.length % 128) % 128
  l ++ [0x80] ++ List.replicate z 0 ++ (bytesOfNat 16 (8 * l.length)).reverse

/-- Extend the message schedule, held latest first, by `n` words. -/
def shaExtend (w : List Word) : Nat → List Word
  | 0 => w
  | n + 1 =>
    let g := fun i => w.getD i 0
    let s0 := shaRot (g 14) 1 ^^^ shaRot (g 14) 8 ^^^ (g 14 >>> 7)
    let s1 := shaRot (g 1) 19 ^^^ shaRot (g 1) 61 ^^^ (g 1 >>> 6)
    shaExtend ((g 15 + s0 + g 6 + s1) :: w) n

/-- One round on the eight working words. -/
def shaRound (v : List Word) (k w : Word) : List Word :=
  match v with
  | [a, b, c, d, e, f, g, h] =>
    let s1 := shaRot e 14 ^^^ shaRot e 18 ^^^ shaRot e 41
    let ch := (e &&& f) ^^^ (~~~e &&& g)
    let t1 := h + s1 + ch + k + w
    let s0 := shaRot a 28 ^^^ shaRot a 34 ^^^ shaRot a 39
    let maj := (a &&& b) ^^^ (a &&& c) ^^^ (b &&& c)
    [t1 + (s0 + maj), a, b, c, d + t1, e, f, g]
  | _ => v

/-- One block. -/
def shaBlock (h : List Word) (block : List Byte) : List Word :=
  let w0 := (upTo 16).map fun i => word (natOfBE ((block.drop (8 * i)).take 8))
  let w := (shaExtend w0.reverse 64).reverse
  let v := (shaK.zip w).foldl (fun v p => shaRound v p.1 p.2) h
  h.zipWith (· + ·) v

/-- Blocks of a padded message. -/
def shaBlocks (h : List Word) (l : List Byte) : Nat → List Word
  | 0 => h
  | n + 1 => shaBlocks (shaBlock h (l.take 128)) (l.drop 128) n

/-- SHA-512. -/
def sha512 (l : List Byte) : List Byte :=
  let p := shaPad l
  (shaBlocks shaInit p (p.length / 128)).flatMap fun w => (bytesOfNat 8 w.toNat).reverse

end Sys2Proof.Machine
end

