-- ==== Sys2Proof/Machine/Task.lean ====
section
/-! DEFINITION. Launches and their checks (R332 to R336), regions (R349), kills of tasks (R356), task requests (R360 to
R368), stage instructions (R369 to R371) and step-control calls (R179, R153). -/

namespace Sys2Proof.Machine

/-! ### OPB fields (R332) -/

def opbCode (o : List Byte) : Nat := opbField 0 8 o
def opbClen (o : List Byte) : Nat := opbField 8 4 o
def opbEntry (o : List Byte) : Nat := opbField 12 4 o
def opbWell (o : List Byte) : Nat := opbField 16 8 o
def opbWlen (o : List Byte) : Nat := opbField 24 4 o
def opbNmr (o : List Byte) : Nat := opbField 32 8 o
def opbNbv (o : List Byte) : Nat := opbField 40 1 o
def opbFlags (o : List Byte) : Nat := opbField 41 1 o
def opbTiles (o : List Byte) : Nat := opbField 42 1 o % 8 + 1
def opbCtxs (o : List Byte) : Nat := bits (opbField 42 1 o) 3 1 + 1
def opbAlloc (o : List Byte) : Nat := opbField 43 1 o
def opbLevels (o : List Byte) : Nat := opbField 44 1 o
def opbW (o : List Byte) : Nat := opbField 45 1 o
def opbPrio (o : List Byte) : Nat := opbField 46 1 o
def opbRgn (o : List Byte) : Nat := opbField 47 1 o
def opbStages (o : List Byte) : Nat := opbField 48 2 o
def opbCount (o : List Byte) (l : Nat) : Nat := opbField (56 + 4 * l) 4 o
def opbRtab (o : List Byte) : Nat := opbField 80 8 o
def opbCrec (o : List Byte) : Nat := opbField 88 8 o
def opbDep (o : List Byte) (k : Nat) : Nat := opbField (96 + 4 * k) 4 o
def opbAmask (o : List Byte) : Nat := opbField 112 4 o
def opbArg (o : List Byte) (k : Nat) : Nat := opbField (128 + 8 * k) 8 o

/-- The number of steps (R332). -/
def opbSteps (o : List Byte) : Nat := (upTo (opbLevels o)).foldl (fun n l => n * opbCount o l) 1

/-- NMR as loaded at step start: the image with NBV (R59). -/
def opbStartNmr (o : List Byte) : Word :=
  word (putBits (opbNmr o) 24 8 (opbNbv o))

/-- Cause 0x04 (R333), under which a PRIO out of range, an OPB not aligned, a WLEN without WELL and an RTAB without RGN fall too (log 59,
DEDUCED). -/
def badShape (va : Nat) (o : List Byte) : Bool :=
  va % 64 != 0 || opbField 28 4 o != 0 || bits (opbFlags o) 4 4 != 0 || bits (opbField 42 1 o) 4 4 != 0 ||
  opbField 50 6 o != 0 || opbField 116 12 o != 0 || bits (opbAmask o) 8 24 != 0 ||
  opbCode o % 16 != 0 || opbClen o % 16 != 0 || opbClen o < 16 || 2 ^ 24 < opbClen o || opbEntry o % 16 != 0 ||
  opbClen o ≤ opbEntry o || opbWell o % 8 != 0 || (opbWell o == 0 && opbWlen o != 0) ||
  opbAlloc o == 0 || 16 < opbAlloc o || opbLevels o == 0 || 6 < opbLevels o || opbW o == 0 || 64 < opbW o ||
  15 < opbPrio o || 64 < opbRgn o || opbStages o == 0 || 0xFFFD < opbStages o ||
  (upTo 6).any (fun l => (opbCount o l == 0) == (decide (l < opbLevels o))) ||
  opbRtab o % 8 != 0 || (opbRgn o == 0 && opbRtab o != 0) || opbCrec o % 128 != 0 || 2 ^ 32 - 1 < opbSteps o ||
  (bitAt (opbFlags o) 1 && opbCtxs o == 2)

/-- Cause 0x02: a reserved RM or reserved bits of the NMR image; bits 31:24 are ignored (R60, R332). -/
def badNmr (o : List Byte) : Bool :=
  let n := opbNmr o
  bits n 0 3 == 0 || 5 < bits n 0 3 || bits n 32 32 != 0 || bits n 13 11 != 0

/-- A range translates for reading, over its whole length. -/
def rangeMapped (s : State) (table va n : Nat) : Bool :=
  (piecesOf 0 va n).all fun p => match taskXlate s table p.2.2 false with
    | .ok _ => true
    | .error _ => false

/-- The place of the completion block, when a record can be written: W = 1 and RV = 0 (R333). -/
def crecPlace (s : State) (table va : Nat) : Option Nat :=
  match walk s table (va % 2 ^ 56) with
  | .error _ => none
  | .ok l =>
    if bitAt l.entry 3 then none
    else match leafPlace s l.entry l.large true (va % 2 ^ 56) with
      | .ok p => (onTaskPath p).toOption
      | .error _ => none

/-! ### Regions (R349) -/

/-- Element size of a region type. -/
def regionSize (ty : Nat) : Nat := if ty = 7 then 1 else (ETy.ofCode ty).width / 8

/-- A region entry of 24 bytes; none when it is bad by itself. -/
def parseRegion (l : List Byte) : Option Region :=
  let f := fun o n => natOfBytes ((l.drop o).take n)
  let ty := f 17 1
  let m := f 18 1
  let start := f 0 8
  let len := f 8 8
  if !(ty ≤ 3 || ty == 7 || (8 ≤ ty && ty ≤ 15)) || 7 < m || 63 < f 16 1 || f 19 5 != 0 || 2 ^ 56 ≤ start ||
      2 ^ 56 < start + len || start % regionSize ty != 0 || len % regionSize ty != 0 ||
      (ty == 7 && (m == 3 || m == 4 || m == 5)) then none
  else some { n := f 16 1, start := start, len := len, ty := ty, merge := m }

def Region.meets (a b : Region) : Bool := a.start < b.start + b.len && b.start < a.start + a.len

/-- Put a region into a task's table, or none when it overlaps another (R349, R368). -/
def putRegion (l : List Region) (r : Region) : Option (List Region) :=
  let rest := l.filter fun q => q.n != r.n
  if r.len = 0 then some rest
  else if rest.any r.meets then none
  else some (r :: rest)

/-- The regions of RTAB; none when an entry is bad. -/
def readRegions (s : State) (table va : Nat) : Nat → Option (List Region)
  | 0 => some []
  | n + 1 => do
    let l ← readRegions s table va n
    let b ← (taskRead s table ((va + 24 * n) % 2 ^ 56) 24).toOption
    let r ← parseRegion b
    putRegion l r

/-! ### Records (R336, R359) -/

/-- A kind-5 record. -/
def taskRecord (cause other addr count step task : Nat) : List Byte :=
  bytesOfNat 1 5 ++ bytesOfNat 1 cause ++ bytesOfNat 2 0 ++ bytesOfNat 4 other ++ bytesOfNat 8 addr ++
  bytesOfNat 4 count ++ bytesOfNat 4 step ++ bytesOfNat 4 task ++ bytesOfNat 4 0

def State.offerTask (s : State) (cause other addr count step task : Nat) : State :=
  s.offer { engine := 0, bytes := taskRecord cause other addr count step task }

/-- The 64 bytes of a completion record. -/
def completionRecord (t : Task) (status cause : Nat) : List Byte :=
  bytesOfNat 1 status ++ bytesOfNat 1 cause ++ bytesOfNat 1 t.notes ++ bytesOfNat 1 0 ++ bytesOfNat 4 t.num ++
  bytesOfNat 8 t.fflags.toNat ++ t.sig ++ bytesOfNat 4 t.exited ++ bytesOfNat 4 t.abandoned ++
  bytesOfNat 4 t.joined ++ bytesOfNat 4 t.preempts ++ bytesOfNat 16 0

/-- Write a completion record, or post that it cannot be written (R333, R359, cause 0x01). -/
def State.writeRecord (s : State) (t : Task) (status cause : Nat) : State :=
  let table := ((s.findRev t.rev).map Revision.table).getD 0
  let s := s.correctWalk table (opbCrec t.opb % 2 ^ 56)
  match crecPlace s table (opbCrec t.opb) with
  | some p => s.write (cellsAt p (completionRecord t status cause))
  | none => s.offerTask 1 0 (opbCrec t.opb % 2 ^ 56) 0 0xFFFFFFFF t.num

/-- Set a notes bit. -/
def State.note (s : State) (task bit : Nat) : State := s.updTask task fun t => { t with notes := t.notes ||| 2 ^ bit }

/-- The address of a task's completion block (R332). -/
def State.crecOf (s : State) (task : Nat) : Nat := ((s.findTask task).map fun t => opbCrec t.opb % 2 ^ 56).getD 0

/-- The task engine kills a step (R359, cause 0x03); its record names the completion block, as no page needed a frame. -/
def State.engineKill (s : State) (task step count : Nat) : State :=
  ((s.killStep task step).note task 2).offerTask 3 0 (s.crecOf task) count step task

/-- The reproducibility signature (R78). -/
def signature (o : List Byte) : List Byte :=
  let zero := fun (l : List Byte) (p n : Nat) => l.take p ++ List.replicate n 0 ++ l.drop (p + n)
  let o1 := zero (zero (zero (zero (zero o 0 8) 16 8) 80 8) 88 8) 96 16
  let o2 := (upTo 8).foldl (fun l k => if bitAt (opbAmask o) k then zero l (128 + 8 * k) 8 else l) o1
  (sha512 (bytesOfNat 8 (opbStartNmr o).toNat ++ (o.drop 192).take 64 ++ o2)).take 16

/-! ### Launch (R333, R363) -/

/-- Tiles a 192-bit mask reserves in a cistern. -/
def State.svcTiles (s : State) (k : Nat) : List Nat :=
  (upTo 8).filter fun j => bitAt s.mgmt.svcTile.toNat (8 * k + j)

/-- Cause 0x09: the service task is launched by the root task, alone, on enough reserved tiles. -/
def badService (s : State) (o : List Byte) (parent : Nat) : Bool :=
  bitAt (opbFlags o) 3 &&
    (parent != 1 || s.tasks.any (fun t => t.svc && !t.recorded) ||
      !((upTo 24).any fun k => opbTiles o ≤ (s.svcTiles k).length))

/-- The first check of R333 that fails; `num` the task's number, `parent` the launching task (0 for the root launch). -/
def launchCause (s : State) (table va : Nat) (o : List Byte) (num parent : Nat) : Option Nat :=
  if badShape va o then some 4
  else if opbNbv o != 1 then some 1
  else if badNmr o then some 2
  else if opbAlloc o * opbCtxs o * 65536 < opbWlen o then some 3
  else if !rangeMapped s table (opbCode o) (opbClen o) || !rangeMapped s table (opbWell o) (opbWlen o) ||
      !rangeMapped s table (opbRtab o) (24 * opbRgn o) || (crecPlace s table (opbCrec o)).isNone then some 8
  else if (match taskRead s table (opbCode o) (opbClen o) with
      | .ok l => sha512 l != (o.drop 192).take 64
      | .error _ => true) then some 5
  else if (readRegions s table (opbRtab o) (opbRgn o)).isNone then some 6
  else if (upTo 4).any (fun k => num ≤ opbDep o k) then some 7
  else if badService s o parent then some 9
  else none

/-- What a launch reads (the OPB, the code, RTAB and the entries that map these, the well image and the completion block) has its
single-bit errors corrected (R391). -/
def State.correctLaunch (s : State) (table va : Nat) (o : List Byte) : State :=
  let t := ((s.correctRead table va 256).correctRead table (opbCode o) (opbClen o)).correctRead table (opbRtab o) (24 * opbRgn o)
  (t.correctMap table (opbWell o) (opbWlen o)).correctWalk table (opbCrec o % 2 ^ 56)

/-- Accept a launch in revision `rev` whose walks use `table`: number, status 0 with the report bytes zero (R375), checks,
queue (R363, steps 4 to 6). -/
def acceptLaunch (s : State) (rev table va parent key : Nat) (kind : LaunchKind) (o : List Byte) : State :=
  let s := s.correctLaunch table va o
  let num := s.nextTask
  let t : Task := {
    num := num, opb := o, rev := rev, parent := parent, kind := kind, forkKey := key
    notes := bits (opbFlags o) 0 1, sig := List.replicate 16 0 }
  let s1 := match crecPlace s table (opbCrec o) with
    | some p => s.write (cellsAt p (completionRecord t 0 0 ++ List.replicate 64 0))
    | none => s
  match launchCause s1 table va o num parent with
  | some cause =>
    let t1 := { t with st := .failed, cause := cause, recorded := true }
    State.writeRecord { s1 with tasks := s1.tasks ++ [t1], nextTask := num + 1 } t1 2 cause
  | none =>
    let t1 := { t with
      sig := signature o, regions := (readRegions s1 table (opbRtab o) (opbRgn o)).getD [] }
    { s1 with tasks := s1.tasks ++ [t1], nextTask := num + 1 }

/-- A join of a forked child is still to end: the child is not joined, and its parent, which joins what it has left, is not
over. -/
def State.joinAhead (s : State) (t : Task) : Bool :=
  t.join == .joining || (t.kind == .forked && t.join == .unjoined && (s.findTask t.parent).any fun p => !p.recorded)

/-- Tasks that count as live: until the record is written and any join has ended (R335). -/
def State.liveTasks (s : State) : Nat := (s.tasks.filter fun t => !t.recorded || s.joinAhead t).length

/-! ### Kill of a task (R356) -/

/-- A task a kill of `p` reaches next: launched by it and live, or forked by it and not joined. Below a forked child
(`deep`) every descendant is reached, through a launched task that has completed too (R356). -/
def Task.reachedBy (t : Task) (p : Nat) (deep : Bool) : Bool :=
  t.parent == p && match t.kind with
    | .launched => deep || !t.recorded
    | .forked => t.join != .joined
    | .root => false

/-- The tasks a kill reaches, grown from a list; each with whether it stands below a forked child. -/
def killReach (l : List Task) : Nat → List (Nat × Bool) → List (Nat × Bool)
  | 0, k => k
  | n + 1, k => killReach l n (k ++ l.filterMap fun t =>
      if k.any fun p => p.1 == t.num then none
      else (k.find? fun p => t.reachedBy p.1 p.2).map fun p => (t.num, p.2 || t.kind == .forked))

/-- The tasks a kill reaches, grown from a list. -/
def killClosure (l : List Task) (n : Nat) (k : List Nat) : List Nat := (killReach l n (k.map fun p => (p, false))).map Prod.fst

/-- Kill one task: its steps, its joins that have not begun, and its status. -/
def State.killOne (s : State) (n : Nat) : State :=
  let s1 := (s.steps.filter fun k => k.task == n).foldl (fun t k => t.killStep k.task k.step) s
  (s1.forgetJoins fun j => j.parent == n).updTask n fun t => if t.st == .live && !t.recorded then { t with st := .killed } else t

/-- Kill a task with everything R356 names. -/
def State.killTask (s : State) (n : Nat) : State :=
  (killClosure s.tasks s.tasks.length [n]).foldl State.killOne s

/-! ### Task requests (R360) -/

/-- What a request asks (R363 to R368). -/
inductive TaskReq where
  | launch (va : Nat)
  | fork (va : Nat)
  | join (child : Nat)
  | joinAll
  | kill (n : Nat)
  | rgn (va : Nat)
  deriving DecidableEq, Repr, Inhabited

/-- The engine's reply in a clock cycle: an answer, a fault detail, or a wait; a held wait counts nothing. -/
inductive Ask where
  | answer (a : Nat) (s : State)
  | fault (detail : Nat)
  | wait (s : State)
  | held (s : State)

/-- The revision of the caller. -/
def State.myRev (s : State) : Revision := s.revOf s.cur

/-- The OPB at a virtual address of the caller's revision. -/
def State.readOpb (s : State) (va : Nat) : Option (List Byte) := (taskRead s s.myRev.table va 256).toOption

/-- `tlaunch` at the engine (R363). -/
def askLaunch (va : Nat) (s : State) : Ask :=
  match s.readOpb va with
  | none => .fault 6
  | some o =>
    if 16384 ≤ s.liveTasks then .wait s
    else .answer s.nextTask (acceptLaunch s s.myRev.id s.myRev.table va s.me.task 0 .launched o)

/-- `tfork` at the engine: the snapshot is FORK_SNAPSHOT's; its answer stands in the request record (R347, R363, R364). -/
def askFork (va : Nat) (s : State) : Ask :=
  if s.forks.any fun f => f.c == s.cur then .wait s
  else match s.readOpb va with
    | none => .fault 6
    | some _ =>
      if 16 < s.myRev.depth + 1 then .fault 8
      else if 16384 ≤ s.liveTasks || 4096 ≤ s.revs.length then .wait s
      else
        let key := s.me.step * 2 ^ 32 + s.me.gi * 2 ^ 28 + s.me.forks
        .wait { s with forks := s.forks ++ [{ c := s.cur, opbVa := va, key := key }] }

/-- A live forked child that the caller's task has not joined. -/
def State.childOf (s : State) (p n : Nat) : Option Task :=
  s.tasks.find? fun t => t.num == n && t.kind == .forked && t.parent == p && t.join != .joined

/-- Begin a join of the caller. -/
def State.beginJoin (s : State) (child : Nat) (all : Bool) : State :=
  State.updTask (State.updMe { s with joins := s.joins ++ [{
      c := some s.cur, parent := s.me.task, child := child, pages := none, all := all }] } fun x =>
    { x with reqStage := .closure }) child fun t => { t with join := .joining }

/-- The child is kept for this context: a pre-emption had stopped it in the closure wait of its join (R366). -/
def State.keptChild (s : State) (child : Nat) : Bool :=
  s.joins.any fun j => j.child == child && j.stopped == some (s.me.task, s.me.step, s.me.gi)

/-- The re-executed request goes on with the join that was kept (R366). -/
def State.takeJoin (s : State) (child : Nat) : State :=
  State.updMe { s with joins := s.joins.map fun j =>
    if j.child == child then { j with c := some s.cur, hold := false, stopped := none } else j } fun x => { x with reqStage := .closure }

/-- Join a child that is not joined: it is joined at once, or a join that another context has begun is waited for (R365). -/
def askChild (t : Task) (all : Bool) (s : State) : Ask :=
  if t.join != .joining then .held (s.beginJoin t.num all)
  else if s.keptChild t.num then .held (s.takeJoin t.num)
  else .wait s

/-- A join of the caller is under way: held until the merge begins, a queue wait from then on (R354). -/
def State.joining (s : State) : Option Ask :=
  (s.joins.find? fun j => j.c == some s.cur).map fun j => if j.pages.isNone then .held s else .wait s

/-- `tjoin` at the engine (R365). -/
def askJoin (n : Nat) (s : State) : Ask :=
  match s.joining with
  | some a => a
  | none => match s.childOf s.me.task n with
    | none => .fault 3
    | some t => askChild t false s

/-- Unjoined children forked by the caller's step, in ascending fork order key. -/
def insertByKey (t : Task) : List Task → List Task
  | [] => [t]
  | u :: r => if t.forkKey < u.forkKey then t :: u :: r else u :: insertByKey t r

def sortByKey (l : List Task) : List Task := l.foldl (fun acc t => insertByKey t acc) []

def State.stepChildren (s : State) : List Task :=
  sortByKey (s.tasks.filter fun t => t.kind == .forked && t.parent == s.me.task && t.join != .joined &&
    t.forkKey / 2 ^ 32 == s.me.step)

/-- `tjoin.all` at the engine (R365). -/
def askJoinAll (s : State) : Ask :=
  match s.joining with
  | some a => a
  | none => match s.stepChildren with
    | [] => .answer 0 s
    | t :: _ => askChild t true s

/-- Whether the caller's task reaches a task (R358, detail 0x04): itself, tasks it launched, its descendants. -/
def reachList (l : List Task) : Nat → List Nat → List Nat
  | 0, k => k
  | n + 1, k => reachList l n (k ++ (l.filter fun t => !k.contains t.num && k.contains t.parent).map Task.num)

/-- The kill of a task has reached every context it names: of the tasks below it, whether recorded meanwhile or not, no
step is killed and not yet dead. -/
def State.killDone (s : State) (n : Nat) : Bool :=
  let l := reachList s.tasks s.tasks.length [n]
  s.steps.all fun k => !l.contains k.task || !k.killed || s.stepDead k

/-- `tkill` at the engine (R367): the kill is made once, and the answer returns once every step has taken it. -/
def askKill (n : Nat) (s : State) : Ask :=
  match s.findTask n with
  | none => .fault 4
  | some t =>
    if !s.isSvc s.cur && !(reachList s.tasks s.tasks.length [s.me.task]).contains n then .fault 4
    else if s.me.reqStage == .killing then (if s.killDone n then .answer 0 s else .wait s)
    else if t.recorded then .answer 0 s
    else .wait ((s.killTask n).updMe fun x => { x with reqStage := .killing })

/-- `rgn.set` at the engine (R368). -/
def askRgn (va : Nat) (s : State) : Ask :=
  match (taskRead s s.myRev.table va 24).toOption.bind parseRegion, s.taskOf s.cur with
  | some r, some t => match putRegion t.regions r with
    | none => .fault 5
    | some l => .answer 0 ((s.correctRead s.myRev.table va 24).updTask t.num fun t => { t with regions := l })
  | _, _ => .fault 5

/-- Step 3 of R360. -/
def ask (r : TaskReq) (s : State) : Ask :=
  match r with
  | .launch va => askLaunch va s
  | .fork va => askFork va s
  | .join n => askJoin n s
  | .joinAll => askJoinAll s
  | .kill n => askKill n s
  | .rgn va => askRgn va s

/-- Step 1 of R360: as at a mark just before the bundle; a record at this PC stands (R361). -/
def State.requestMark (s : State) : State :=
  let keep := s.me.req.filter fun r => r.1 == s.me.pc
  (s.mark s.cur s.me.pc).updMe fun x => { x with req := keep, reqStage := .released }

/-- Everything the context released is performed at the scope step 2 of R360 names, its stage effects too, for the task path keeps
program order (R88), and what an `xf` to task names (R87). -/
def State.requestReleased (s : State) : Bool :=
  s.opsDone s.cur s.me.opSeq && !(s.stageQ.any fun e => e.before s.me s.me.opSeq) && s.fencesDone s.cur (s.me.a.fencesFor 4)

/-- The answer comes back: it stands in the request record until a later mark. -/
def State.answered (s : State) (a : Nat) : State :=
  s.updMe fun x => { x with req := some (x.pc, a), reqAns := some a }

/-- One clock cycle of a request before its bundle issues: commit, release, request. The task engine that takes it up reads its
tables, whose single-bit errors are corrected (R391). -/
def requestTurn (r : TaskReq) (s : State) : State :=
  match s.me.reqStage with
  | .none => s.requestMark.stallNow
  | .released =>
    if s.requestReleased then s.correctTables.stallNow.updMe fun x => { x with reqStage := .asked } else s.stallNow
  | _ =>
    match s.me.req.filter fun q => q.1 == s.me.pc with
    | some q => (s.updMe fun x => { x with reqAns := some q.2 }).stallNow
    | none => match ask r s with
      | .fault d => takeTrap (s.trapHere 0 0x0E d) s
      | .wait t => t.stallNow
      | .held t => t
      | .answer a t => (t.answered a).stallNow

/-- A task request under its guard: turns of waiting until the answer stands, then the landing (R360, step 5). -/
def taskRequest (g : Nat) (s : State) (r : State → TaskReq) (dst : Option Nat) : Out :=
  if !s.me.a.rP g then .next s
  else match s.me.reqAns with
    | none => .next (requestTurn (r s) s)
    | some a => match dst with
      | some d => .next (s.landS 0 d (word a) 1)
      | none => .next s

/-- The request a register names. -/
def reqVa (s : State) (x a : Nat) : Nat := (s.sReg x a).toNat % 2 ^ 56
def reqNum (s : State) (x a : Nat) : Nat := (s.sReg x a).toNat % 2 ^ 32

/-- `tlaunch` (R363). -/
def execTlaunch (g d a x : Nat) (s : State) : Out :=
  taskRequest g s (fun s => .launch (reqVa s x a)) (some (s.me.a.bS x d))
/-- `tfork` (R363). -/
def execTfork (g d a x : Nat) (s : State) : Out :=
  taskRequest g s (fun s => .fork (reqVa s x a)) (some (s.me.a.bS x d))
/-- `tjoin` (R365). -/
def execTjoin (g d a x : Nat) (s : State) : Out :=
  taskRequest g s (fun s => .join (reqNum s x a)) (some (s.me.a.bS x d))
/-- `tjoin.all` (R365). -/
def execTjoinAll (g : Nat) (s : State) : Out := taskRequest g s (fun _ => .joinAll) none
/-- `tkill` (R367). -/
def execTkill (g a x : Nat) (s : State) : Out := taskRequest g s (fun s => .kill (reqNum s x a)) none
/-- `rgn.set` (R368). -/
def execRgnSet (g a x : Nat) (s : State) : Out := taskRequest g s (fun s => .rgn (reqVa s x a)) none

/-! ### Stage instructions (R369 to R371) -/

/-- STAGES of the context's task. -/
def State.stages (s : State) : Nat := ((s.taskOf s.cur).map fun t => opbStages t.opb).getD 0

/-- `stg.adv` (R369). -/
def stageAdv (g : Nat) (n : State → Nat) (s : State) : Out :=
  tryRun g s fun s =>
    let n := n s
    if s.stages < n then .error (s.trapHere 0 0x0E 2)
    else
      let s1 := s.updArch fun x => { x with stageView := min (x.stageView + n) s.stages }
      .ok (s1.gateAdd (.stage false n s1.me.opSeq (s1.me.a.fencesFor 4)))

/-- `stg.set` (R369). -/
def stageSet (g : Nat) (n : State → Nat) (s : State) : Out :=
  tryRun g s fun s =>
    let n := n s
    if s.stages < n then .error (s.trapHere 0 0x0E 2)
    else if n < s.me.a.stageView then .error (s.trapHere 0 0x0E 1)
    else
      let s1 := s.updArch fun x => { x with stageView := n }
      .ok (s1.gateAdd (.stage true n s1.me.opSeq (s1.me.a.fencesFor 4)))

/-- `stg.adv` with an immediate (R369). -/
def execStgAdvImm (g i : Nat) (s : State) : Out := stageAdv g (fun _ => i) s
/-- `stg.adv` with a register (R369). -/
def execStgAdvReg (g a x : Nat) (s : State) : Out := stageAdv g (fun s => (s.sReg x a).toNat) s
/-- `stg.set` with an immediate (R369). -/
def execStgSetImm (g i : Nat) (s : State) : Out := stageSet g (fun _ => i) s
/-- `stg.set` with a register (R369). -/
def execStgSetReg (g a x : Nat) (s : State) : Out := stageSet g (fun s => (s.sReg x a).toNat) s

/-- The counter of a step in a list of counters; a step that has none yet stands at 0. -/
def countIn (l : List Count) (task step : Nat) : Nat :=
  ((l.find? fun b => b.task == task && b.step == step).map Count.v).getD 0

/-- The counter of step own − d as the issuing cistern holds it; none for a step below 0 (R345). -/
def State.stageSeen (s : State) (d : Nat) : Option Nat :=
  if s.me.step < d then none else some (countIn (s.cis (cisOf s.cur)).cache s.me.task (s.me.step - d))

/-- The value that satisfies a `stg.wl`, or none while it waits (R370). The board is looked at at once, by `stg.rd` too: an earlier
`xf A, task` holds neither back (log 134, DEDUCED). -/
def wlValue (s : State) (d n : Nat) : Option Nat :=
  match s.stageSeen d with
  | none => some 0xFFFF
  | some v => if n ≤ v then some v else none

/-- `stg.wl` (R370): once the wait is over its value is kept until the bundle issues. -/
def stageWait (g d : Nat) (n : State → Nat) (s : State) : Out :=
  waitRun g s (fun s => s.stages < n s || s.me.wlPassed.isSome || (wlValue s d (n s)).isSome) fun s =>
    if s.stages < n s then .error (s.trapHere 0 0x0E 2)
    else
      let v := (s.me.wlPassed.orElse fun _ => wlValue s d (n s)).getD 0xFFFF
      .ok ((s.updMe fun x => { x with wlPassed := none }).landBit 0 15 (v == 0xFFFE) 1)

/-- `stg.wl` with an immediate (R370). -/
def execStgWlImm (g d i : Nat) (s : State) : Out := stageWait g d (fun _ => i) s
/-- `stg.wl` with a register (R370). -/
def execStgWlReg (g d a x : Nat) (s : State) : Out := stageWait g d (fun s => (s.sReg x a).toNat) s

/-- `stg.rd` (R371, R357); k = 0 reads the board. -/
def execStgRd (g d k x : Nat) (s : State) : Out :=
  tryRun g s fun s =>
    if s.isDet s.cur then .error (s.trapHere 0 0x0E 7)
    else
      let v := match s.stageSeen k with
        | none => 0xFFFF
        | some v => if k = 0 then countIn s.board s.me.task s.me.step else v
      .ok ((if k = 0 then s.correctTables else s).landS 0 (s.me.a.bS x d) (word v) 2)

/-! ### Step control (R179, R153, R155, R403) -/

/-- Reload a parked context from its save area; a held one goes on. -/
def State.resumeCtx (s : State) (k : Step) (e : Nat × Nat) : State :=
  let x := s.ctx e.2
  match x.cond with
  | .parked => match k.areas.find? fun a => a.1 == e.1 with
    | some a => s.setCtx e.2 (s.reload a.2 x)
    | none => s
  | .held => s.setCtx e.2 { x with cond := .running }
  | _ => s

/-- A parked context's image is broken (R155), or cannot be read (log 114). -/
def State.brokenImage (s : State) (k : Step) : Bool :=
  k.ctxs.any fun e => (s.ctx e.2).cond == .parked &&
    (k.areas.find? fun a => a.1 == e.1).any fun a => imageBroken s a.2 false || s.badIn a.2 Config.saveArea

/-- The task engine reads the images of the parked contexts of a step: their single-bit errors are corrected, and the granules that make
an image unreadable are logged (R391). -/
def State.correctImages (s : State) (k : Step) : State :=
  let reads := k.areas.filterMap fun a =>
    if k.ctxs.any fun e => e.1 == a.1 && (s.ctx e.2).cond == .parked then some (a.2, Config.saveArea) else none
  (s.correctAll reads).logBad reads

/-- Resume a parked step: the answer of 0xFF00. -/
def resumeStep (task step : Nat) (s : State) : Nat × State :=
  match s.findStep task step with
  | none => (1, s)
  | some k =>
    if k.parkedBy.isEmpty then (2, s)
    else
      let s := s.correctImages k
      if s.brokenImage k then (3, s.engineKill task step 1)
      else (0, (k.ctxs.foldl (fun t e => t.resumeCtx k e) s).updStep task step fun k => { k with parkedBy := [] })

/-- Locate a save area: the answer of 0xFF02 (R403). -/
def locate (task step gi : Nat) (s : State) : Nat × State :=
  match (s.findStep task step).bind fun k => k.areas.find? fun a => a.1 == gi with
  | none => (0, s)
  | some a => ((s.mgmt.saveVa + (ownPa s a.2 - s.mgmt.savePool)) % 2 ^ 64, s)

/-- The answer of a step-control call to the request of `s2`, `s3`, `s4`; none while a kill is on its way. Task and step
numbers are 32 bits wide and are read from the low halves of their registers; the context index is the whole of `s4`
(log 104). -/
def controlAnswer (code : Nat) (s : State) : Option Nat × State :=
  let task := (s.me.a.rS 2).toNat % 2 ^ 32
  let step := (s.me.a.rS 3).toNat % 2 ^ 32
  let some' := fun (r : Nat × State) => (some r.1, r.2)
  match code with
  | 0xFF00 => some' (resumeStep task step s)
  | 0xFF01 => match s.findStep task step with
    | none => (some (if s.me.reqStage == .merging then 0 else 1), s)
    | some k =>
      if s.stepDead k then (some 0, s)
      else (none, (s.killStep task step).updMe fun x => { x with reqStage := .merging })
  | _ => some' (locate task step (s.me.a.rS 4).toNat s)

/-- One clock cycle of a step-control call before its bundle issues (R179, steps 2 to 4). Where these stand among the waits and the checks
of R51 is the model's choice (log 137). -/
def controlTurn (code : Nat) (s : State) : State :=
  match s.me.reqStage with
  | .none => ((s.mark s.cur s.me.pc).updMe fun x => { x with reqStage := .released }).stallNow
  | .released =>
    if s.me.records.all SphCmd.moved then (s.correctTables.updMe fun x => { x with reqStage := .asked }).stallNow else s.stallNow
  | _ =>
    let r := controlAnswer code s
    (r.2.updMe fun x => { x with reqAns := r.1 }).stallNow

/-- A `sysc` with a step-control code: a call in the service task, an ordinary `sysc` in any other (R179). -/
def stepControl (g code : Nat) (s : State) : Out :=
  if !s.isSvc s.cur then commitTrap g 0x0C code s
  else if !s.me.a.rP g then .next s
  else match s.me.reqAns with
    | none => .next (controlTurn code s)
    | some a => .next (s.landS 0 1 (word a) 1)

/-- `sysc` 0xFF00: resume the parked step (R179). -/
def execSyscResume (g : Nat) (s : State) : Out := stepControl g 0xFF00 s
/-- `sysc` 0xFF01: kill the step (R179). -/
def execSyscKillStep (g : Nat) (s : State) : Out := stepControl g 0xFF01 s
/-- `sysc` 0xFF02: locate a save area (R179, R403). -/
def execSyscLocate (g : Nat) (s : State) : Out := stepControl g 0xFF02 s

end Sys2Proof.Machine
end

