-- ==== Sys2Proof/Machine/Trans.lean ====
section
/-! DEFINITION. Correctly rounded 2^x and log2 x (R188): the value is enclosed between two integers over a power of
two by series with floor and ceiling arithmetic, and its truncation, which both ends share, goes to `round` with a
sticky bit. Where the value is representable it is given exactly; every other value is irrational. -/

namespace Sys2Proof.Machine

/-- Σ ⌊2^p / (k 2^k)⌋ for k from n down to 1: at most n below ln 2 · 2^p. -/
def ln2Sum (p : Nat) : Nat → Nat
  | 0 => 0
  | n + 1 => 2 ^ p / ((n + 1) * 2 ^ (n + 1)) + ln2Sum p n

/-- ln 2 · 2^p from below and above. -/
def ln2Lo (p : Nat) : Nat := ln2Sum p (p + 8)
def ln2Hi (p : Nat) : Nat := ln2Sum p (p + 8) + p + 9

/-- The exponential series at y/2^p: the sum from term k on, `fuel` terms, rounded down. -/
def expLo (p y : Nat) : Nat → Nat → Nat → Nat
  | 0, _, _ => 0
  | fuel + 1, k, t => t + expLo p y fuel (k + 1) (t * y / (2 ^ p * (k + 1)))

/-- The same rounded up, with a bound of the rest. -/
def expHi (p y : Nat) : Nat → Nat → Nat → Nat
  | 0, _, t => 2 * t + 2
  | fuel + 1, k, t => t + expHi p y fuel (k + 1) (t * y / (2 ^ p * (k + 1)) + 1)

/-- ⌊2^(num/2^k) · 2^q⌋ for num < 2^k with the working precision p, or the lower end where the ends differ. -/
def pow2Floor (p q num k : Nat) : Nat × Bool :=
  let lo := expLo p (num * ln2Lo p / 2 ^ k) (p / 3) 0 (2 ^ p) / 2 ^ (p - q)
  let hi := expHi p (num * ln2Hi p / 2 ^ k + 1) (p / 3) 0 (2 ^ p) / 2 ^ (p - q)
  (lo, lo == hi)

/-- 2^(±m·2^e) as an exact real for rounding. -/
def exp2Exact (neg : Bool) (m : Nat) (e : Int) : Exact :=
  if 0 ≤ e then ⟨false, 1, if neg then -((m * 2 ^ e.toNat : Nat) : Int) else ((m * 2 ^ e.toNat : Nat) : Int), false⟩
  else
    let k := (-e).toNat
    let x : Int := if neg then -(m : Int) else m
    let n := x / (2 ^ k : Nat)
    let num := (x % (2 ^ k : Nat)).toNat
    if num = 0 then ⟨false, 1, n, false⟩
    else
      let a := pow2Floor 320 48 num k
      let r := if a.2 then a.1 else (pow2Floor 640 48 num k).1
      ⟨false, r, n - 48, true⟩

/-- Σ u^(2j+1)/(2j+1) at u = a/b over 2^p, `fuel` terms, from below. -/
def atanhLo (p a b : Nat) : Nat → Nat → Nat → Nat
  | 0, _, _ => 0
  | fuel + 1, j, t => t / (2 * j + 1) + atanhLo p a b fuel (j + 1) (t * a * a / (b * b))

/-- The same from above (u ≤ 1/3), with a bound of the rest. -/
def atanhHi (p a b : Nat) : Nat → Nat → Nat → Nat
  | 0, _, t => 2 * t + 2
  | fuel + 1, j, t => t / (2 * j + 1) + 1 + atanhHi p a b fuel (j + 1) (t * a * a / (b * b) + 1)

/-- log2(m/2^s) · 2^q from below and above, for 2^s < m < 2^(s+1). -/
def log2Frac (p q m s : Nat) : Nat × Nat :=
  let a := m - 2 ^ s
  let b := m + 2 ^ s
  (2 * atanhLo p a b (p / 3) 0 (2 ^ p * a / b) * 2 ^ q / ln2Hi p,
   2 * atanhHi p a b (p / 3) 0 (2 ^ p * a / b + 1) * 2 ^ q / ln2Lo p + 1)

/-- log2(m·2^e) for m > 0 as an exact real for rounding. -/
def log2Exact (m : Nat) (e : Int) : Exact :=
  let s := bitLen m - 1
  let n := e + s
  if m = 2 ^ s then ⟨n < 0, n.natAbs, 0, false⟩
  else
    let g := log2Frac 320 200 m s
    if 0 ≤ n then ⟨false, n.toNat * 2 ^ 200 + g.1, -200, true⟩
    else ⟨true, (-n).toNat * 2 ^ 200 - g.2, -200, true⟩

/-- `fexp2` (R188). -/
def fopExp2 (v : FEnv) (t : FTy) (rm : RMode) : FVal → Nat × FFlags
  | .nan sig => (t.cnan, if sig then fNV else 0)
  | .inf n => if n then (t.zero false, 0) else (t.infBits false, 0)
  | .fin n m e =>
    if m = 0 then roundTo v t ⟨false, 1, 0, false⟩ rm
    else if 0 ≤ e + bitLen m - 1 && 16 < e + bitLen m then
      -- |x| at or above 2^16: beyond every format's range
      roundTo v t ⟨false, 1, if n then -70000 else 70000, false⟩ rm
    else roundTo v t (exp2Exact n m e) rm

/-- `flog2` (R188). -/
def fopLog2 (v : FEnv) (t : FTy) (rm : RMode) : FVal → Nat × FFlags
  | .nan sig => (t.cnan, if sig then fNV else 0)
  | .inf n => if n then (t.cnan, fNV) else (t.infBits false, 0)
  | .fin n m e =>
    if m = 0 then (t.infBits true, fDZ)
    else if n then (t.cnan, fNV)
    else roundTo v t (log2Exact m e) rm

end Sys2Proof.Machine
end

