-- ==== Sys2Proof/Machine/Vec.lean ====
section
/-! DEFINITION. Lane-wise vector arithmetic of the V slot on the v-file (R187 to R194) and the X-side subset on the
w-file (R186): one shared operation per layout, the slot (2 or 3) choosing the file. -/

namespace Sys2Proof.Machine

/-- The vector register a field of the V slot (2) or X slot (3) names (R186). -/
def vreg (sl n : Nat) : RFile × Nat := if sl = 3 then (.w, n) else (.v, n)

/-- A V.F3 form (R187): three sources, d the third. -/
def lanesF3 (sl lat : Nat) (f : FEnv → FTy → RMode → FVal → FVal → FVal → Nat × FFlags) (g d a b m t r : Nat) (s : State) :
    Out :=
  run g s fun s =>
    let ty := FTy.ofCode t
    let w := ty.width
    let x := s.srcVec (vreg sl a)
    let y := s.srcVec (vreg sl b)
    let z := s.srcVec (vreg sl d)
    let rd := fun v i => readVal s.env ty (lane w v i)
    s.landLanes sl (vreg sl d) w (s.overLanes m w fun i => f s.env ty (s.rmode r) (rd x i) (rd y i) (rd z i)) lat

/-- A V.FU form (R188). -/
def lanesFU (f : FEnv → FTy → RMode → FVal → Nat × FFlags) (g d a m t r : Nat) (s : State) : Out :=
  run g s fun s =>
    let ty := FTy.ofCode t
    let w := ty.width
    let x := s.srcVec (.v, a)
    s.landLanes 2 (.v, d) w (s.overLanes m w fun i => f s.env ty (s.rmode r) (readVal s.env ty (lane w x i))) 12

/-- A V.FN form on bit patterns (R189 to R191). -/
def lanesFN (sl : Nat) (f : FEnv → FTy → Nat → Nat → Nat × FFlags) (g d a b m t : Nat) (s : State) : Out :=
  run g s fun s =>
    let ty := FTy.ofCode t
    let w := ty.width
    let x := s.srcVec (vreg sl a)
    let y := s.srcVec (vreg sl b)
    s.landLanes sl (vreg sl d) w (s.overLanes m w fun i => f s.env ty (lane w x i) (lane w y i)) 4

/-- `fscl` on patterns: by the signed integer of the other lane, rounding by NMR.RM (R191). -/
def sclBits (v : FEnv) (t : FTy) (a b : Nat) : Nat × FFlags := fopScl v t v.rm (readVal v t a) (sext t.width b)

/-- `fabs` and `fneg`: the sign bit only (R190). -/
def absBits (t : FTy) (a : Nat) : Nat := a % 2 ^ (t.width - 1)
def negBits (t : FTy) (a : Nat) : Nat :=
  if bitAt a (t.width - 1) then a % 2 ^ (t.width - 1) else a % 2 ^ (t.width - 1) + 2 ^ (t.width - 1)

/-- `fcvt` (R192): lane i from lane i; lanes beyond the source's are zero. -/
def lanesCvt (sl g d a e s m r : Nat) (st : State) : Out :=
  run g st fun st =>
    let dt := ETy.ofCode e
    let sty := ETy.ofCode s
    let x := st.srcVec (vreg sl a)
    st.landLanes sl (vreg sl d) dt.width (st.overLanes m dt.width fun i =>
      if i < laneCount sty.width then convert st.env dt sty (lane sty.width x i) (st.rmode r) else (0, 0)) 3

/-- A V.I form (R194) on lanes of 2^(s+3) bits; `sg` is the order N selects. -/
def lanesI (sl lat : Nat) (f : Nat → Bool → Nat → Nat → Nat) (g d a b m n s : Nat) (st : State) : Out :=
  run g st fun st =>
    let w := 2 ^ (s + 3)
    let x := st.srcVec (vreg sl a)
    let y := st.srcVec (vreg sl b)
    st.landLanes sl (vreg sl d) w
      (st.overLanes m w fun i => (f w (n == 0) (lane w x i) (lane w y i) % 2 ^ w, 0)) lat

/-- The smaller (or larger) of two lanes in the order N selects. -/
def pickI (w : Nat) (sg larger : Bool) (x y : Nat) : Nat :=
  let lt := if sg then decide (sext w x < sext w y) else decide (x < y)
  if larger then (if lt then y else x) else (if lt then x else y)

/-- A float condition of R193 and the flag it raises. -/
def condF (cc : Nat) (x y : FVal) : Bool × FFlags :=
  let un := x.isNan || y.isNan
  let sig := x.isSig || y.isSig
  let nv : FFlags := if (2 ≤ cc && cc ≤ 5 && un) || sig then fNV else 0
  let c := match cc with
    | 0 => !un && !ltVal x y && !ltVal y x
    | 1 => un || ltVal x y || ltVal y x
    | 2 => !un && ltVal x y
    | 3 => !un && !ltVal y x
    | 4 => !un && ltVal y x
    | 5 => !un && !ltVal x y
    | 6 => un
    | _ => !un
  (c, nv)

/-- An integer condition (R193). -/
def condI (cc w : Nat) (sg : Bool) (x y : Nat) : Bool :=
  let lt := fun a b => if sg then decide (sext w a < sext w b) else decide (a < b)
  match cc with
  | 0 => x == y
  | 1 => x != y
  | 2 => lt x y
  | 3 => !lt y x
  | 4 => lt y x
  | _ => !lt x y

/-- Fold lane conditions into mask units: one lane each, or both lanes of a pair at 8 bits (R182, R193). -/
def unitBits (w : Nat) (l : List Bool) : Nat :=
  if w = 8 then (upTo 128).foldl (fun n k => n + ofBool (l.getD (2 * k) false && l.getD (2 * k + 1) false) * 2 ^ k) 0
  else (upTo (laneCount w)).foldl (fun n k => n + ofBool (l.getD k false) * 2 ^ k) 0

/-- A compare into a mask (R193), with the flags of its active lanes. -/
def lanesCmp (w : Nat) (f : FEnv → Nat → Nat → Bool × FFlags) (g e a b m : Nat) (s : State) : Out :=
  run g s fun s =>
    let x := s.srcVec (.v, a)
    let y := s.srcVec (.v, b)
    let res := (upTo (laneCount w)).map fun i =>
      if s.me.a.active m i w then f s.env (lane w x i) (lane w y i) else (false, 0)
    let exc := res.map fun r => enabledExc s.me.a.nmr r.2
    s.landP {
      file := .m, reg := e, left := 2, slot := 2, seq := 0, pc := 0
      val := .mask (BitVec.ofNat 128 (unitBits w (res.map Prod.fst)))
      flags := res.foldl (fun f r => f ||| r.2) 0
      exc := exc.foldl (· ||| ·) 0
      lane := (findPos (· != 0) exc).getD 0 }

/-- `nop` in the V slot and in the X slot (R40). -/
def execNopV (_g : Nat) (s : State) : Out := .next s
def execNopX (_g : Nat) (s : State) : Out := .next s

/-- `ffma` (R187). -/
def execFfma (g d a b m t r : Nat) (s : State) : Out :=
  lanesF3 2 4 (fun v t r x y z => fopFma v t r false x y z) g d a b m t r s

/-- `ffms` (R187). -/
def execFfms (g d a b m t r : Nat) (s : State) : Out :=
  lanesF3 2 4 (fun v t r x y z => fopFma v t r false x y z.neg) g d a b m t r s

/-- `fnma` (R187). -/
def execFnma (g d a b m t r : Nat) (s : State) : Out :=
  lanesF3 2 4 (fun v t r x y z => fopFma v t r true x y z) g d a b m t r s

/-- `fadd` (R187). -/
def execFadd (g d a b m t r : Nat) (s : State) : Out :=
  lanesF3 2 4 (fun v t r x y _ => fopAdd v t r x y) g d a b m t r s

/-- `fsub` (R187). -/
def execFsub (g d a b m t r : Nat) (s : State) : Out :=
  lanesF3 2 4 (fun v t r x y _ => fopAdd v t r x y.neg) g d a b m t r s

/-- `fmul` (R187). -/
def execFmul (g d a b m t r : Nat) (s : State) : Out :=
  lanesF3 2 4 (fun v t r x y _ => fopMul v t r x y) g d a b m t r s

/-- `fdiv` (R187). -/
def execFdiv (g d a b m t r : Nat) (s : State) : Out :=
  lanesF3 2 12 (fun v t r x y _ => fopDiv v t r x y) g d a b m t r s

/-- `fsqrt` (R188). -/
def execFsqrt (g d a m t r : Nat) (s : State) : Out := lanesFU fopSqrt g d a m t r s

/-- `frcp` (R188). -/
def execFrcp (g d a m t r : Nat) (s : State) : Out := lanesFU fopRcp g d a m t r s

/-- `frsq` (R188). -/
def execFrsq (g d a m t r : Nat) (s : State) : Out := lanesFU fopRsq g d a m t r s

/-- `fexp2` (R188). -/
def execFexp2 (g d a m t r : Nat) (s : State) : Out := lanesFU fopExp2 g d a m t r s

/-- `flog2` (R188). -/
def execFlog2 (g d a m t r : Nat) (s : State) : Out := lanesFU fopLog2 g d a m t r s

/-- `fcvt` (R192). -/
def execFcvt (g d a e s m r : Nat) (st : State) : Out := lanesCvt 2 g d a e s m r st

/-- `fmin` (R189). -/
def execFmin (g d a b m t : Nat) (s : State) : Out :=
  lanesFN 2 (fun v t a b => fopMinMax v t false a b) g d a b m t s

/-- `fmax` (R189). -/
def execFmax (g d a b m t : Nat) (s : State) : Out :=
  lanesFN 2 (fun v t a b => fopMinMax v t true a b) g d a b m t s

/-- `fscl` (R191). -/
def execFscl (g d a b m t : Nat) (s : State) : Out :=
  lanesFN 2 (sclBits) g d a b m t s

/-- `fabs` (R190). -/
def execFabs (g d a m t : Nat) (s : State) : Out :=
  lanesFN 2 (fun _ t a _ => (absBits t a, 0)) g d a a m t s

/-- `fneg` (R190). -/
def execFneg (g d a m t : Nat) (s : State) : Out :=
  lanesFN 2 (fun _ t a _ => (negBits t a, 0)) g d a a m t s

/-- `fcmp` (R193). -/
def execFcmp (g e a b m t c : Nat) (s : State) : Out :=
  lanesCmp (FTy.ofCode t).width
    (fun v x y => condF c (readVal v (FTy.ofCode t) x) (readVal v (FTy.ofCode t) y)) g e a b m s

/-- `icmp` (R193). -/
def execIcmp (g e a b m t c : Nat) (s : State) : Out :=
  lanesCmp (2 ^ (t % 4 + 3)) (fun _ x y => (condI c (2 ^ (t % 4 + 3)) (t < 4) x y, 0)) g e a b m s

/-- `iadd` (R194). -/
def execIadd (g d a b m n s : Nat) (st : State) : Out :=
  lanesI 2 2 (fun _ _ x y => x + y) g d a b m n s st

/-- `isub` (R194). -/
def execIsub (g d a b m n s : Nat) (st : State) : Out :=
  lanesI 2 2 (fun w _ x y => x + 2 ^ w - y) g d a b m n s st

/-- `imul` (R194). -/
def execImul (g d a b m n s : Nat) (st : State) : Out :=
  lanesI 2 4 (fun _ _ x y => x * y) g d a b m n s st

/-- `imin` (R194). -/
def execImin (g d a b m n s : Nat) (st : State) : Out :=
  lanesI 2 2 (fun w sg x y => pickI w sg false x y) g d a b m n s st

/-- `imax` (R194). -/
def execImax (g d a b m n s : Nat) (st : State) : Out :=
  lanesI 2 2 (fun w sg x y => pickI w sg true x y) g d a b m n s st

/-- `iand` (R194). -/
def execIand (g d a b m n s : Nat) (st : State) : Out :=
  lanesI 2 2 (fun _ _ x y => x &&& y) g d a b m n s st

/-- `ior` (R194). -/
def execIor (g d a b m n s : Nat) (st : State) : Out :=
  lanesI 2 2 (fun _ _ x y => x ||| y) g d a b m n s st

/-- `ixor` (R194). -/
def execIxor (g d a b m n s : Nat) (st : State) : Out :=
  lanesI 2 2 (fun _ _ x y => x ^^^ y) g d a b m n s st

/-- `ishl` (R194). -/
def execIshl (g d a b m n s : Nat) (st : State) : Out :=
  lanesI 2 2 (fun w _ x y => x * 2 ^ (y % w)) g d a b m n s st

/-- `ishr` (R194). -/
def execIshr (g d a b m n s : Nat) (st : State) : Out :=
  lanesI 2 2 (fun w _ x y => x / 2 ^ (y % w)) g d a b m n s st

/-- `isha` (R194). -/
def execIsha (g d a b m n s : Nat) (st : State) : Out :=
  lanesI 2 2 (fun w _ x y => wrap w (sext w x / 2 ^ (y % w))) g d a b m n s st

/-- `ffma` (R187, R186). -/
def execFfmaW (g d a b m t r : Nat) (s : State) : Out :=
  lanesF3 3 4 (fun v t r x y z => fopFma v t r false x y z) g d a b m t r s

/-- `ffms` (R187, R186). -/
def execFfmsW (g d a b m t r : Nat) (s : State) : Out :=
  lanesF3 3 4 (fun v t r x y z => fopFma v t r false x y z.neg) g d a b m t r s

/-- `fnma` (R187, R186). -/
def execFnmaW (g d a b m t r : Nat) (s : State) : Out :=
  lanesF3 3 4 (fun v t r x y z => fopFma v t r true x y z) g d a b m t r s

/-- `fadd` (R187, R186). -/
def execFaddW (g d a b m t r : Nat) (s : State) : Out :=
  lanesF3 3 4 (fun v t r x y _ => fopAdd v t r x y) g d a b m t r s

/-- `fsub` (R187, R186). -/
def execFsubW (g d a b m t r : Nat) (s : State) : Out :=
  lanesF3 3 4 (fun v t r x y _ => fopAdd v t r x y.neg) g d a b m t r s

/-- `fmul` (R187, R186). -/
def execFmulW (g d a b m t r : Nat) (s : State) : Out :=
  lanesF3 3 4 (fun v t r x y _ => fopMul v t r x y) g d a b m t r s

/-- `fcvt` (R192, R186). -/
def execFcvtW (g d a e s m r : Nat) (st : State) : Out := lanesCvt 3 g d a e s m r st

/-- `fmin` (R189, R186). -/
def execFminW (g d a b m t : Nat) (s : State) : Out :=
  lanesFN 3 (fun v t a b => fopMinMax v t false a b) g d a b m t s

/-- `fmax` (R189, R186). -/
def execFmaxW (g d a b m t : Nat) (s : State) : Out :=
  lanesFN 3 (fun v t a b => fopMinMax v t true a b) g d a b m t s

/-- `fscl` (R191, R186). -/
def execFsclW (g d a b m t : Nat) (s : State) : Out :=
  lanesFN 3 (sclBits) g d a b m t s

/-- `fabs` (R190, R186). -/
def execFabsW (g d a m t : Nat) (s : State) : Out :=
  lanesFN 3 (fun _ t a _ => (absBits t a, 0)) g d a a m t s

/-- `fneg` (R190, R186). -/
def execFnegW (g d a m t : Nat) (s : State) : Out :=
  lanesFN 3 (fun _ t a _ => (negBits t a, 0)) g d a a m t s

/-- `iadd` (R194, R186). -/
def execIaddW (g d a b m n s : Nat) (st : State) : Out :=
  lanesI 3 2 (fun _ _ x y => x + y) g d a b m n s st

/-- `isub` (R194, R186). -/
def execIsubW (g d a b m n s : Nat) (st : State) : Out :=
  lanesI 3 2 (fun w _ x y => x + 2 ^ w - y) g d a b m n s st

/-- `imul` (R194, R186). -/
def execImulW (g d a b m n s : Nat) (st : State) : Out :=
  lanesI 3 4 (fun _ _ x y => x * y) g d a b m n s st

/-- `imin` (R194, R186). -/
def execIminW (g d a b m n s : Nat) (st : State) : Out :=
  lanesI 3 2 (fun w sg x y => pickI w sg false x y) g d a b m n s st

/-- `imax` (R194, R186). -/
def execImaxW (g d a b m n s : Nat) (st : State) : Out :=
  lanesI 3 2 (fun w sg x y => pickI w sg true x y) g d a b m n s st

/-- `iand` (R194, R186). -/
def execIandW (g d a b m n s : Nat) (st : State) : Out :=
  lanesI 3 2 (fun _ _ x y => x &&& y) g d a b m n s st

/-- `ior` (R194, R186). -/
def execIorW (g d a b m n s : Nat) (st : State) : Out :=
  lanesI 3 2 (fun _ _ x y => x ||| y) g d a b m n s st

/-- `ixor` (R194, R186). -/
def execIxorW (g d a b m n s : Nat) (st : State) : Out :=
  lanesI 3 2 (fun _ _ x y => x ^^^ y) g d a b m n s st

/-- `ishl` (R194, R186). -/
def execIshlW (g d a b m n s : Nat) (st : State) : Out :=
  lanesI 3 2 (fun w _ x y => x * 2 ^ (y % w)) g d a b m n s st

/-- `ishr` (R194, R186). -/
def execIshrW (g d a b m n s : Nat) (st : State) : Out :=
  lanesI 3 2 (fun w _ x y => x / 2 ^ (y % w)) g d a b m n s st

/-- `isha` (R194, R186). -/
def execIshaW (g d a b m n s : Nat) (st : State) : Out :=
  lanesI 3 2 (fun w _ x y => wrap w (sext w x / 2 ^ (y % w))) g d a b m n s st

end Sys2Proof.Machine
end

