-- ==== Sys2Proof/Machine/VecLane.lean ====
section
/-! DEFINITION. Lane, reduction and mask forms of the V slot (R195 to R205). -/

namespace Sys2Proof.Machine

/-- Every lane of a register written, without flags. -/
def State.landAllLanes (s : State) (d w : Nat) (l : List Nat) (lat : Nat) : State :=
  s.vland 2 (.v, d) (packVec w l) (BitVec.allOnes 2048) lat

/-- `vsel` (R196): a merge at landing. -/
def execVsel (g d a m s : Nat) (st : State) : Out :=
  run g st fun st => st.vland 2 (.v, d) (st.srcVec (.v, a)) (st.me.a.enable m (2 ^ (s + 3))) 2

/-- `vperm` (R197). -/
def execVperm (g d a b s : Nat) (st : State) : Out :=
  run g st fun st =>
    let w := 2 ^ (s + 3)
    let x := st.srcVec (.v, a)
    let y := st.srcVec (.v, b)
    st.landAllLanes d w ((upTo (laneCount w)).map fun i =>
      if lane w y i < laneCount w then lane w x (lane w y i) else 0) 3

/-- `vbc` of a lane (R198). -/
def execVbcLane (g d s a l : Nat) (st : State) : Out :=
  run g st fun st =>
    let w := 2 ^ (s + 3)
    st.landAllLanes d w (List.replicate (laneCount w) (lane w (st.srcVec (.v, a)) l)) 2

/-- `vbc` of an immediate, low or high (R198, R36). -/
def execVbcImm (g d s p i : Nat) (st : State) : Out :=
  run g st fun st =>
    let w := 2 ^ (s + 3)
    let k := st.me.simm 2 10 i
    st.landAllLanes d w (List.replicate (laneCount w)
      (if p = 1 then wrap 16 k * 2 ^ (w - 16) else wrap w k)) 2

/-- `vmov` (R196): inactive lanes become zero. -/
def execVmov (g d a m s : Nat) (st : State) : Out :=
  run g st fun st =>
    st.vland 2 (.v, d) (st.srcVec (.v, a) &&& st.me.a.enable m (2 ^ (s + 3))) (BitVec.allOnes 2048) 1

/-- One combination of the reductions (R199): an absent side gives the other. -/
def comb (op : Nat → Nat → Nat × FFlags) (u y : Option Nat) : Option Nat × FFlags :=
  match u, y with
  | none, y => (y, 0)
  | u, none => (u, 0)
  | some u, some y => (some (op u y).1, (op u y).2)

/-- One level of the pairwise order. -/
def combLevel (op : Nat → Nat → Nat × FFlags) : List (Option Nat) → List (Option Nat) × FFlags
  | u :: y :: r =>
    let c := comb op u y
    let t := combLevel op r
    (c.1 :: t.1, c.2 ||| t.2)
  | l => (l, 0)

/-- The levels, `n` of them. -/
def combAll (op : Nat → Nat → Nat × FFlags) : Nat → List (Option Nat) → FFlags → Option Nat × FFlags
  | 0, l, f => (l.head?.join, f)
  | n + 1, l, f =>
    let t := combLevel op l
    combAll op n t.1 (f ||| t.2)

/-- How a reduction combines two patterns of a type, its identity (R199), and the flags of reading a lane. -/
structure RedOp where
  flt : FEnv → FTy → Nat → Nat → Nat × FFlags
  int : Nat → Bool → Nat → Nat → Nat
  idFlt : FTy → Nat
  idInt : Nat → Bool → Nat

/-- A lane as a reduction reads it: flushed; an sNaN raises NV and is then quiet. -/
def readQuiet (v : FEnv) (t : FTy) (x : Nat) : Nat × FFlags :=
  match readVal v t x with
  | .nan true => (t.cnan, fNV)
  | _ => (flushBits v t x, 0)

/-- A reduction (R199): the result in lane 0, every other lane zero; a trap names lane 0. -/
def reduce (o : RedOp) (g d a m t : Nat) (s : State) : Out :=
  run g s fun s =>
    let ty := ETy.ofCode t
    let w := ty.width
    let x := s.srcVec (.v, a)
    let rd := (upTo (laneCount w)).map fun i =>
      if s.me.a.active m i w then
        match ty with
        | .flt ft => (some (readQuiet s.env ft (lane w x i)).1, (readQuiet s.env ft (lane w x i)).2)
        | .int _ _ => (some (lane w x i), 0)
      else ((none : Option Nat), (0 : FFlags))
    let op := match ty with
      | .flt ft => o.flt s.env ft
      | .int sg _ => fun x y => (o.int w sg x y % 2 ^ w, 0)
    let r := combAll op (Nat.log2 (laneCount w)) (rd.map Prod.fst) (rd.foldl (fun f r => f ||| r.2) 0)
    let res := match ty, r.1 with
      | .flt ft, none => o.idFlt ft
      | .int sg _, none => o.idInt w sg
      | .flt ft, some y => if (ft.val y).isNan then ft.cnan else y
      | .int _ _, some y => y
    s.landP {
      file := .v, reg := d, left := 8, slot := 2, seq := 0, pc := 0
      val := .lanes (packVec w [res]) (BitVec.allOnes 2048)
      flags := r.2
      exc := enabledExc s.me.a.nmr r.2 }

/-- `vsum` (R199). -/
def execVsum (g d a m t : Nat) (s : State) : Out :=
  reduce {
    flt := fun v t x y => fopAdd v t v.rm (t.val x) (t.val y)
    int := fun _ _ x y => x + y
    idFlt := fun _ => 0
    idInt := fun _ _ => 0 } g d a m t s

/-- `vmaxr` (R199). -/
def execVmaxr (g d a m t : Nat) (s : State) : Out :=
  reduce {
    flt := fun v t x y => fopMinMax v t true x y
    int := fun w sg x y => pickI w sg true x y
    idFlt := fun t => t.infBits true
    idInt := fun w sg => wrap w (intMin sg w) } g d a m t s

/-- `vminr` (R199). -/
def execVminr (g d a m t : Nat) (s : State) : Out :=
  reduce {
    flt := fun v t x y => fopMinMax v t false x y
    int := fun w sg x y => pickI w sg false x y
    idFlt := fun t => t.infBits false
    idInt := fun w sg => wrap w (intMax sg w) } g d a m t s

/-- ⌊log2 |x|⌋ of a finite nonzero value. -/
def expOf : FVal → Option Int
  | .fin _ m e => if m = 0 then none else some (e + bitLen m - 1)
  | _ => none

/-- `vexpmax` (R200): no flush, no flag. -/
def execVexpmax (g d a m t : Nat) (s : State) : Out :=
  run g s fun s =>
    let ty := FTy.ofCode t
    let w := ty.width
    let x := s.srcVec (.v, a)
    let vals := ((upTo (laneCount w)).filter fun i => s.me.a.active m i w).map fun i => ty.val (lane w x i)
    let es := vals.filterMap expOf
    let top := match es with
      | [] => 2 ^ 63
      | e :: r => wrap 64 (r.foldl max e)
    let bits1 := ofBool (vals.any FVal.isInf) + 2 * ofBool (vals.any FVal.isNan) + 4 * ofBool (!es.isEmpty)
    s.landAllLanes d 64 [top, bits1] 6

/-- `vnzs` (R201). -/
def execVnzs (g d a m e s f : Nat) (st : State) : Out :=
  run g st fun st =>
    let w := 2 ^ (s + 3)
    let x := st.srcVec (.v, a)
    let idx := (upTo (laneCount w)).filter fun i =>
      st.me.a.active m i w && (if f = 1 then lane w x i % 2 ^ (w - 1) != 0 else lane w x i != 0)
    (st.landAllLanes d 16 idx 6).land 2 .m e (.mask (BitVec.ofNat 128 (2 ^ idx.length - 1))) 6

/-- `vcmpk` (R202): the active mask units packed low; at 8 bits a unit is a lane pair. -/
def execVcmpk (g d a m e s : Nat) (st : State) : Out :=
  run g st fun st =>
    let w := 2 ^ (s + 3)
    let u := if w = 8 then 16 else w
    let x := st.srcVec (.v, a)
    let us := ((upTo (laneCount u)).filter fun k => m == 0 || bitAt (st.me.a.rM m).toNat k).map fun k => lane u x k
    (st.landAllLanes d u us 6).land 2 .m e (.mask (BitVec.ofNat 128 (2 ^ us.length - 1))) 6

/-- The class code of a pattern (R203). -/
def classOf (t : FTy) (x : Nat) : Nat :=
  match t.val x with
  | .nan sig => if sig then 8 else 9
  | .inf n => if n then 0 else 7
  | .fin n m _ =>
    if m = 0 then (if n then 3 else 4)
    else if t.isSubnormal x then (if n then 2 else 5)
    else (if n then 1 else 6)

/-- `fcls` (R203). -/
def execFcls (g d a m t : Nat) (s : State) : Out :=
  run g s fun s =>
    let ty := FTy.ofCode t
    let x := s.srcVec (.v, a)
    s.landLanes 2 (.v, d) ty.width (s.overLanes m ty.width fun i => (classOf ty (lane ty.width x i), 0)) 2

/-- `mand` (R204). -/
def execMand (g e a b : Nat) (s : State) : Out :=
  run g s fun s => s.land 2 .m e (.mask (s.me.a.rM a &&& s.me.a.rM b)) 1

/-- `mor` (R204). -/
def execMor (g e a b : Nat) (s : State) : Out :=
  run g s fun s => s.land 2 .m e (.mask (s.me.a.rM a ||| s.me.a.rM b)) 1

/-- `mnot` (R204). -/
def execMnot (g e a : Nat) (s : State) : Out :=
  run g s fun s => s.land 2 .m e (.mask (~~~s.me.a.rM a)) 1

/-- `mpop` (R204). -/
def execMpop (g d a : Nat) (s : State) : Out :=
  run g s fun s =>
    let x := (s.me.a.rM a).toNat
    s.landAllLanes d 64 [popCount x 128, (findPos (fun k => bitAt x k) (upTo 128)).getD 128] 1

/-- `vsp` (R205, R330). -/
def execVsp (g d p : Nat) (s : State) : Out :=
  run g s fun s =>
    let tag := match s.latchRow with
      | some r => r.tag
      | none => 0
    (s.landPair 2 p s.latchRow.isSome 1).landAllLanes d 64 [tag] 1

end Sys2Proof.Machine
end

