-- ==== Sys2Proof/Machine/SlotRun.lean ====
section
/-! DEFINITION. Running one slot of a bundle (R51): each slot instruction by its own meaning, and what a bundle needs to
know of its slots before it issues (R50, R144, R141, R148). -/

namespace Sys2Proof.Machine

/-- One slot of a bundle: the meaning of its instruction. A header is not run as a slot, and events are no slots. -/
def runSlot (i : Instr) (s : State) : Out :=
  match i with
  | .nopS g => execNopS g s
  | .yield g => execYield g s
  | .exit g => execExit g s
  | .trap g c => execTrap g c s
  | .sysc g c => execSysc g c s
  | .brk g c => execBrk g c s
  | .syscResume g => execSyscResume g s
  | .syscKillStep g => execSyscKillStep g s
  | .syscLocate g => execSyscLocate g s
  | .add g d a b x => execAdd g d a b x s
  | .sub g d a b x => execSub g d a b x s
  | .mul g d a b x => execMul g d a b x s
  | .mulh g d a b x => execMulh g d a b x s
  | .mulhn g d a b x => execMulhn g d a b x s
  | .div g d a b x => execDiv g d a b x s
  | .divn g d a b x => execDivn g d a b x s
  | .rem g d a b x => execRem g d a b x s
  | .remn g d a b x => execRemn g d a b x s
  | .and g d a b x => execAnd g d a b x s
  | .or g d a b x => execOr g d a b x s
  | .xor g d a b x => execXor g d a b x s
  | .andn g d a b x => execAndn g d a b x s
  | .shl g d a b x => execShl g d a b x s
  | .shr g d a b x => execShr g d a b x s
  | .sha g d a b x => execSha g d a b x s
  | .min g d a b x => execMin g d a b x s
  | .max g d a b x => execMax g d a b x s
  | .minn g d a b x => execMinn g d a b x s
  | .maxn g d a b x => execMaxn g d a b x s
  | .clz g d a x => execClz g d a x s
  | .popc g d a x => execPopc g d a x s
  | .addi g d a x im => execAddi g d a x im s
  | .muli g d a x im => execMuli g d a x im s
  | .andi g d a x im => execAndi g d a x im s
  | .ori g d a x im => execOri g d a x im s
  | .xori g d a x im => execXori g d a x im s
  | .andni g d a x im => execAndni g d a x im s
  | .shli g d a x im => execShli g d a x im s
  | .shri g d a x im => execShri g d a x im s
  | .shai g d a x im => execShai g d a x im s
  | .mini g d a x im => execMini g d a x im s
  | .maxi g d a x im => execMaxi g d a x im s
  | .minni g d a x im => execMinni g d a x im s
  | .maxni g d a x im => execMaxni g d a x im s
  | .ceq g p a b x => execCeq g p a b x s
  | .cne g p a b x => execCne g p a b x s
  | .clt g p a b x => execClt g p a b x s
  | .cle g p a b x => execCle g p a b x s
  | .cltn g p a b x => execCltn g p a b x s
  | .clen g p a b x => execClen g p a b x s
  | .ceqi g p a im => execCeqi g p a im s
  | .cnei g p a im => execCnei g p a im s
  | .clti g p a im => execClti g p a im s
  | .clei g p a im => execClei g p a im s
  | .cltni g p a im => execCltni g p a im s
  | .cleni g p a im => execCleni g p a im s
  | .lih g d h im => execLih g d h im s
  | .lihK g d h im => execLihK g d h im s
  | .sel g d a b p x => execSel g d a b p x s
  | .pand g d a b => execPand g d a b s
  | .por g d a b => execPor g d a b s
  | .pxor g d a b => execPxor g d a b s
  | .pset g d v => execPset g d v s
  | .br g o => execBr g o s
  | .call g d o => execCall g d o s
  | .bra g d a x => execBra g d a x s
  | .ret g a x => execRet g a x s
  | .lpBegReg g l a => execLpBegReg g l a s
  | .lpBegImm g l c => execLpBegImm g l c s
  | .lpIdx g d k => execLpIdx g d k s
  | .lpBrk g => execLpBrk g s
  | .xcp g f d sr a l x => execXcp g f d sr a l x s
  | .xbase g b r m k => execXbase g b r m k s
  | .getm g d => execGetm g d s
  | .setm g a m => execSetm g a m s
  | .flGet g d sr => execFlGet g d sr s
  | .flClr g sr m => execFlClr g sr m s
  | .tlaunch g d a x => execTlaunch g d a x s
  | .tfork g d a x => execTfork g d a x s
  | .tjoin g d a x => execTjoin g d a x s
  | .tjoinAll g => execTjoinAll g s
  | .tkill g a x => execTkill g a x s
  | .rgnSet g a x => execRgnSet g a x s
  | .stgAdvImm g im => execStgAdvImm g im s
  | .stgAdvReg g a x => execStgAdvReg g a x s
  | .stgSetImm g im => execStgSetImm g im s
  | .stgSetReg g a x => execStgSetReg g a x s
  | .stgWlImm g d im => execStgWlImm g d im s
  | .stgWlReg g d a x => execStgWlReg g d a x s
  | .stgRd g d k x => execStgRd g d k x s
  | .tidSet g t a x => execTidSet g t a x s
  | .tidGet g t d x w => execTidGet g t d x w s
  | .nopM g => execNopM g s
  | .waitcImm g k im => execWaitcImm g k im s
  | .waitcReg g k a x => execWaitcReg g k a x s
  | .xf g a b => execXf g a b s
  | .phase g => execPhase g s
  | .rwsR g p a l x => execRwsR g p a l x s
  | .rwsW g p a l x => execRwsW g p a l x s
  | .fpost g t f n => execFpost g t f n s
  | .fset g f a x => execFset g f a x s
  | .rcIncReg g c b x => execRcIncReg g c b x s
  | .rcIncImm g c x m => execRcIncImm g c x m s
  | .rcSnap g a x => execRcSnap g a x s
  | .lb g f d b x o => execLb g f d b x o s
  | .lbn g f d b x o => execLbn g f d b x o s
  | .lh g f d b x o => execLh g f d b x o s
  | .lhn g f d b x o => execLhn g f d b x o s
  | .lw g f d b x o => execLw g f d b x o s
  | .lwn g f d b x o => execLwn g f d b x o s
  | .ld g f d b x o => execLd g f d b x o s
  | .sb g f sr b x o => execSb g f sr b x o s
  | .sh g f sr b x o => execSh g f sr b x o s
  | .sw g f sr b x o => execSw g f sr b x o s
  | .sd g f sr b x o => execSd g f sr b x o s
  | .vld g f d b m x o => execVld g f d b m x o s
  | .vst g f d b m x o => execVst g f d b m x o s
  | .vldx g f d b m x im => execVldx g f d b m x im s
  | .vstx g f d b m x im => execVstx g f d b m x im s
  | .vldb g f d b m x o => execVldb g f d b m x o s
  | .spl g f r x o => execSpl g f r x o s
  | .sps g f r x o => execSps g f r x o s
  | .qbind g q a b => execQbind g q a b s
  | .qld g q f d k o => execQld g q f d k o s
  | .qst g q f d k o => execQst g q f d k o s
  | .qadvP g q n => execQadvP g q n s
  | .qadvC g q n => execQadvC g q n s
  | .qstat g q d k => execQstat g q d k s
  | .atomAdd g d a b x => execAtomAdd g d a b x s
  | .atomMin g d a b n x => execAtomMin g d a b n x s
  | .atomMax g d a b n x => execAtomMax g d a b n x s
  | .atomXchg g d a b x => execAtomXchg g d a b x s
  | .atomCas g d a b c x => execAtomCas g d a b c x s
  | .atomIncb g d a p c x => execAtomIncb g d a p c x s
  | .aadd g d a x b => execAadd g d a x b s
  | .aaddi g d a x im => execAaddi g d a x im s
  | .ashl g d a x b k => execAshl g d a x b k s
  | .amov g d a x e sr => execAmov g d a x e sr s
  | .sphCp g d sr c x u v => execSphCp g d sr c x u v s
  | .sphGth g d t c x => execSphGth g d t c x s
  | .sphSct g t sr c x => execSphSct g t sr c x s
  | .sphSctAdd g t sr c x => execSphSctAdd g t sr c x s
  | .sphRed g d sr c x u v => execSphRed g d sr c x u v s
  | .sphFill g d p c x v => execSphFill g d p c x v s
  | .sphAtom g d t c x o => execSphAtom g d t c x o s
  | .sphCnl g a l x => execSphCnl g a l x s
  | .sphPre g sr c x => execSphPre g sr c x s
  | .sphStat g d sr x => execSphStat g d sr x s
  | .sphImm g d v c x w => execSphImm g d v c x w s
  | .nopV g => execNopV g s
  | .ffma g d a b m t r => execFfma g d a b m t r s
  | .ffms g d a b m t r => execFfms g d a b m t r s
  | .fnma g d a b m t r => execFnma g d a b m t r s
  | .fadd g d a b m t r => execFadd g d a b m t r s
  | .fsub g d a b m t r => execFsub g d a b m t r s
  | .fmul g d a b m t r => execFmul g d a b m t r s
  | .fdiv g d a b m t r => execFdiv g d a b m t r s
  | .fsqrt g d a m t r => execFsqrt g d a m t r s
  | .frcp g d a m t r => execFrcp g d a m t r s
  | .frsq g d a m t r => execFrsq g d a m t r s
  | .fexp2 g d a m t r => execFexp2 g d a m t r s
  | .flog2 g d a m t r => execFlog2 g d a m t r s
  | .fcvt g d a e sr m r => execFcvt g d a e sr m r s
  | .fmin g d a b m t => execFmin g d a b m t s
  | .fmax g d a b m t => execFmax g d a b m t s
  | .fabs g d a m t => execFabs g d a m t s
  | .fneg g d a m t => execFneg g d a m t s
  | .fscl g d a b m t => execFscl g d a b m t s
  | .fcmp g e a b m t c => execFcmp g e a b m t c s
  | .icmp g e a b m t c => execIcmp g e a b m t c s
  | .iadd g d a b m n sr => execIadd g d a b m n sr s
  | .isub g d a b m n sr => execIsub g d a b m n sr s
  | .imul g d a b m n sr => execImul g d a b m n sr s
  | .imin g d a b m n sr => execImin g d a b m n sr s
  | .imax g d a b m n sr => execImax g d a b m n sr s
  | .iand g d a b m n sr => execIand g d a b m n sr s
  | .ior g d a b m n sr => execIor g d a b m n sr s
  | .ixor g d a b m n sr => execIxor g d a b m n sr s
  | .ishl g d a b m n sr => execIshl g d a b m n sr s
  | .ishr g d a b m n sr => execIshr g d a b m n sr s
  | .isha g d a b m n sr => execIsha g d a b m n sr s
  | .vsel g d a m sr => execVsel g d a m sr s
  | .vperm g d a b sr => execVperm g d a b sr s
  | .vbcLane g d sr a l => execVbcLane g d sr a l s
  | .vbcImm g d sr p im => execVbcImm g d sr p im s
  | .vmov g d a m sr => execVmov g d a m sr s
  | .vsum g d a m t => execVsum g d a m t s
  | .vmaxr g d a m t => execVmaxr g d a m t s
  | .vminr g d a m t => execVminr g d a m t s
  | .vexpmax g d a m t => execVexpmax g d a m t s
  | .vnzs g d a m e sr f => execVnzs g d a m e sr f s
  | .vcmpk g d a m e sr => execVcmpk g d a m e sr s
  | .fcls g d a m t => execFcls g d a m t s
  | .mand g e a b => execMand g e a b s
  | .mor g e a b => execMor g e a b s
  | .mnot g e a => execMnot g e a s
  | .mpop g d a => execMpop g d a s
  | .vsp g d p => execVsp g d p s
  | .nopX g => execNopX g s
  | .ffmaW g d a b m t r => execFfmaW g d a b m t r s
  | .ffmsW g d a b m t r => execFfmsW g d a b m t r s
  | .fnmaW g d a b m t r => execFnmaW g d a b m t r s
  | .faddW g d a b m t r => execFaddW g d a b m t r s
  | .fsubW g d a b m t r => execFsubW g d a b m t r s
  | .fmulW g d a b m t r => execFmulW g d a b m t r s
  | .fcvtW g d a e sr m r => execFcvtW g d a e sr m r s
  | .fminW g d a b m t => execFminW g d a b m t s
  | .fmaxW g d a b m t => execFmaxW g d a b m t s
  | .fabsW g d a m t => execFabsW g d a m t s
  | .fnegW g d a m t => execFnegW g d a m t s
  | .fsclW g d a b m t => execFsclW g d a b m t s
  | .iaddW g d a b m n sr => execIaddW g d a b m n sr s
  | .isubW g d a b m n sr => execIsubW g d a b m n sr s
  | .imulW g d a b m n sr => execImulW g d a b m n sr s
  | .iminW g d a b m n sr => execIminW g d a b m n sr s
  | .imaxW g d a b m n sr => execImaxW g d a b m n sr s
  | .iandW g d a b m n sr => execIandW g d a b m n sr s
  | .iorW g d a b m n sr => execIorW g d a b m n sr s
  | .ixorW g d a b m n sr => execIxorW g d a b m n sr s
  | .ishlW g d a b m n sr => execIshlW g d a b m n sr s
  | .ishrW g d a b m n sr => execIshrW g d a b m n sr s
  | .ishaW g d a b m n sr => execIshaW g d a b m n sr s
  | .mld g t a x o => execMld g t a x o s
  | .mcb g t a x => execMcb g t a x s
  | .msc g a x => execMsc g a x s
  | .bagOpen g c x e => execBagOpen g c x e s
  | .bagRows g c x q n => execBagRows g c x q n s
  | .bagPump g c x => execBagPump g c x s
  | .bagClose g => execBagClose g s
  | .bagRep g a x => execBagRep g a x s
  | .sumpDr g c x t r f sr => execSumpDr g c x t r f sr s
  | .sumpClr g h c x f => execSumpClr g h c x f s
  | .zld g z a b x => execZld g z a b x s
  | .zst g z a x => execZst g z a x s
  | .zis g z a b o => execZis g z a b o s
  | .zun g z a b o => execZun g z a b o s
  | .zsb g z a b => execZsb g z a b s
  | .zma g d a b => execZma g d a b s
  | .zlen g d z => execZlen g d z s
  | _ => .next s

end Sys2Proof.Machine

namespace Sys2Proof

open Machine

/-- Gate entries a slot takes under a true guard (R50). -/
def Instr.gates (a : Arch) : Instr → Nat
  | .stgAdvImm g _ => ofBool (a.rP g)
  | .stgAdvReg g _ _ => ofBool (a.rP g)
  | .stgSetImm g _ => ofBool (a.rP g)
  | .stgSetReg g _ _ => ofBool (a.rP g)
  | .fpost g _ _ _ => ofBool (a.rP g)
  | .sb g _ _ _ _ _ => ofBool (a.rP g)
  | .sh g _ _ _ _ _ => ofBool (a.rP g)
  | .sw g _ _ _ _ _ => ofBool (a.rP g)
  | .sd g _ _ _ _ _ => ofBool (a.rP g)
  | .vst g _ _ _ _ _ _ => ofBool (a.rP g)
  | .vstx g _ _ _ _ _ _ => ofBool (a.rP g)
  | .sps g _ _ _ _ => ofBool (a.rP g)
  | .qst g _ _ _ _ _ => ofBool (a.rP g)
  | .qadvP g _ _ => ofBool (a.rP g)
  | .qadvC g _ _ => ofBool (a.rP g)
  | .sphCp g _ _ _ _ _ _ => ofBool (a.rP g)
  | .sphGth g _ _ _ _ => ofBool (a.rP g)
  | .sphSct g _ _ _ _ => ofBool (a.rP g)
  | .sphSctAdd g _ _ _ _ => ofBool (a.rP g)
  | .sphRed g _ _ _ _ _ _ => ofBool (a.rP g)
  | .sphFill g _ _ _ _ _ => ofBool (a.rP g)
  | .sphAtom g _ _ _ _ _ => ofBool (a.rP g)
  | .sphPre g _ _ _ => ofBool (a.rP g)
  | .sphImm g _ _ _ _ _ => ofBool (a.rP g)
  | .bagPump g _ _ => ofBool (a.rP g)
  | _ => 0

/-- Array-hold entries a slot takes under a true guard (R144). -/
def Instr.holds (a : Arch) : Instr → Nat
  | .mld g _ _ _ _ => ofBool (a.rP g)
  | .mcb g _ _ _ => ofBool (a.rP g)
  | .msc g _ _ => ofBool (a.rP g)
  | .bagOpen g _ _ _ => ofBool (a.rP g)
  | .bagRows g _ _ _ _ => ofBool (a.rP g)
  | .bagPump g _ _ => ofBool (a.rP g)
  | .bagClose g => ofBool (a.rP g)
  | .bagRep g _ _ => ofBool (a.rP g)
  | .sumpDr g _ _ _ _ _ _ => ofBool (a.rP g)
  | .sumpClr g _ _ _ _ => ofBool (a.rP g)
  | _ => 0

/-- A siphon command, accepted after every other check (R51, R242). -/
def Instr.isCommand : Instr → Bool
  | .sphCp .. => true
  | .sphGth .. => true
  | .sphSct .. => true
  | .sphSctAdd .. => true
  | .sphRed .. => true
  | .sphFill .. => true
  | .sphAtom .. => true
  | .sphPre .. => true
  | .sphImm .. => true
  | _ => false

/-- A command that reads an index list under a true guard (R271). -/
def Instr.readsList (a : Arch) : Instr → Bool
  | .sphGth g _ _ _ _ => a.rP g
  | .sphSct g _ _ _ _ => a.rP g
  | .sphSctAdd g _ _ _ _ => a.rP g
  | _ => false

/-- A `phase` under a true guard while the gate holds effects (R98). -/
def Instr.heldAtPhase (s : State) : Instr → Bool
  | .phase g => s.me.a.rP g && !s.me.gate.isEmpty
  | _ => false

/-- A slot-0 instruction whose bundle is a drain point (R148). -/
def Instr.drains : Instr → Bool
  | .yield .. | .trap .. | .sysc .. | .brk .. | .syscResume .. | .syscKillStep .. | .syscLocate .. => true
  | _ => false

/-- A slot-0 instruction that commits as its own effect, with no check at issue (R177, R179). -/
def Instr.commits : Instr → Bool
  | .trap .. | .sysc .. | .brk .. | .syscResume .. | .syscKillStep .. | .syscLocate .. => true
  | _ => false

/-- An M-slot instruction that reads the well as a load of the core path: the loads, and the commands that read an index
list (R82, R87, R271). -/
def Instr.loads : Instr → Bool
  | .lb .. | .lbn .. | .lh .. | .lhn .. | .lw .. | .lwn .. | .ld .. | .vld .. | .vldx .. | .vldb .. | .qld .. => true
  | .sphGth .. | .sphSct .. | .sphSctAdd .. => true
  | _ => false

/-- A stream instruction under a true guard (R323). -/
def Instr.streams (a : Arch) : Instr → Bool
  | .zld g _ _ _ _ => a.rP g
  | .zst g _ _ _ => a.rP g
  | .zis g _ _ _ _ => a.rP g
  | .zun g _ _ _ _ => a.rP g
  | .zsb g _ _ _ => a.rP g
  | .zma g _ _ _ => a.rP g
  | .zlen g _ _ => a.rP g
  | _ => false

/-- A stream instruction with a well access, which takes the array lane (R208). -/
def Instr.usesLane (a : Arch) : Instr → Bool
  | .zld g _ _ _ _ => a.rP g
  | .zst g _ _ _ => a.rP g
  | _ => false

/-- A slot word that uses its slot position (R141): an empty slot holds `nop` under p0; one under another guard counts as
used (log 95). -/
def Instr.uses : Instr → Bool
  | .nopS 0 | .nopM 0 | .nopV 0 | .nopX 0 => false
  | _ => true

/-- What a task request in slot 0 asks under a true guard (R360). -/
def Instr.request (s : State) : Instr → Option TaskReq
  | .tlaunch g _ a x => if s.me.a.rP g then some (.launch (reqVa s x a)) else none
  | .tfork g _ a x => if s.me.a.rP g then some (.fork (reqVa s x a)) else none
  | .tjoin g _ a x => if s.me.a.rP g then some (.join (reqNum s x a)) else none
  | .tjoinAll g => if s.me.a.rP g then some .joinAll else none
  | .tkill g a x => if s.me.a.rP g then some (.kill (reqNum s x a)) else none
  | .rgnSet g a x => if s.me.a.rP g then some (.rgn (reqVa s x a)) else none
  | _ => none

/-- The code of a step-control call of the service task under a true guard (R179). -/
def Instr.control (s : State) (i : Instr) : Option Nat :=
  let call := fun (g code : Nat) => if s.isSvc s.cur && s.me.a.rP g then some code else none
  match i with
  | .syscResume g => call g 0xFF00
  | .syscKillStep g => call g 0xFF01
  | .syscLocate g => call g 0xFF02
  | _ => none

/-- The distance and the value of a `stg.wl` in slot 0, under a true guard (R370). -/
def Instr.stageWait (s : State) (i : Instr) : Option (Nat × Nat) :=
  let w := fun (g d n : Nat) => if s.me.a.rP g then some (d, n) else none
  match i with
  | .stgWlImm g d i => w g d i
  | .stgWlReg g d a x => w g d (s.sReg x a).toNat
  | _ => none

/-- Clock cycles of bank conflict before the bundle, for a gather or scatter that passes its checks (R211). -/
def Instr.bankStall (s : State) (i : Instr) : Nat :=
  let cost := fun (g wr b m x k : Nat) =>
    let w := esWidth (s.aReg x b)
    if !s.me.a.rP g || w = 8 then 0
    else match idxPlaces s (wr == 1) w (idxLanes s b m x k) with
      | .ok ps => conflictOf (ps.map Prod.snd)
      | .error _ => 0
  match i with
  | .vldx g _ _ b m x k => cost g 0 b m x k
  | .vstx g _ _ b m x k => cost g 1 b m x k
  | _ => 0

end Sys2Proof
end

