-- ==== Sys2Proof/Machine/Issue.lean ====
section
/-! DEFINITION. Issuing bundles (R51): merge issue (R141), code fetch (R399), drain points and the events taken there
(R148, R149), the waits and checks before the issue cycle, acceptance, the cycle itself, the mark, and lockstep (R340). -/

namespace Sys2Proof.Machine

/-! ### Headers (R34) -/

/-- A header's fields; a bundle without one acts as with all of them zero (R34). -/
structure Hdr where
  d : Nat := 0
  k : Nat := 0
  sc : Nat := 0
  sy : Nat := 0
  fn : Nat := 0
  cnt : Nat := 0
  lt : Nat := 0
  lb : Nat := 0
  deriving DecidableEq, Repr, Inhabited

/-- The header in force for a bundle. -/
def hdrOf (b : Bundle) : Hdr :=
  match b.1 with
  | .header d k sc sy fn cnt lt lb => { d := d, k := k, sc := sc, sy := sy, fn := fn, cnt := cnt, lt := lt, lb := lb }
  | _ => {}

/-- The bundle is a drain point (R148). -/
def drainPoint (b : Bundle) : Bool := (hdrOf b).d == 1 || b.1.drains

/-- Slot positions a bundle uses, as bits (R141). -/
def useMask (b : Bundle) : Nat :=
  ofBool b.1.uses + 2 * ofBool b.2.1.uses + 4 * ofBool b.2.2.1.uses + 8 * ofBool b.2.2.2.uses

/-! ### Seniority (R141, R338) -/

/-- OPB priority of a context's task. -/
def State.prioOf (s : State) (c : Nat) : Nat := ((s.taskOf c).map fun t => opbPrio t.opb).getD 0

/-- `c` is older than the tile's other context `d` (R141). A LOCK gang whose lockstep a fault has ended is no longer ranked
first (log 117, DEDUCED). -/
def State.older (s : State) (c d : Nat) : Bool :=
  if s.lockOn c != s.lockOn d then s.lockOn c
  else if (s.ctx c).task == (s.ctx d).task then
    if (s.ctx c).step == (s.ctx d).step then c < d else (s.ctx c).step < (s.ctx d).step
  else if s.prioOf c == s.prioOf d then c < d else s.prioOf d < s.prioOf c

/-- The tile's other context runs and is older. -/
def State.younger (s : State) (c : Nat) : Bool := (s.ctx (otherCtx c)).cond == .running && s.older (otherCtx c) c

/-- The tile's other context is resident (R26), whatever its condition, and older. -/
def State.junior (s : State) (c : Nat) : Bool := (s.ctx (otherCtx c)).cond != .absent && s.older (otherCtx c) c

/-- The younger context has lost 64 merge cycles: the older one, `c`, is held for one (R141). It is held again only when
the younger one loses another. -/
def State.mustYield (s : State) (c : Nat) : Bool :=
  (s.ctx (otherCtx c)).cond == .running && !s.younger c && !s.lockOn c &&
  Config.overlapLimit ≤ (s.ctx (otherCtx c)).overlap && !(s.ctx (otherCtx c)).yielded

/-- Context c is served second in the present clock cycle of its tile: the other one has had its turn (R141). -/
def State.servedSecond (s : State) (c : Nat) : Bool := (s.tile (tileOf c)).second == some c

/-- The clock cycle opens for the older context, or for one that runs alone. -/
def State.openTurn (s : State) (c : Nat) : State :=
  if s.younger c || s.servedSecond c then s
  else s.updTile (tileOf c) fun t => { t with
    used := 0, second := if (s.ctx (otherCtx c)).cond == .running then some (otherCtx c) else none, strBusy := false }

/-- The clock cycle closes with the turn of the context served second. -/
def State.closeTurn (s : State) (c : Nat) (last : Bool) : State :=
  if last then s.updTile (tileOf c) fun t => { t with used := 0, second := none, strBusy := false } else s

/-! ### Landing in the issue cycle (R49, R51) -/

/-- A header wait's consumption (R21, R143). -/
def Ctx.takeFlag (x : Ctx) (h : Hdr) : Ctx := if h.sy % 2 = 1 then x.consume h.fn (h.cnt + 1) else x

/-- The state the slots of the bundle see in its issue cycle: pending writes landed, the header's count taken. Waits and
checks read it too, for no write lands while the context stalls (R48). The collision count follows with the cycle. -/
def State.landedView (s : State) (h : Hdr) : State :=
  (s.hurryAtoms s.cur).updMe fun x => { (x.startCycle.takeFlag h) with
    coll := x.coll, inIssue := true, bagWas := x.a.bag, nextPc := none, eoc := [], scope := h.sc, lt := h.lt, lb := h.lb }

/-- The state a slot's meaning leaves. -/
def slotResult (i : Instr) (s : State) : State :=
  match runSlot i s with
  | .next t => t
  | _ => s

/-- The trap of a result that lands from an uncorrectable granule (R219). -/
def Pend.wellTrap (p : Pend) : Trap :=
  { cause := 0x0A, slot := some p.slot, pc := p.pc, detail := mcDetail 1 (p.bad.getD 0), sup := some p.seq }

/-- The FP-exception trap of a landing result (R65, R152). -/
def Pend.fpTrap (p : Pend) : Trap :=
  { cause := 7, slot := some p.slot, lane := some p.lane, exc := p.exc.toNat, pc := p.pc, sup := some p.seq }

/-- The latch frees its row in the owner's issue cycle (R24, R293). -/
def State.freeLatch (s : State) (c : Nat) : State :=
  s.updTile (tileOf c) fun t => { t with latch := t.latch.filter fun r => r.c != c }

/-- A taken-branch bubble (R48): an issue cycle with landings and no bundle. -/
def bubbleCycle (s : State) : State :=
  let t := s.hurryAtoms s.cur
  let u := (t.updMe fun x => { x.startCycle with bubbles := x.bubbles - 1, wdog := x.wdog + 1 }).freeLatch s.cur
  match t.me.mcDue with
  | some p => takeTrap p.wellTrap u
  | none => match t.me.fpDue with
    | some p => takeTrap p.fpTrap u
    | none => u

/-! ### Drain points (R148, R149, R276, R402) -/

/-- File codes of R402. -/
def RFile.code : RFile → Nat
  | .s => 0
  | .a => 1
  | .v => 2
  | .w => 3
  | .p => 4
  | .m => 5
  | .z => 6
  | .xb => 7

/-- What orders the pending writes of R402: due cycle, file code, register. -/
def Pend.rank (p : Pend) : Nat := (p.left * 8 + p.file.code) * 32 + p.reg % 32

/-- The drain-hazard detail (R402). -/
def drainDetail (l : List Pend) : Nat :=
  let k := (l.map Pend.rank).foldl min ((l.head?.map Pend.rank).getD 0)
  k % 32 + k / 32 % 8 * 2 ^ 8 + l.length * 2 ^ 16

/-- The bag whose operations the engine has last been given: the last one opened among those released, or the one it runs. -/
def Ctx.engineBag (x : Ctx) : Option Nat :=
  (x.mx.reverse.findSome? fun o => match o.kind with
    | .opn b _ => some b.id
    | _ => none).or (x.bagRun.map fun b => b.bag.id)

/-- What the engine gathers is the open bag's: one whose close has issued is open no longer (R285). -/
def Ctx.gathersOpen (x : Ctx) : Bool := x.a.bag.any fun b => x.engineBag == some b.id

/-- The engine queues of the present context are drained (R148). -/
def State.drained (s : State) : Bool :=
  s.me.woq.isEmpty && s.me.cAtom == 0 && s.me.latching.isEmpty &&
  (s.me.gathersOpen || s.me.feedsSettled fun _ => true) && s.me.mx.all fun o => s.me.gathersOpen && match o.kind with
    | .opn _ _ => true
    | .feed _ => true
    | _ => false

/-- A pre-emption may be honoured (R149). -/
def Ctx.mayStop (x : Ctx) : Bool := x.gate.isEmpty && x.hold.isEmpty && x.a.bag.isNone && x.a.ranges.isEmpty

/-- A pre-emption honoured: a mark placed before the bundle (R276), and the context stops. One stopped at a `phase` it waits in has reached
that phase, while it is stopped and once it runs again: no rule says (log 138, DESIGN CHOICE). -/
def Ctx.stopHere (x : Ctx) : Ctx :=
  { (x.shadow x.pc).letGo .stopped with req := none, reqStage := .none, reqAns := none }

/-- A member other than 0 of a lockstep gang: it issues what member 0 has broadcast. -/
def State.follower (s : State) : Bool := s.lockOn s.cur && s.me.gi != 0

/-- The drain and the events taken after it; an error ends the turn. A lockstep member stops only at the bundle where
member 0 has stopped, so not at one that was broadcast (R340). -/
def drainTurn (s : State) : Except State State :=
  if !s.me.a.pend.isEmpty then .error (takeTrap { cause := 8, pc := s.me.pc, detail := drainDetail s.me.a.pend } s)
  else if !s.drained then .error s.stallNow
  else match s.me.deferred with
    | d :: _ => .error (takeTrap d.trap s)
    | [] =>
      if (s.stepOf s.cur).any fun k => !k.parkedBy.isEmpty then .error (s.updMe fun x => x.letGo .held)
      else if s.me.preempt && s.me.mayStop && !(s.follower && !s.me.bcast.isEmpty) then .error (s.updMe Ctx.stopHere)
      else .ok s

/-! ### Waits before the issue cycle (R51) -/

/-- A drain point's wait; a step-control call has drained once before it begins, so the operations its commit releases are not waited
for (R179, steps 1 and 2). -/
def drainWait (b : Bundle) (s : State) : Except State State :=
  if drainPoint b && s.me.reqStage == .none then drainTurn s else .ok s

/-- The header's flag wait (R21). -/
def headerWait (b : Bundle) (s : State) : Except State State :=
  let h := hdrOf b
  if h.sy % 2 = 1 && (vget s.me.flags h.fn).toNat < h.cnt + 1 then .error s.stallNow else .ok s

/-- The stage wait (R370): a stage beyond STAGES traps before it; the value that ends it is kept until the bundle issues. -/
def stageTurn (b : Bundle) (s : State) : Except State State :=
  match b.1.stageWait (s.landedView (hdrOf b)) with
  | none => .ok s
  | some (d, n) =>
    if s.stages < n then .error (slotResult b.1 (s.landedView (hdrOf b)))
    else if s.me.wlPassed.isSome then .ok s
    else match wlValue s d n with
      | none => .error s.stallNow
      | some v => .ok (s.updMe fun x => { x with wlPassed := some v })

/-- The closure wait of a lockstep gang may be left: by member 0, when every other member has issued what it broadcast and
could stop there too; the others follow it (R340, R366). -/
def State.gangMayStop (s : State) : Bool :=
  !s.lockOn s.cur || (s.me.gi == 0 && (s.stepOf s.cur).all fun k => k.ctxs.all fun e =>
    e.1 == 0 || ((s.ctx e.2).bcast.isEmpty && (s.ctx e.2).a.pend.isEmpty && (s.ctx e.2).mayStop))

/-- A pre-emption honoured during a closure wait (R366), as at a drain point: the engine queues are drained (R148, R149), and the
merge has not started. The child is kept for the re-executed request, which is to find it unjoined: no join of another context takes
it meanwhile (log 131). -/
def closureStop (s : State) : Option State :=
  if s.me.reqStage == .closure && s.me.preempt && s.me.a.pend.isEmpty && s.drained && s.me.mayStop && s.gangMayStop then
    match s.joins.find? fun j => j.c == some s.cur && j.pages.isNone with
    | none => none
    | some j => some (State.updMe { s with joins := s.joins.map fun k =>
        if k == j then { k with c := none, hold := true, stopped := some (s.me.task, s.me.step, s.me.gi) } else k } Ctx.stopHere)
  else none

/-- A task request or a step-control call (R360, R179). R360 places a request among the waits of R51, R179 does not place a call: the model
gives it the same place, so that a check of another slot comes after it, and a call executed again asks again (log 137, DESIGN CHOICE). -/
def requestWait (b : Bundle) (s : State) : Except State State :=
  let v := s.landedView (hdrOf b)
  if s.me.reqAns.isSome then .ok s
  else match b.1.request v with
    | some r => match closureStop s with
      | some t => .error t
      | none => .error (requestTurn r s)
    | none => match b.1.control v with
      | some code => .error (controlTurn code s)
      | none => .ok s

/-- The wait of one slot's own instruction, read from its meaning: a clock cycle in which it stalls changes nothing but
what counts the wait. -/
def slotWait (i : Instr) (h : Hdr) (s : State) : Except State State :=
  let v := s.landedView h
  let t := slotResult i v
  if t.me.stall == v.me.stall then .ok s
  else .error (s.stallNow.updMe fun x => { x with strWait := t.me.strWait, atPhase := t.me.atPhase })

/-- M-slot waits; a command's stalls belong to its acceptance, but for the fences a load waits for, which hold back one that reads
an index list (R87, R271). The gate check of a `phase` comes before its wait (R239). -/
def memWait (b : Bundle) (s : State) : Except State State :=
  if b.2.1.isCommand then
    if b.2.1.readsList (s.landedView (hdrOf b)).me.a && !coreReady (s.landedView (hdrOf b)) then .error s.stallNow else .ok s
  else if b.2.1.heldAtPhase (s.landedView (hdrOf b)) then .error (slotResult b.2.1 (s.landedView (hdrOf b)))
  else slotWait b.2.1 (hdrOf b) s

/-- The bank-conflict cycles the bundle has ahead of it (R211). -/
def conflictAhead (b : Bundle) (s : State) : Nat := b.2.1.bankStall (s.landedView (hdrOf b))

/-- The context, served second, enters a bank conflict in the present clock cycle: it has its bundle, no earlier wait holds
it, and the conflict has not begun (R211). -/
def State.conflictStarts (s : State) (d : Nat) : Bool :=
  let t : State := { s with cur := d }
  t.me.conflict.isNone && t.me.bubbles == 0 && !t.me.yieldHold && !t.killDue d && match t.me.fetched.map decodeBytes with
    | some (.ok b) => match (do
        let u ← drainWait b t
        let u ← headerWait b u
        let u ← stageTurn b u
        let u ← requestWait b u
        memWait b u : Except State State) with
      | .ok u => conflictAhead b u != 0
      | .error _ => false
    | _ => false

/-- The core lanes of the tile are busy with a conflict of the other context in the present clock cycle (R211). That context
may have had its turn in it, or have it still to come; `mine` says that the present context has a conflict of its own: where both come
to one in one clock cycle, the context served first begins, and the other is held (log 148, DESIGN CHOICE). -/
def State.lanesBusy (s : State) (mine : Bool) : Bool :=
  let d := otherCtx s.cur
  (s.ctx d).cond == .running && (match (s.ctx d).conflict with
    | some n => (if s.servedSecond s.cur then 0 else 1) < n
    | none => !mine && !s.servedSecond s.cur && s.conflictStarts d)

/-- Bank conflicts (R211): the tile's core lanes are busy for the other context too. -/
def bankWait (b : Bundle) (s : State) : Except State State :=
  let n := conflictAhead b s
  if b.2.1.uses && s.lanesBusy (s.me.conflict.isSome || n != 0) then .error s.stallNow
  else match s.me.conflict with
    | none => if n = 0 then .ok s else .error (s.stallNow.updMe fun x => { x with conflict := some n })
    | some n =>
      if n ≤ 1 then .ok (s.updMe fun x => { x with conflict := some 0 })
      else .error (s.stallNow.updMe fun x => { x with conflict := some (n - 1) })

/-- The matrix engine of a tile has an operation of one of its contexts, so it may keep the array lane at a bank (R208). -/
def State.laneKept (s : State) (t : Nat) : Bool :=
  [2 * t, 2 * t + 1].any fun c => !(s.ctx c).mx.isEmpty ||
    (s.ctx c).bagRun.any fun b => b.feeds.any fun f => !f.allSettled

/-- The stream wait (R323). While the matrix engine is at work, whether it leaves the array lane free at the bank in this
clock cycle is a free choice (R208, log 96). -/
def streamTurn (b : Bundle) (s : State) : Except State State :=
  match slotWait b.2.2.2 (hdrOf b) s with
  | .error t => .error t
  | .ok t =>
    if b.2.2.2.usesLane (t.landedView (hdrOf b)).me.a && t.laneKept (tileOf t.cur) then
      let r := t.choose 2
      if r.1 = 0 then .error r.2.stallNow else .ok r.2
    else .ok t

/-- The slots in the order in which a trap is looked for. -/
def slotsOf (b : Bundle) : List Instr := [b.1, b.2.1, b.2.2.1, b.2.2.2]

/-- Gate entries a bundle needs: its slots' and its header's post (R50). -/
def gateNeed (b : Bundle) (a : Arch) : Nat :=
  ((slotsOf b).map fun i => i.gates a).foldl (· + ·) (if 2 ≤ (hdrOf b).sy then 1 else 0)

def holdNeed (b : Bundle) (a : Arch) : Nat := ((slotsOf b).map fun i => i.holds a).foldl (· + ·) 0

/-- The gate and array-hold checks (R50, R144). -/
def roomCheck (b : Bundle) (s : State) : Except State State :=
  let a := (s.landedView (hdrOf b)).me.a
  if Config.gateSize < gateNeed b a + s.me.gate.length then .error (takeTrap { cause := 2, pc := s.me.pc, detail := 0 } s)
  else if Config.holdSize < holdNeed b a + s.me.hold.length then
    .error (takeTrap { cause := 2, pc := s.me.pc, detail := 1 } s)
  else .ok s

/-- Every other check that can fault at issue: each slot's own, read from its meaning; the lowest slot names the trap. -/
def faultCheck (b : Bundle) (s : State) : Except State State :=
  let v := s.landedView (hdrOf b)
  match (slotsOf b).find? fun i => !i.isCommand && !i.commits && (slotResult i v).me.cond == .parked with
  | some i => .error (slotResult i v)
  | none => .ok s

/-- Merge issue (R141): the younger context's bundle uses a slot position that the older one's bundle used. R51 does not place this hold:
the model looks at it after every check, so that a younger bundle that faults at issue faults in a cycle in which the hold would keep it
back (log 133, DESIGN CHOICE). -/
def mergeWait (b : Bundle) (s : State) : Except State State :=
  if s.servedSecond s.cur && (s.tile (tileOf s.cur)).used &&& useMask b != 0 then
    .error (s.stallNow.updMe fun x => { x with overlap := x.overlap + 1, yielded := false })
  else .ok s

/-- Everything that stands before acceptance, in the order of R51; the places of the merge-issue hold and of a step-control call, which R51
does not give, are the model's choice (log 133, log 137). -/
def beforeAccept (b : Bundle) (s : State) : Except State State := do
  let s ← drainWait b s
  let s ← headerWait b s
  let s ← stageTurn b s
  let s ← requestWait b s
  let s ← memWait b s
  let s ← bankWait b s
  let s ← streamTurn b s
  let s ← roomCheck b s
  let s ← faultCheck b s
  mergeWait b s

/-! ### The issue cycle (R51) -/

/-- Member 0 of a lockstep gang hands its bundle to the other members, and a member drops the one it issues (R28, R340). -/
def State.broadcast (s : State) (bs : List Byte) : State :=
  if !s.lockOn s.cur then s
  else if s.me.gi != 0 then s.updMe fun x => { x with bcast := x.bcast.drop 1 }
  else match s.stepOf s.cur with
    | none => s
    | some k => k.ctxs.foldl (fun t e =>
        if e.1 = 0 then t else t.updCtx e.2 fun x => { x with bcast := x.bcast ++ [(s.me.pc, bs)] }) s

/-- What the start of the cycle settles beside the slots: collisions, the overlap count of the younger context (R141), the
stream unit (R323), the slot positions in use, the broadcast. -/
def State.startIssue (t s : State) (b : Bundle) (bs : List Byte) : State :=
  let u := t.updMe fun x => { x with
    coll := (s.hurryAtoms s.cur).me.startCycle.coll
    overlap := if s.junior s.cur then 0 else x.overlap, yielded := if s.junior s.cur then false else x.yielded
    strWait := some 0 }
  (if s.servedSecond s.cur then u else u.updTile (tileOf s.cur) fun k => { k with
    used := useMask b, strBusy := b.2.2.2.streams t.me.a }).broadcast bs

/-- The header's post (R21, R83): gated. -/
def headerPost (h : Hdr) (s : State) : State := if 2 ≤ h.sy then s.gatePost s.cur h.fn (h.cnt + 1) else s

/-- What the bundle leaves behind is cleared. -/
def Ctx.endBundle (x : Ctx) : Ctx :=
  { x with
    inIssue := false, nextPc := none, eoc := [], scope := 0, lt := 0, lb := 0, reqAns := none, reqStage := .none
    wlPassed := none, strWait := none, conflict := none, draft := none, fetched := none }

/-- The issue cycle counts in the watchdog; a drain-point bundle is a progress point, which sets it to zero (R140, R154). -/
def Ctx.countIssue (x : Ctx) (b : Bundle) : Ctx := { x with wdog := if drainPoint b then 0 else x.wdog + 1 }

/-- The PC moves on, and a header's mark is taken (R142). -/
def finishBundle (b : Bundle) (s : State) : State :=
  let n := s.me.advance
  let t := s.setCtx s.cur { n.2 with pc := n.1 }
  (if (hdrOf b).k = 1 then t.mark t.cur n.1 else t).updMe Ctx.endBundle

/-- Slots 2, 3 and 0, slot 1 having run; an FP exception due in the cycle comes before an exit (R65). -/
def otherSlots (b : Bundle) (fp : Bool) (s : State) : State :=
  let t := slotResult b.2.2.2 (slotResult b.2.2.1 s)
  match b.1, fp with
  | .exit _, true => t
  | i, _ => slotResult i t

/-- The cycle after slot 1: `s` as it stood before, `t` with slot 1 run. -/
def runCycle (b : Bundle) (bs : List Byte) (s t : State) : State :=
  let w := (otherSlots b (s.hurryAtoms s.cur).me.fpDue.isSome (t.startIssue s b bs)).freeLatch s.cur
  if w.me.cond != .running then w
  else
    let w := (headerPost (hdrOf b) w).updMe fun x => x.endSlots.countIssue b
    match (s.hurryAtoms s.cur).me.fpDue with
    | some p => takeTrap p.fpTrap w
    | none => finishBundle b w

/-- A result lands from an uncorrectable granule: the trap is taken, and no slot of the bundle acts (R219, R51); `v` is the
state after acceptance, whose copied pages and table marks rollback does not undo (R250). -/
def landingTrap (p : Pend) (s v : State) : State :=
  takeTrap p.wellTrap ((v.updMe fun x => { x with coll := (s.hurryAtoms s.cur).me.startCycle.coll }).freeLatch s.cur)

/-- Acceptance (R242), which may stall or trap, and the issue cycle. -/
def issueCycle (b : Bundle) (bs : List Byte) (s : State) : State :=
  let v := s.landedView (hdrOf b)
  let t := slotResult b.2.1 v
  if t.me.cond == .parked then t
  else if b.2.1.isCommand && t.me.stall != v.me.stall then
    let x := (s.hurryAtoms s.cur).me
    t.setCtx s.cur { x with
      stall := x.stall + 1, wdog := x.wdog + 1, draft := t.me.draft, acceptSeq := t.me.acceptSeq }
  else match (s.hurryAtoms s.cur).me.mcDue with
    | some p => landingTrap p s (if b.2.1.isCommand then t else v)
    | none => runCycle b bs s t

/-- The atomics and the released posts that a load of the bundle follows in program order are performed (R82, R88). -/
def loadOrder (b : Bundle) (s : State) : State := if b.2.1.loads then s.ownFirst s.cur else s

/-- One clock cycle of a decoded bundle. -/
def issueDecoded (b : Bundle) (bs : List Byte) (s : State) : State :=
  match beforeAccept b s with
  | .error t => t
  | .ok t => issueCycle b bs (loadOrder b t)

/-- A header (R34) alone in its bundle. -/
def execHeader (d k sc sy fn cnt lt lb : Nat) (s : State) : Out :=
  .next (issueDecoded (.header d k sc sy fn cnt lt lb, .nopM 0, .nopV 0, .nopX 0) [] s)

/-! ### Fetch (R165, R399) -/

/-- What a fetch brings. -/
inductive Fetched where
  | bundle (bs : List Byte) (s : State)
  | trap (t : Trap) (s : State)

/-- A fetch that translates afresh: the bundle, held in the tile from now on. A walk that meets an uncorrectable table entry
traps like an uncorrectable bundle, code 0x0A of R399 (log 32, DEDUCED). -/
def freshFetch (t : Task) (s : State) : Fetched :=
  let pc := s.me.pc
  match taskXlate s (s.revOf s.cur).table ((opbCode t.opb + pc) % 2 ^ 56) false with
  | .error k => .trap (if k = 6 then { cause := 0x0A, pc := pc, detail := mcDetail 2 pc } else
      { cause := 0x0E, pc := pc, detail := 9 + k * 2 ^ 8 }) s
  | .ok p =>
    if s.unreadable p 16 then .trap { cause := 0x0A, pc := pc, detail := mcDetail 2 pc } s
    else
      let bs := s.read p 16
      .bundle bs ((s.correctRead (s.revOf s.cur).table ((opbCode t.opb + pc) % 2 ^ 56) 16).updTile (tileOf s.cur) fun u => { u with
        code := (t.num, pc, p, bs) :: u.code.filter fun e => !(e.1 == t.num && e.2.1 == pc) })

/-- The bundle at the PC. Beyond the code image slot 0 has OP 14. A bundle fetched before may come from the copy held in
the tile: old bytes, or the bytes now at the old translation (log 3). -/
def fetchBundle (s : State) : Fetched :=
  let x := s.me
  match s.taskOf s.cur with
  | none => .trap { cause := 1, pc := x.pc, detail := 1 } s
  | some t =>
    if opbClen t.opb < x.pc + 16 then .trap { cause := 1, pc := x.pc, detail := 1 } s
    else match (s.tile (tileOf s.cur)).code.find? fun e => e.1 == t.num && e.2.1 == x.pc with
      | none => freshFetch t s
      | some e =>
        let r := s.choose 3
        match r.1 with
        | 0 => freshFetch t r.2
        | 1 => .bundle e.2.2.2 r.2
        | _ => if s.unreadable e.2.2.1 16 then .trap { cause := 0x0A, pc := x.pc, detail := mcDetail 2 x.pc } r.2
          else .bundle (s.read e.2.2.1 16) r.2

/-! ### A turn -/

/-- A follower with nothing to issue: where member 0 has stopped for a pre-emption it stops too (R340). -/
def followerWait (s : State) : State :=
  match s.gangCtx s.cur 0 with
  | none => s
  | some c =>
    if (s.ctx c).cond == .stopped then
      match drainTurn (s.updMe fun x => { x with pc := (s.ctx c).pc }) with
      | .error t => t
      | .ok t => t
    else s

/-- A fetched bundle is decoded and has its clock cycle. -/
def bundleTurn (bs : List Byte) (s : State) : State :=
  match decodeBytes bs with
  | .error e => takeTrap { cause := 1, pc := s.me.pc, detail := e.item } s
  | .ok b => issueDecoded b bs s

/-- The bundle at the PC is fetched once, and kept until it issues (R51). -/
def Ctx.keepBundle (x : Ctx) (bs : List Byte) : Ctx := { x with fetched := some bs }

/-- Fetch, decode and issue. -/
def fetchTurn (s : State) : State :=
  if s.follower then match s.me.bcast with
    | [] => s
    | e :: _ => bundleTurn e.2 (s.updMe fun x => { x with pc := e.1 })
  else match s.me.fetched with
    | some bs => bundleTurn bs s
    | none => match fetchBundle s with
      | .trap t u => takeTrap t u
      | .bundle bs u => bundleTurn bs (u.updMe fun x => x.keepBundle bs)

/-- The context to be served second in this clock cycle has its bundle too, where it is about to fetch one and the fetch
succeeds: the core lanes of the tile serve both in one cycle (R211). -/
def State.fetchSecond (s : State) (d : Nat) : State :=
  let t : State := { s with cur := d }
  if t.me.cond == .running && t.me.fetched.isNone && t.me.bubbles == 0 && !t.follower && !t.killDue d && s.servedSecond d then
    match fetchBundle t with
    | .bundle bs u => { u.updCtx d (·.keepBundle bs) with cur := s.cur }
    | .trap _ _ => s
  else s

/-- The watchdog trap (R154): the count has reached 2^28. Where a bundle has issued in that cycle no bundle traps: the record's PC is then
that of the next bundle, which follows any mark of the one that issued (R152 names none; log 135, DESIGN CHOICE). -/
def watchdogTrap (s : State) : State :=
  takeTrap { cause := 9, pc := s.me.pc, detail := Config.watchdogLimit } (s.updMe fun x => { x with wdog := 0 })

/-- A clock cycle of a running context, as its watchdog counts it. The cycle a `yield` is held for adds nothing to the context's own count
of lost merge cycles, which counts conflicts of slot positions (R141, R175; log 136, DESIGN CHOICE). -/
def countedTurn (s : State) : State :=
  if s.me.yieldHold then s.stallNow.updMe fun x => { x with yieldHold := false }
  else if s.mustYield s.cur then s.stallNow.updCtx (otherCtx s.cur) fun x => { x with yielded := true }
  else if s.me.bubbles != 0 then bubbleCycle s
  else match s.me.parity with
    | some i => takeTrap { cause := 0x0A, pc := s.me.pc, detail := mcDetail 0 i } s
    | none => fetchTurn s

/-- The watchdog trap is taken in the cycle whose counting brings the count to 2^28; a cycle that counts nothing, or that is a
progress point, cannot (R154). -/
def watched (s : State) : State :=
  if s.me.cond == .running && Config.watchdogLimit ≤ s.me.wdog.toNat then watchdogTrap s else s

/-- One clock cycle of a running context. -/
def runningTurn (s : State) : State :=
  if s.follower && s.me.bcast.isEmpty && s.me.bubbles == 0 && !s.me.yieldHold then followerWait s
  else watched (countedTurn s)

/-- One turn of the present context (R51, R140, R149). -/
def issueTurn (s : State) : State :=
  if s.killDue s.cur then s.killCtx s.cur
  else if s.me.cond != .running then s
  else
    (runningTurn ((s.openTurn s.cur).fetchSecond (otherCtx s.cur))).closeTurn s.cur (s.younger s.cur || s.servedSecond s.cur)

/-- ISSUE_BUNDLE (R51): the present context takes one clock cycle. -/
def execIssueBundle (s : State) : Out := .next (issueTurn s)

end Sys2Proof.Machine
end

