-- ==== Sys2Proof/Machine/CoreEvents.lean ====
section
/-! DEFINITION. What the core path does between issues: stores leave the write-out queue (R82), released posts take effect
(R216), results land in bubble cycles (R48, R49), the older context yields (R141), the watchdog expires (R154). -/

namespace Sys2Proof.Machine

/-- STORE_PERFORM (R82, R81): the write-out queue of context `arg.c` sends its oldest store. -/
def execStorePerform (s : State) : Out :=
  .next (match s.headStore s.arg.c with
    | some e => performStore s.arg.c e s
    | none => s)

/-- FLAG_POST_EFFECT (R216, R21): the released post at position `arg.k` takes effect. -/
def execFlagPostEffect (s : State) : Out := .next (if s.postDue s.arg.k then s.postEffect s.arg.k else s)

/-- RESULT_LAND (R49, R48): a bubble cycle of context `arg.c`, in which the results due land. -/
def execResultLand (s : State) : Out :=
  let t := { s with cur := s.arg.c }
  .next (if t.me.bubbles == 0 then s else issueTurn t)

/-- OVERLAP_YIELD (R141): context `arg.c` has lost 64 merge cycles, and the older context of its tile is held for one. -/
def execOverlapYield (s : State) : Out :=
  let t := { s with cur := otherCtx s.arg.c }
  .next (if t.me.cond == .running && t.mustYield t.cur then issueTurn t else s)

/-- WATCHDOG_TRAP (R154): the watchdog of context `arg.c` stands one below its bound and may reach it in this clock cycle. -/
def execWatchdogTrap (s : State) : Out :=
  let t := { s with cur := s.arg.c }
  .next (if t.me.cond == .running && t.me.wdog.toNat + 1 == Config.watchdogLimit then issueTurn t else s)

end Sys2Proof.Machine
end

