-- ==== Sys2Proof/Machine/Ed25519.lean ====
section
/-! DEFINITION. Ed25519, by which start-up images and measurements are signed (R9, R387, R390); the functions are those of
RFC 8032, section 5.1 (log 12, PRESUMED: the spec names the scheme and does not restate it). -/

namespace Sys2Proof.Machine

/-- The field prime 2^255 − 19. -/
def edP : Nat := 2 ^ 255 - 19

/-- The order of the base point. -/
def edL : Nat := 2 ^ 252 + 27742317777372353535851937790883648493

/-- `b ^ e` modulo the prime, by `n` bits of the exponent. -/
def edPow (b e : Nat) : Nat → Nat
  | 0 => 1
  | n + 1 =>
    let h := edPow b (e / 2) n
    let q := h * h % edP
    if e % 2 = 1 then q * b % edP else q

def edInv (x : Nat) : Nat := edPow x (edP - 2) 256

/-- The constant d of the curve −x² + y² = 1 + d x² y². -/
def edD : Nat := (edP - 121665) * edInv 121666 % edP

/-- A square root of −1. -/
def edI : Nat := edPow 2 ((edP - 1) / 4) 256

/-- A point in extended coordinates: x = X / Z, y = Y / Z, x y = T / Z. -/
structure EdPoint where
  x : Nat
  y : Nat
  z : Nat
  t : Nat
  deriving DecidableEq, Repr, Inhabited

def edZero : EdPoint := { x := 0, y := 1, z := 1, t := 0 }

def edSub (a b : Nat) : Nat := (a + edP - b % edP) % edP

/-- Point addition; complete, so it doubles too. -/
def edAdd (p q : EdPoint) : EdPoint :=
  let a := edSub p.y p.x * edSub q.y q.x % edP
  let b := (p.y + p.x) * (q.y + q.x) % edP
  let c := 2 * edD * p.t % edP * q.t % edP
  let d := 2 * p.z * q.z % edP
  let e := edSub b a
  let f := edSub d c
  let g := (d + c) % edP
  let h := (b + a) % edP
  { x := e * f % edP, y := g * h % edP, z := f * g % edP, t := e * h % edP }

/-- The multiple `k` of a point, by `n` bits of `k`. -/
def edMul (p : EdPoint) (k : Nat) : Nat → EdPoint
  | 0 => edZero
  | n + 1 =>
    let h := edMul p (k / 2) n
    let q := edAdd h h
    if k % 2 = 1 then edAdd q p else q

/-- The x coordinate with a sign bit that belongs to a y coordinate, if one exists. -/
def edRecover (y sign : Nat) : Option Nat :=
  let u := edSub (y * y) 1
  let v := (edD * y % edP * y + 1) % edP
  let w := u * edInv v % edP
  let r := edPow w ((edP + 3) / 8) 256
  let x := if r * r % edP = w then r else r * edI % edP
  if edP ≤ y || x * x % edP != w || (x = 0 && sign = 1) then none
  else some (if x % 2 = sign then x else edP - x)

/-- A point from its 32 bytes. -/
def edDecode (l : List Byte) : Option EdPoint :=
  let n := natOfBytes l
  let y := n % 2 ^ 255
  if l.length ≠ 32 then none
  else (edRecover y (n / 2 ^ 255)).map fun x => { x := x, y := y, z := 1, t := x * y % edP }

/-- The 32 bytes of a point. -/
def edEncode (p : EdPoint) : List Byte :=
  let i := edInv p.z
  bytesOfNat 32 (p.y * i % edP + p.x * i % edP % 2 * 2 ^ 255)

/-- The base point: y = 4 / 5, x even. -/
def edBase : EdPoint :=
  let y := 4 * edInv 5 % edP
  let x := (edRecover y 0).getD 0
  { x := x, y := y, z := 1, t := x * y % edP }

/-- Two points are one point. -/
def EdPoint.same (p q : EdPoint) : Bool := p.x * q.z % edP == q.x * p.z % edP && p.y * q.z % edP == q.y * p.z % edP

/-- The scalar of a digest. -/
def edScalar (l : List Byte) : Nat := natOfBytes (sha512 l) % edL

/-- `ed25519_verify`: public key, message, signature. -/
def edVerify (key msg sig : List Byte) : Bool :=
  let s := natOfBytes (sig.drop 32)
  match edDecode key, edDecode (sig.take 32) with
  | some a, some r =>
    let k := edScalar (sig.take 32 ++ key ++ msg)
    sig.length == 64 && s < edL && (edMul (edMul edBase s 256) 8 4).same (edMul (edAdd r (edMul a k 256)) 8 4)
  | _, _ => false

/-- The secret scalar and the prefix a 32-byte seed expands to. -/
def edExpand (seed : List Byte) : Nat × List Byte :=
  let h := sha512 seed
  (putBits (natOfBytes (h.take 32) / 8 * 8 % 2 ^ 254) 254 1 1, h.drop 32)

/-- The public key of a seed. -/
def edPublic (seed : List Byte) : List Byte := edEncode (edMul edBase (edExpand seed).1 256)

/-- `ed25519_sign`: seed and message. -/
def edSign (seed msg : List Byte) : List Byte :=
  let a := edExpand seed
  let key := edPublic seed
  let r := edScalar (a.2 ++ msg)
  let big := edEncode (edMul edBase r 256)
  let k := edScalar (big ++ key ++ msg)
  big ++ bytesOfNat 32 ((r + k * a.1) % edL)

end Sys2Proof.Machine
end

