-- ==== Sys2Proof/Machine/Merge.lean ====
section
/-! DEFINITION. The merge engine (R75, R348 to R355), forks (R346, R347, R249) and the retries of both (R359). -/

namespace Sys2Proof.Machine

/-! ### Elements (R350, R75) -/

/-- The lower of two exponents, for a common scale. -/
def lowExp (x y : Int) : Int := if x ≤ y then x else y

/-- p + c − a exactly (R75): finite values on one scale. -/
def sumThree (x y z : Bool × Nat × Int) : Exact :=
  let e := lowExp (lowExp x.2.2 y.2.2) z.2.2
  let i := scaledInt x.1 x.2.1 x.2.2 e + scaledInt y.1 y.2.1 y.2.2 e - scaledInt z.1 z.2.1 z.2.2 e
  { neg := i < 0, m := i.natAbs, e := e, sticky := false }

/-- ADD on a floating-point element (R75). -/
def mergeAdd (v : FEnv) (t : FTy) (p c a : Nat) : Nat × FFlags :=
  let x := readVal v t p
  let y := readVal v t c
  let z := (readVal v t a).neg
  if x.isNan || y.isNan || z.isNan then
    (t.cnan, if x.isSig || y.isSig || z.isSig then fNV else 0)
  else
    let infs := [x, y, z].filter FVal.isInf
    if infs.any FVal.sign && infs.any (fun i => !i.sign) then (t.cnan, fNV)
    else match infs with
      | i :: _ => infTo v t i.sign
      | [] => match x, y, readVal v t a with
        | .fin nx mx ex, .fin ny my ey, .fin nz mz ez =>
          let r := sumThree (nx, mx, ex) (ny, my, ey) (nz, mz, ez)
          if r.m = 0 then (t.zero false, 0) else roundTo v t r v.rm
        | _, _, _ => (t.cnan, 0)

/-- Larger or smaller of two integers of a type. -/
def mergeExtreme (larger signed : Bool) (w p c : Nat) : Nat :=
  if (intVal signed w p < intVal signed w c) == larger then c else p

/-- The result of one element, whether it is a conflict, and its flags (R350). `raw` elements have one byte. -/
def mergeElem (v : FEnv) (ty merge p c a : Nat) : Nat × Bool × FFlags :=
  let w := 8 * regionSize ty
  let ones := 2 ^ w - 1
  if p == a && c == a then (p, false, 0)
  else match merge with
    | 0 => (p, false, 0)
    | 1 => (if c == a then p else c, false, 0)
    | 2 => if c == a || p == c then (p, false, 0) else if p == a then (c, false, 0) else (c, true, 0)
    | 6 => (p ||| (c &&& (ones ^^^ a)), false, 0)
    | 7 => (p &&& (c ||| (ones ^^^ a)), false, 0)
    | m => match ETy.ofCode ty with
      | .int sg _ =>
        if m = 3 then (wrap w ((p : Int) + c - a), false, 0)
        else (mergeExtreme (m == 4) sg w p c, false, 0)
      | .flt t =>
        let r := if m = 3 then mergeAdd v t p c a else fopMinMax v t (m == 4) p c
        (r.1, false, r.2)

/-! ### Pages (R351) -/

/-- The elements of a page at virtual address `va`: offset, size, type, merge; bytes outside regions are raw TAKE. -/
def pageElems (l : List Region) (va : Nat) : List (Nat × Nat × Nat × Nat) :=
  let inside := l.flatMap fun r =>
    let k := regionSize r.ty
    let lo := max r.start va
    let hi := min (r.start + r.len) (va + 65536)
    (upTo ((hi - lo) / k)).map fun i => (lo - va + k * i, k, r.ty, r.merge)
  let outside := (upTo 65536).filter fun o => !(l.any fun r => r.start ≤ va + o && va + o < r.start + r.len)
  inside ++ outside.map fun o => (o, 1, 7, 1)

/-- What merging a page comes to: the bytes to write at the parent's frame, elements changed, conflicts, flags. -/
structure PageMerge where
  cells : List Host.Cell := []
  changed : Nat := 0
  conflicts : Nat := 0
  flags : BitVec 7 := 0
  deriving DecidableEq, Repr, Inhabited

/-- One element of the page in frames `fp`, `fc` and `fa`; one that cannot be read in all of them stays as the parent has it
(log 114). -/
def mergeOne (s : State) (v : FEnv) (fp fc fa : Nat) (m : PageMerge) (e : Nat × Nat × Nat × Nat) : PageMerge :=
  if s.badIn (fp + e.1) e.2.1 || s.badIn (fc + e.1) e.2.1 || s.badIn (fa + e.1) e.2.1 then m else
  let p := s.readNat (fp + e.1) e.2.1
  let r := mergeElem v e.2.2.1 e.2.2.2 p (s.readNat (fc + e.1) e.2.1) (s.readNat (fa + e.1) e.2.1)
  let m := { m with conflicts := m.conflicts + ofBool r.2.1, flags := m.flags ||| r.2.2 }
  if r.1 == p then m
  else { m with cells := m.cells ++ cellsAt e.1 (bytesOfNat e.2.1 r.1), changed := m.changed + 1 }

/-- The whole page; the cells stand at offsets of the page. -/
def mergePage (s : State) (v : FEnv) (l : List Region) (va fp fc fa : Nat) : PageMerge :=
  (pageElems l va).foldl (mergeOne s v fp fc fa) {}

/-- The frame of a revisioned page of a table, as a place. -/
def revFrame (s : State) (table va : Nat) : Option Nat :=
  match walk s table va with
  | .ok l => if !l.large && bitAt l.entry 3 then ownPlace s (bits l.entry 16 36 * 2 ^ 16) else none
  | .error _ => none

/-! ### Tables -/

/-- A revision ends: frames of the reserve that no table and no ancestor map names return to it (R347). -/
def State.dropRevision (s : State) (id : Nat) : State :=
  State.reclaim { s with revs := s.revs.filter fun r => r.id != id }

/-! ### Fork (R347, R249) -/

/-- An entry as a fork leaves it in both trees: SH set and D clear in a revisioned leaf. -/
def forkEntry (rem e : Nat) : Nat := if revLeaf rem e then putBits (putBits e 4 1 1) 5 1 0 else e

/-- Mark the revisioned leaves of a table as shared, those that can be read (R391). -/
def shareLeaves (s : State) (p rem : Nat) : State :=
  (tableEntries s.readable p rem).foldl (fun t e =>
    if revLeaf rem e.2 then t.write (cellsAt (p + 8 * e.1) (bytesOfNat 8 (forkEntry rem e.2))) else t) s

/-- Copy a table to a place. -/
def State.copyTable (s : State) (dst src rem : Nat) : State :=
  (s.fill dst (8 * tableLen rem)
    ((s.mem.filter fun c => src ≤ c.1 && c.1 < src + 8 * tableLen rem).map fun c => (c.1 - src + dst, c.2))).copyLost s dst src
    (8 * tableLen rem)

/-- Bytes a table takes on 4 KiB boundaries (R244). -/
def tableRoom (rem : Nat) : Nat := (8 * tableLen rem + 4095) / 4096 * 4096

/-- A place for a copied table, on a 4 KiB boundary: a new frame of the reserve, or the room from `room.1` to `room.2`
that a frame of the same copy has left; which of them is open (log 29). None when the reserve is empty. -/
def State.tablePlace (s : State) (room : Nat × Nat) (rem : Nat) : Option (Nat × (Nat × Nat) × State) :=
  if room.1 + tableRoom rem ≤ room.2 && Config.freeChoice s.freeCount % 2 == 0 then
    some (room.1, (room.1 + tableRoom rem, room.2), { s with freeCount := s.freeCount + 1 })
  else s.takeFrame.map fun r => (r.1, (r.1 + tableRoom rem, r.1 + 65536), r.2)

/-- Copy a table and all below it into frames of the reserve; none when the reserve is empty. Single-bit errors of the table are
corrected as it is read, and an entry that cannot be read is not followed: the copy holds free bytes for it (R391, log 114). -/
def forkTable : Nat → Nat → Nat × Nat → State → Option (Nat × (Nat × Nat) × State)
  | 0, p, room, s => do
    let (f, room, s1) ← s.tablePlace room 0
    some (f, room, (shareLeaves (s1.correct p (8 * tableLen 0)) p 0).copyTable f p 0)
  | n + 1, p, room, s => do
    let (f, room, s1) ← s.tablePlace room (n + 1)
    (tableEntries s.readable p (n + 1)).foldlM (fun (t : Nat × (Nat × Nat) × State) e => match subTable s (n + 1) e.2 with
      | none => some t
      | some q => do
        let (g, room, u) ← forkTable n q t.2.1 t.2.2
        some (f, room, u.write (cellsAt (f + 8 * e.1) (bytesOfNat 8 (putBits e.2 12 40 (ownPa s g / 2 ^ 12))))))
      (f, room, (s1.correct p (8 * tableLen (n + 1))).copyTable f p (n + 1))

/-- Contexts that run in a revision. -/
def State.inRev (s : State) (c rev : Nat) : Bool := (s.revOf c).id == rev

/-- Every command committed in the revision has completed or been cancelled: those that translate again or wait for a
frame, and those a pre-emption has saved, count too (R249). -/
def State.revQuiet (s : State) (rev : Nat) : Bool :=
  (upTo 384).all (fun c => !s.inRev c rev || (s.ctx c).records.all fun r => r.st == .held) &&
  s.steps.all fun k => !k.saved || (s.findTask k.task).all (fun t => t.rev != rev) || k.kept.all fun e => e.2.records.isEmpty

/-- Create the child revision of a fork: its record and the state after; none when the reserve cannot supply the tables. -/
def State.forkRev (s : State) (p : Revision) (owner : Nat) : Option (Revision × State) := do
  let root ← ownPlace s p.table
  let (t, _, s1) ← forkTable 3 root (0, 0) s
  let r : Revision := {
    id := s.nextRev, table := ownPa s t, parent := p.id, depth := p.depth + 1, owner := owner
    anc := revLeaves s.readable 3 root 0 }
  some (r, State.invalidate { s1 with revs := s1.revs ++ [r], nextRev := s.nextRev + 1 } p.id)

/-- Change the pending fork of a context. -/
def State.updFork (s : State) (c : Nat) (f : PendFork → PendFork) : State :=
  { s with forks := s.forks.map fun k => if k.c == c then f k else k }

/-- The task engine's answer to a request of context c stands in its request record (R361). -/
def Ctx.recordAnswer (x : Ctx) (a : Nat) : Ctx := { x with req := some (x.pc, a) }

/-- The snapshot of a fork (R347, R363, steps 4 to 6); a refusal by the reserve is recorded and backs off (R359). -/
def forkNow (f : PendFork) (p : Revision) (o : List Byte) (s : State) : State :=
  let x := s.ctx f.c
  match s.forkRev p s.nextTask with
  | none => (s.offerTask 2 0 (opbCrec o % 2 ^ 56) (f.tries + 1) x.step x.task).updFork f.c fun k => { k with
      tries := k.tries + 1, hold := true }
  | some (r, t) =>
    let u := acceptLaunch { t with forks := t.forks.filter fun k => k.c != f.c } r.id p.table f.opbVa x.task f.key .forked o
    u.updCtx f.c fun x => { x.recordAnswer s.nextTask with forks := x.forks + 1 }

/-- FORK_SNAPSHOT (R347): the fork that context `arg.c` asked for is done once its revision is quiet and the numbers of live
tasks and revisions allow it (R335). -/
def execForkSnapshot (s : State) : Out :=
  .next (match s.forks.find? fun f => f.c == s.arg.c && !f.hold with
    | none => s
    | some f =>
      let p := s.revOf f.c
      if !s.revQuiet p.id || 16384 ≤ s.liveTasks || 4096 ≤ s.revs.length then s
      else match (taskRead s p.table f.opbVa 256).toOption with
        | some o => forkNow f p o s
        | none => { s with forks := s.forks.filter fun k => k.c != f.c })

/-! ### Join (R351, R353, R354) -/

/-- A child's revision is closed (R348): it and every task launched into its revision have completed. -/
def State.closed (s : State) (t : Task) : Bool := s.tasks.all fun u => u.rev != t.rev || u.recorded

/-- The merge report (R353). -/
def mergeReport (t : Task) (status : Nat) (j : PendJoin) : List Byte :=
  bytesOfNat 1 2 ++ bytesOfNat 1 status ++ bytesOfNat 2 0 ++ bytesOfNat 4 t.num ++ bytesOfNat 4 j.nPages ++
  bytesOfNat 4 j.changed ++ bytesOfNat 4 j.conflicts ++ bytesOfNat 1 (j.flags.toNat % 32) ++ bytesOfNat 3 0 ++
  bytesOfNat 8 t.forkKey ++ bytesOfNat 32 0

/-- Change the join of a child. -/
def State.updJoin (s : State) (child : Nat) (f : PendJoin → PendJoin) : State :=
  { s with joins := s.joins.map fun j => if j.child == child then f j else j }

/-- The caller's context learns that its join has ended. -/
def Ctx.joinEnded (x : Ctx) (j : PendJoin) (status : Nat) : Ctx :=
  if j.all then { x with reqStage := .asked } else { x.recordAnswer status with reqStage := .asked }

/-- A join ends: report, child, revision, caller (R353, R354). -/
def endJoin (j : PendJoin) (t : Task) (status : Nat) (s : State) : State :=
  let table := ((s.findRev t.rev).map Revision.table).getD 0
  let s := s.correctWalk table (opbCrec t.opb % 2 ^ 56)
  let s1 := match crecPlace s table (opbCrec t.opb) with
    | some p => s.write (cellsAt (p + 64) (mergeReport t status j))
    | none => s
  let s2 := State.dropRevision { s1 with joins := s1.joins.filter fun k => k.child != j.child } t.rev
  let s3 := s2.updTask t.num fun u => { u with join := .joined, joinAns := status }
  let s4 := if j.auto then s3.updTask j.parent fun u => { u with joined := u.joined + 1 } else s3
  match j.c with
  | some c => s4.updCtx c fun x => x.joinEnded j status
  | none => s4

/-- Commands of a revision that hold frames they translated (R247, R383). -/
def State.heldFrames (s : State) (rev : Nat) : List (Nat × Nat) :=
  (upTo 384).flatMap fun c =>
    if s.inRev c rev then ((s.ctx c).records.filter fun r => r.st == .committed && !r.stale).map fun r => (c, r.order) else []

/-- A command an invalidation waits for is still there. -/
def State.holdsOld (s : State) (w : Nat × Nat) : Bool := (s.ctx w.1).records.any fun r => r.order == w.2

/-- Begin the merge of a closed child: both revisions leave the TLBs, the region table is taken as it stands (R247, R368);
the merge goes on once the committed commands that hold frames of the revisions are over. -/
def beginMerge (j : PendJoin) (p : Task) (c : Revision) (s : State) : State :=
  let s1 := ((s.invalidate p.rev).invalidate c.id).updJoin j.child fun j => { j with
    pages := some (c.anc.map Prod.fst), regions := p.regions, waits := s.heldFrames p.rev ++ s.heldFrames c.id }
  match j.c with
  | some d => s1.updCtx d fun x => { x with reqStage := .merging }
  | none => s1

/-- The frames of a page in parent, child and ancestor when the merge takes it (R351). -/
def pageFrames (s : State) (p c : Revision) (v : Nat) : Option (Nat × Nat × Nat) := do
  let fp ← revFrame s p.table (v * 65536)
  let fc ← revFrame s c.table (v * 65536)
  let fa ← (c.anc.find? fun e => e.1 == v).map Prod.snd
  if fp = fa && fc = fa then none else some (fp, fc, fa)

/-- The step number a join's records name. -/
def PendJoin.stepNum (j : PendJoin) (s : State) : Nat := match j.c with
  | some c => (s.ctx c).step
  | none => 0xFFFFFFFF

/-- Write a merged page: the parent's page is its own and dirty first (R248); a refusal backs off (R359). -/
def writePage (j : PendJoin) (p : Revision) (v : Nat) (m : PageMerge) (rest : List Nat) (s : State) : State :=
  let count := fun (s : State) => s.updJoin j.child fun j => { j with
    pages := some rest, nPages := j.nPages + 1, changed := j.changed + m.changed, conflicts := j.conflicts + m.conflicts
    flags := j.flags ||| m.flags }
  if m.cells.isEmpty then count s
  else match s.ownPage p (v * 65536) with
    | none => (s.offerTask 2 j.child (v * 65536) (j.tries + 1) (j.stepNum s) j.parent).updJoin j.child fun j => { j with
        tries := j.tries + 1, hold := true }
    | some t => match revFrame t p.table (v * 65536) with
      | some f => count (t.write (m.cells.map fun c => (f + c.1, c.2)))
      | none => count t

/-- Every page is merged: the entries that translations have refilled since the merge began leave the TLBs as well, so that an
access accepted after the join meets no frame the merge has moved a page away from (R247, R96). -/
def sealMerge (j : PendJoin) (rp rc : Revision) (s : State) : State :=
  ((s.invalidate rp.id).invalidate rc.id).updJoin j.child fun j => { j with
    pages := some [], sealed := true, waits := s.heldFrames rp.id ++ s.heldFrames rc.id }

/-- The walks of two trees at each of a list of 64 KiB pages: single-bit errors of their entries are corrected, and the uncorrectable
ones, whose pages the merge passes over as unmapped, are logged (R391, log 114). -/
def State.correctPages (s : State) (a b : Nat) (pages : List Nat) : State :=
  let reads := pages.flatMap fun v => walkReads s a (v * 65536) ++ walkReads s b (v * 65536)
  (s.correctAll reads).logBad reads

/-- The next page of a merge, or its end. Single-bit errors of the entries it walks through are corrected (R391). -/
def mergeNext (j : PendJoin) (t p : Task) (rp rc : Revision) (pages : List Nat) (s : State) : State :=
  let skip := pages.takeWhile fun v => (pageFrames s rp rc v).isNone
  let s := s.correctPages rp.table rc.table (pages.take (skip.length + 1))
  match pages.drop skip.length with
  | [] => if j.sealed then endJoin j t 0 s else sealMerge j rp rc s
  | v :: rest => match pageFrames s rp rc v with
    | none => s
    | some (fp, fc, fa) =>
      writePage j rp v (mergePage s (fenv (opbStartNmr p.opb)) j.regions (v * 65536) fp fc fa) rest
        ((s.correctAll [(fp, 65536), (fc, 65536), (fa, 65536)]).logBad [(fp, 65536), (fc, 65536), (fa, 65536)])

/-- JOIN_MERGE (R351): the join of child `arg.t` begins its merge, merges its next page, or ends. A killed parent begins none: the
child is discarded unmerged (R356). -/
def execJoinMerge (s : State) : Out :=
  .next (match s.joins.find? fun j => j.child == s.arg.t && !j.hold with
    | none => s
    | some j => match s.findTask j.child, s.findTask j.parent with
      | some t, some p =>
        if !t.recorded || !s.closed t then s
        else match (if t.st == .complete then s.findRev p.rev else none), s.findRev t.rev with
          | some rp, some rc => match j.pages with
            | none => if p.st == .killed then s.forgetJoins (· == j) else beginMerge j p rc s
            | some l => if j.waits.any s.holdsOld then s else mergeNext j t p rp rc l s
          | _, _ => endJoin j t 1 s
      | _, _ => s)

/-- REVISION_RESERVE_RETRY (R359): the back-off of the fork of context `arg.c` expires, or with `arg.ok` false that of the
merge of child `arg.t`. -/
def execRevisionReserveRetry (s : State) : Out :=
  .next (if s.arg.ok then s.updFork s.arg.c fun f => { f with hold := false }
    else s.updJoin s.arg.t fun j => if j.stopped.isSome then j else { j with hold := false })

end Sys2Proof.Machine
end

