-- ==== Sys2Proof/Machine/Place.lean ====
section
/-! DEFINITION. The walker: which steps may start (R28, R338), where they go (R339, R341, R281, R218), step start (R139,
R334) and resumption (R263, R277, R304). -/

namespace Sys2Proof.Machine

/-! ### Readiness (R28, R338) -/

/-- A task's dependences are satisfied: each named record has been written. -/
def State.depsDone (s : State) (o : List Byte) : Bool :=
  (upTo 4).all fun k => opbDep o k = 0 || s.tasks.all fun t => t.num != opbDep o k || t.recorded

/-- The pre-empted step of a task with the lowest number. -/
def State.savedStep (s : State) (t : Nat) : Option Step :=
  (s.steps.filter fun k => k.task == t && k.saved && !k.killed).foldl (fun acc k => match acc with
    | none => some k
    | some j => if k.step < j.step then some k else some j) none

/-- The next unstarted step may start: step s − W has retired. -/
def State.mayStart (s : State) (t : Task) : Bool :=
  t.started < opbSteps t.opb &&
  (t.started < opbW t.opb || !(s.steps.any fun k => k.task == t.num && k.step + opbW t.opb == t.started))

/-- The step of a ready task that the walker places next (R339): a pre-empted one, or the next number. -/
def State.nextStep (s : State) (t : Task) : Option (Option Step × Nat) :=
  if t.st != .live || t.recorded || !s.depsDone t.opb then none
  else match s.savedStep t.num with
    | some k => some (some k, k.step)
    | none => if s.mayStart t then some (none, t.started) else none

/-- Effective priority (R338). -/
def Task.eff (t : Task) : Nat := min 15 (opbPrio t.opb + if t.svc then 0 else t.boost)

/-- `t` is served before `u`. -/
def Task.before (t u : Task) : Bool := u.eff < t.eff || (t.eff == u.eff && t.num < u.num)

/-! ### Free tiles (R339) -/

/-- Steps that hold tiles. -/
def State.resident (s : State) : List Step := s.steps.filter fun k => !k.saved

/-- The contexts of a tile that no step holds, ascending. -/
def State.freeCtxs (s : State) (tile : Nat) : List Nat :=
  [2 * tile, 2 * tile + 1].filter fun c => !(s.resident.any fun k => k.nums.contains c)

/-- The well units of a tile that are taken. -/
def State.takenRuns (s : State) (cis tile : Nat) : List Member :=
  (s.resident.filter fun k => k.cis == cis).flatMap fun k => k.members.filter fun m => m.tile == tile

/-- The lowest free run of `size` units in a tile's well. -/
def State.freeRun (s : State) (cis tile size : Nat) : Option Nat :=
  let taken := s.takenRuns cis tile
  (upTo 32).find? fun b => b + size ≤ 32 && !(taken.any fun m => m.base < b + size && b < m.base + m.size)

/-- The tile runs a lockstep gang. -/
def State.lockTile (s : State) (cis tile : Nat) : Bool :=
  s.resident.any fun k => (s.findTask k.task).any Task.lock && k.cis == cis && k.members.any fun m => m.tile == tile

/-- The run a member of task t would take on tile `j` of a cistern, when the tile serves. -/
def State.tileSpot (s : State) (t : Task) (cis j : Nat) : Option Nat :=
  if bitAt s.mgmt.svcTile.toNat (8 * cis + j) != t.svc then none
  else if (s.freeCtxs (8 * cis + j)).length < opbCtxs t.opb then none
  else if t.lock && s.lockTile cis j then none
  else s.freeRun cis j (opbAlloc t.opb * opbCtxs t.opb)

/-- The members a step of task t would get in a cistern. -/
def State.cisSpot (s : State) (t : Task) (cis : Nat) : Option (List Member) :=
  if t.wantsRc && (s.cis cis).grant.isSome then none
  else
    let l := (upTo 8).filterMap fun j => (s.tileSpot t cis j).map fun b =>
      { tile := j, base := b, size := opbAlloc t.opb * opbCtxs t.opb : Member }
    if l.length < opbTiles t.opb then none else some (l.take (opbTiles t.opb))

/-- The place for a step of task t: the lowest cistern that has one. -/
def State.spot (s : State) (t : Task) : Option (Nat × List Member) :=
  (upTo 24).findSome? fun k => (s.cisSpot t k).map fun l => (k, l)

/-- The contexts of a gang, by gang index: member × 2 plus the position among the tile's chosen contexts (log 40). -/
def State.gangOf (s : State) (cis per : Nat) (l : List Member) : List (Nat × Nat) :=
  l.zipIdx.flatMap fun m => ((s.freeCtxs (8 * cis + m.1.tile)).take per).zipIdx.map fun c => (2 * m.2 + c.2, c.1)

/-! ### The save pool (R155) -/

/-- A piece of `len` bytes at a place is free. -/
def State.poolFree (s : State) (p len : Nat) : Bool := !(s.poolUsed.any fun u => u.1 < p + len && p < u.1 + u.2)

/-- Take a piece of the save pool, 64 KiB aligned; which free one is open (log 3). -/
def State.takePool (s : State) (len : Nat) : Option (Nat × State) :=
  match ownPlace s s.mgmt.savePool with
  | none => none
  | some base =>
    let l := ((upTo (s.mgmt.saveSize / 65536)).map fun i => base + 65536 * i).filter fun p =>
      p + len ≤ base + s.mgmt.saveSize && s.poolFree p len
    match l with
    | [] => none
    | p :: r =>
      let k := if r.isEmpty then p else l.getD (Config.freeChoice s.freeCount % l.length) p
      some (k, { s with freeCount := s.freeCount + 1, poolUsed := (k, len) :: s.poolUsed })

/-- Take one piece for each key of a list. -/
def takePools (len : Nat) : List Nat → State → Option (List (Nat × Nat) × State)
  | [], s => some ([], s)
  | k :: r, s => do
    let (p, s1) ← s.takePool len
    let (l, s2) ← takePools len r s1
    some ((k, p) :: l, s2)

/-- Give pieces back. -/
def State.freePool (s : State) (l : List (Nat × Nat)) : State :=
  { s with poolUsed := s.poolUsed.filter fun u => !(l.any fun e => e.2 == u.1) }

/-! ### Choosing (R338) -/

/-- A step the walker can place now, with everything it takes. -/
structure Choice where
  task : Task
  saved : Option Step
  step : Nat
  cis : Nat
  members : List Member
  deriving DecidableEq, Repr, Inhabited

/-- What the walker could place of a task now. -/
def State.choiceOf (s : State) (t : Task) : Option Choice :=
  match s.nextStep t, s.spot t with
  | some (k, n), some (c, l) =>
    if k.isNone && (takePools Config.saveArea (upTo (opbTiles t.opb * opbCtxs t.opb)) s).isNone then none
    else some { task := t, saved := k, step := n, cis := c, members := l }
  | _, _ => none

/-- The choice the walker makes: the first ready task in its order whose next step fits. -/
def State.choice (s : State) : Option Choice :=
  (s.tasks.filterMap fun t => s.choiceOf t).foldl (fun acc c => match acc with
    | none => some c
    | some d => if c.task.before d.task then some c else some d) none

/-! ### Step start (R139, R334) -/

/-- The loop index of a step at each level, outermost first (R28). -/
def loopIndices (o : List Byte) (n : Nat) : List Nat :=
  (upTo 6).map fun l =>
    if opbLevels o ≤ l then 0
    else n / ((upTo (opbLevels o)).foldl (fun p k => if l < k then p * opbCount o k else p) 1) % opbCount o l

/-- The argument stream (R334). -/
def argStream (o : List Byte) (step task : Nat) : List Word :=
  (((upTo 8).flatMap fun n => [opbArg o n % 2 ^ 32, opbArg o n / 2 ^ 32]) ++ loopIndices o step ++ [step, task]).zipIdx.map
    fun (e : Nat × Nat) => word (e.2 + e.1 % 2 ^ 32 * 2 ^ 32)

/-- A context at step start; the numbers of its operations go on. R139 names no scale table: it starts with zeros, like the
codebooks (log 125). -/
def startCtx (old : Ctx) (t : Task) (step gi : Nat) : Ctx :=
  let a := { Arch.start (opbStartNmr t.opb) with z := (Vector.replicate 4 []).set 3 (argStream t.opb step t.num) }
  { Ctx.idle with
    cond := .running, a := a, sh := a, pc := alignPc (opbEntry t.opb), restart := alignPc (opbEntry t.opb), task := t.num, step := step
    gi := gi, opSeq := old.opSeq, markSeq := old.opSeq, acceptSeq := old.acceptSeq }

/-- Bytes at a virtual address, or none where a page fails or a byte is uncorrectable. -/
def readWhole (s : State) (table va n : Nat) : Option (List Byte) :=
  (piecesOf 0 va n).foldl (fun acc p => match acc, taskXlate s table p.2.2 false with
    | some l, .ok q => if s.unreadable q p.2.1 then none else some (l ++ s.read q p.2.1)
    | _, _ => none) (some [])

/-- The well places of a member. -/
def memberPlace (cis : Nat) (m : Member) : Nat := wellPlace (8 * cis + m.tile) (65536 * m.base)

/-- Fill a range with bytes and zero beyond, with fresh check bits. -/
def State.fillRange (s : State) (p n : Nat) (l : List Byte) : State :=
  s.fill p n (cellsAt p l)

/-- The TID entries of a tile that a gang with these contexts on it owns (R281). -/
def tidHalf (ctxs : List Nat) : List Nat :=
  match ctxs with
  | [c] => (upTo 32).map fun i => 32 * (c % 2) + i
  | _ => upTo 64

/-- The contexts of a gang on a tile. -/
def onTile (ctxs : List (Nat × Nat)) (tile : Nat) : List Nat := (ctxs.filter fun e => tileOf e.2 == tile).map Prod.snd

/-- Put TID entries into a gang's half of a tile. -/
def State.putTids (s : State) (tile : Nat) (ctxs : List Nat) (l : List TidEntry) : State :=
  s.updTile tile fun t => { t with tids := ((tidHalf ctxs).zip l).foldl (fun v e => vput v e.1 e.2) t.tids }

/-- Requests made for a task end with the placement of its step: stopped contexts go on (R343). -/
def State.withdraw (s : State) (k : Step) : State :=
  (k.nums.foldl (fun t c => t.updCtx c fun x => { x with
    preempt := false, cond := if x.cond == .stopped then .running else x.cond }) s).updStep k.task k.step fun j => { j with
      asked := none, spared := true }

/-- Withdraw the outstanding requests for a task. -/
def State.withdrawFor (s : State) (t : Nat) : State :=
  (s.steps.filter fun k => k.asked == some t && !s.allStopped k).foldl State.withdraw s

/-- Grant the route counters of a cistern, at given values (R218). -/
def State.grantRc (s : State) (t : Task) (cis step : Nat) (rc : Vector (BitVec 32) 64) : State :=
  if t.wantsRc then s.updCis cis fun u => { u with grant := some (t.num, step), rc := rc } else s

/-- Start a step: gang map, TID halves, route counters, preload and contexts (R339, R334). -/
def startStep (ch : Choice) (s : State) : State :=
  let t := ch.task
  let ctxs := s.gangOf ch.cis (opbCtxs t.opb) ch.members
  match takePools Config.saveArea (ctxs.map Prod.fst) s with
  | none => s
  | some (areas, s1) =>
    let k : Step := {
      task := t.num, step := ch.step, cis := ch.cis, members := ch.members, ctxs := ctxs, areas := areas }
    let s2 : State := { s1 with
      steps := s1.steps ++ [k]
      board := s1.board ++ [{ task := t.num, step := ch.step, v := 0 }] }
    let s3 := ((s2.withdrawFor t.num).updTask t.num fun u => { u with started := u.started + 1, boost := 0 }).grantRc t ch.cis
      ch.step (Vector.replicate 64 0)
    let s4 := ctxs.foldl (fun u e => u.updCtx e.2 fun x => startCtx x t ch.step e.1) s3
    let s5 := ch.members.foldl (fun u m =>
      u.putTids (8 * ch.cis + m.tile) (onTile ctxs (8 * ch.cis + m.tile)) (List.replicate 64 {})) s4
    let table := ((s.findRev t.rev).map Revision.table).getD 0
    match readWhole s table (opbWell t.opb) (opbWlen t.opb) with
    | none => s5.engineKill t.num ch.step 3
    | some l => ch.members.foldl (fun u m => u.fillRange (memberPlace ch.cis m) (65536 * m.size) l)
        (s5.correctRead table (opbWell t.opb) (opbWlen t.opb))

/-- STEP_PLACE (R339): the walker places the next step that fits, when that step has not been started. -/
def execStepPlace (s : State) : Out :=
  .next (match s.choice with
    | some ch => if ch.saved.isNone then startStep ch s else s
    | none => s)

/-! ### Resumption (R263, R277, R304) -/

/-- Counters from an image. -/
def State.loadCounters (s : State) (area : Nat) (x : Ctx) : Ctx :=
  let rd := fun i => BitVec.ofNat 32 (s.readNat (area + 0x2E0 + 4 * i) 4)
  { x with cSph := rd 0, cByte := rd 1, cPump := rd 2, cDrn := rd 3, cAtom := rd 4 }

/-- A context of a resumed step before its records are issued again. -/
def State.revive (s : State) (area : Nat) (kept old : Ctx) : Ctx :=
  let n := max kept.opSeq old.opSeq
  let x := s.loadCounters area (s.reload area { kept with
    records := [], req := none, bcast := [], opSeq := n, markSeq := n, acceptSeq := max kept.acceptSeq old.acceptSeq, preempt := false })
  { x with cond := if kept.cond == .exited then .exited else x.cond }

/-- `sph.stat` names the most recently accepted command by its index: a re-issued one has the index of its record (R267, R274). -/
def Ctx.renameLast (x : Ctx) (saved : List SphCmd) : Ctx :=
  let now := fun (a : Arch) => { a with lastRec := a.lastRec.map fun i => (findPos (fun r => r.idx == i) saved).getD i }
  { x with a := now x.a, sh := now x.sh }

/-- Bring back the contexts of a step: gang index, context, save area, kept part; none when a record fails (R263). -/
def reviveAll (l : List (Nat × Nat)) (k : Step) (s : State) : Option State :=
  l.foldlM (fun t e => match k.areas.find? (fun a => a.1 == e.1), k.kept.find? (fun x => x.1 == e.1) with
    | some a, some x =>
      let u := t.updCtx e.2 fun old => t.revive a.2 x.2 old
      (u.reissueAll e.2 a.2 x.2.records (t.readNat (a.2 + 7) 1)).map fun v =>
        v.updCtx e.2 fun y => { y.renameLast x.2.records with opSeq := y.opSeq + 1, markSeq := y.opSeq + 1 }
    | _, _ => some t) s

/-- What a tile image holds, as numbers (R304): TID entries with their codebooks, and for each context its scale table,
row-progress register and stationary slot with its TID. -/
def tileImage (tids : List TidEntry) (xs : List Ctx) : List Nat :=
  tids.flatMap (fun e => e.img.toNat :: e.book.map BitVec.toNat) ++
  xs.flatMap fun x => x.scale.map BitVec.toNat ++ x.rowProg.toNat :: match x.statSlot with
    | none => [0]
    | some k => 1 :: k.tid :: k.ent.img.toNat :: k.ent.book.map BitVec.toNat ++ k.data.map BitVec.toNat

/-- Bytes of a tile image: each entry takes 32 and its codebook 32, a context its table, its register and its slot. -/
def tileImageSize (tids : List TidEntry) (xs : List Ctx) : Nat :=
  64 * tids.length + xs.foldl (fun n x => n + 128 + match x.statSlot with
    | none => 0
    | some k => 64 + k.data.length) 0

/-- Where the tile images of a saved step lie in the save pool, and their lengths. -/
def Step.tileReads (k : Step) : List (Nat × Nat) :=
  k.tileImages.map fun e => (e.2, tileImageSize (((k.tids.find? fun t => t.1 == e.1).map Prod.snd).getD [])
    ((k.kept.filter fun x => x.1 / 2 == e.1).map Prod.snd))

/-- An image of the saved step is broken (R155), or cannot be read (log 114). -/
def State.brokenSaved (s : State) (k : Step) : Bool :=
  (k.areas.any fun a => imageBroken s a.2 true || s.badIn a.2 Config.saveArea) || k.tileReads.any fun r => s.badIn r.1 r.2

/-- The reads of a saved step's save areas and tile images: single-bit errors are corrected, and the granules that make an image
unreadable are logged (R391). -/
def State.correctSaved (s : State) (k : Step) : State :=
  let reads := k.areas.map (fun a => (a.2, Config.saveArea)) ++ k.tileReads
  (s.correctAll reads).logBad reads

/-- Allocation and tile images go into their new places. -/
def restoreMember (cis : Nat) (ctxs : List (Nat × Nat)) (k : Step) (s : State) (m : Member × Nat) : State :=
  let p := memberPlace cis m.1
  let n := 65536 * m.1.size
  let tile := 8 * cis + m.1.tile
  let s1 := match k.images.find? fun e => e.1 == m.2 with
    | some e => ((s.correct e.2 n).fillRange p n (s.read e.2 n)).copyLost s p e.2 n
    | none => s
  match k.tids.find? fun e => e.1 == m.2 with
  | some e => s1.putTids tile (onTile ctxs tile) e.2
  | none => s1

/-- The stage effects of a step with the contexts they name renamed: by gang index while the step is saved, by the new
contexts once it is resumed. The numbers of the operations they wait for stand (R93, R87). -/
def State.renameWaits (s : State) (k : Step) (name : List (Nat × Nat)) : State :=
  let f := fun (c : Nat) => ((name.find? fun e => e.1 == c).map Prod.snd).getD c
  { s with stageQ := s.stageQ.map fun (e : StageEff) =>
      if e.task == k.task && e.step == k.step then
        { e with waits := e.waits.map fun w => (f w.1, w.2), fences := e.fences.map fun w => (f w.1, w.2) }
      else e }

/-- The machine before the contexts of a resumed step come back: the step stands on its new tiles, its route counters are
granted again, allocation and tile images are in their places. -/
def resumePrep (ch : Choice) (k : Step) (s : State) : State :=
  let ctxs := s.gangOf ch.cis (opbCtxs ch.task.opb) ch.members
  let s1 := (s.withdrawFor k.task).updStep k.task k.step fun j => { j with
    cis := ch.cis, members := ch.members, ctxs := ctxs, saved := false, kept := [], tids := [], images := []
    tileImages := [], rc := [] }
  let s2 := (s1.updTask k.task fun u => { u with boost := 0 }).grantRc ch.task ch.cis k.step
    (fillFrom (Vector.replicate 64 0) k.rc)
  ch.members.zipIdx.foldl (restoreMember ch.cis ctxs k) s2

/-- Resume a pre-empted step on the tiles chosen for it. -/
def resumeSaved (ch : Choice) (k : Step) (s : State) : State :=
  let s := s.correctSaved k
  if s.brokenSaved k then s.engineKill k.task k.step 1
  else
    let ctxs := s.gangOf ch.cis (opbCtxs ch.task.opb) ch.members
    match reviveAll ctxs k (resumePrep ch k s) with
    | none => s.engineKill k.task k.step 2
    | some t => (t.renameWaits k ctxs).freePool (k.images ++ k.tileImages)

/-- STEP_RESUME (R263): the walker places the next step that fits, when that step was pre-empted. -/
def execStepResume (s : State) : Out :=
  .next (match s.choice with
    | some ch => match ch.saved with
      | some k => resumeSaved ch k s
      | none => s
    | none => s)

end Sys2Proof.Machine
end

