-- ==== Sys2Proof/Machine/TaskEngine.lean ====
section
/-! DEFINITION. The task engine's own acts: stage board (R344, R345), retirement (R95, R218), completion (R335, R337), ageing
(R338), pre-emption (R342, R343, R261, R276, R277, R304), fault records (R251, R252) and TLB invalidation (R383, R247). -/

namespace Sys2Proof.Machine

/-! ### Stage board (R344, R345, R93) -/

/-- A stage effect may reach the board: its step is neither parked nor saved, and everything it waits for is performed,
the accesses an `xf` to task named among it (R87, R93). -/
def State.effectReady (s : State) (e : StageEff) : Bool :=
  match s.findStep e.task e.step with
  | none => false
  | some k => k.parkedBy.isEmpty && !k.saved && (e.waits.all fun w => s.opsDone w.1 w.2) &&
      e.fences.all fun f => s.fencesDone f.1 [f.2]

/-- The ready effects of a step, oldest first. -/
def State.readyEffects (s : State) (task step : Nat) : List StageEff :=
  s.stageQ.filter fun e => e.task == task && e.step == step && s.effectReady e

/-- A counter after the effects of one clock cycle, and whether the sum was clipped (R344). -/
def boardStep (stages v : Nat) (l : List StageEff) : Nat × Bool :=
  if 0xFFFE ≤ v then (v, false)
  else
    let v := l.foldl (fun m e => if e.kind == .set then max m e.n else m) v
    let sum := l.foldl (fun m e => if e.kind == .adv then m + e.n else m) v
    if l.any fun e => e.kind == .exit then (0xFFFF, decide (stages < sum)) else (min sum stages, decide (stages < sum))

/-- Put a counter of the board. -/
def setCount (l : List Count) (task step v : Nat) : List Count :=
  l.map fun b => if b.task == task && b.step == step then { b with v := v } else b

/-- STAGE_APPLY (R344): the first `arg.k` ready effects of step `arg.n` of task `arg.t` are applied in one clock cycle. -/
def execStageApply (s : State) : Host.Outcome State Fault Refusal :=
  let l := (s.readyEffects s.arg.t s.arg.n).take s.arg.k
  let stages := ((s.findTask s.arg.t).map fun t => opbStages t.opb).getD 0
  let r := boardStep stages (countIn s.board s.arg.t s.arg.n) l
  let s1 : State := { s with
    board := setCount s.board s.arg.t s.arg.n r.1
    stageQ := s.stageQ.filter fun e => !l.contains e }
  .next (if l.isEmpty then s else if r.2 then s1.note s.arg.t 1 else s1)

/-- STAGE_CACHE_UPDATE (R345): the board's value of step `arg.k` of task `arg.t` reaches the cache of cistern `arg.n`. -/
def execStageCacheUpdate (s : State) : Host.Outcome State Fault Refusal :=
  .next (if s.board.any fun b => b.task == s.arg.t && b.step == s.arg.k then
    s.updCis s.arg.n fun u => { u with
      cache := { task := s.arg.t, step := s.arg.k, v := countIn s.board s.arg.t s.arg.k } ::
        u.cache.filter fun b => !(b.task == s.arg.t && b.step == s.arg.k) }
  else s)

/-- Counters further back than fifteen steps before the oldest unretired step leave the board and the caches. -/
def State.pruneBoard (s : State) (task : Nat) : State :=
  let next := ((s.findTask task).map Task.started).getD 0
  let oldest := (s.steps.filter fun k => k.task == task).foldl (fun m k => min m k.step) next
  let keep := fun (b : Count) => b.task != task || oldest ≤ b.step + 15
  { s with
    board := s.board.filter keep
    ciss := s.ciss.map fun u => { u with cache := u.cache.filter keep } }

/-! ### Retirement (R95, R178, R285) -/

/-- The stores and atomics of a context are performed, and no post to or from it is on its way. -/
def State.coreQuiet (s : State) (c : Nat) : Bool :=
  (s.ctx c).woq.isEmpty && !((s.cis (cisOf c)).atoms.any fun a => a.c == c) &&
  !(s.posts.any fun p => p.c == c || (match p.src with
    | some q => q.1 == c
    | none => false))

/-- The matrix engine has nothing of the context: what its commits have released is over. -/
def Ctx.engineQuiet (x : Ctx) : Bool := x.mx.isEmpty && x.latching.isEmpty && x.bagRun.isNone

/-- Nothing of a context is under way: its accesses are performed, and no post to or from it is on its way. -/
def State.ctxDone (s : State) (c : Nat) : Bool :=
  (s.ctx c).records.isEmpty && s.coreQuiet c && (s.ctx c).engineQuiet

/-- A step retires once its exit stands on the board, or its kill has reached every context, and its accesses are done. -/
def State.mayRetire (s : State) (k : Step) : Bool :=
  (s.stepDead k || (k.exiting && countIn s.board k.task k.step == 0xFFFF && !k.saved)) && k.nums.all s.ctxDone

/-- A context becomes free; the numbers of its operations go on. -/
def freedCtx (x : Ctx) : Ctx := { Ctx.idle with opSeq := x.opSeq, markSeq := x.opSeq, acceptSeq := x.acceptSeq }

/-- A step gives up its route counters. -/
def State.dropGrant (s : State) (k : Step) : State :=
  s.updCis k.cis fun u => if u.grant == some (k.task, k.step) then { u with grant := none } else u

/-- Its contexts leave their tiles. -/
def State.vacate (s : State) (k : Step) : State :=
  k.nums.foldl (fun t c => (t.updCtx c freedCtx).updTile (tileOf c) fun u => u.dropRows c) (s.dropGrant k)

/-- Retire a step. A task that becomes ready by it begins to wait then (R338). -/
def retireStep (k : Step) (s : State) : State :=
  let s1 := ((s.vacate k).freePool (k.areas ++ k.images ++ k.tileImages)).forgetJoins fun j => j.keptFor k.task k.step
  let s2 : State := { s1 with
    steps := s1.steps.filter fun j => !(j.task == k.task && j.step == k.step)
    stageQ := s1.stageQ.filter fun e => !(e.task == k.task && e.step == k.step) }
  let s3 := s2.updTask k.task fun t => { t with
    boost := if (s.nextStep t).isNone then 0 else t.boost
    fflags := k.nums.foldl (fun f c => f ||| (s.ctx c).a.fflags) (t.fflags ||| k.fflags)
    exited := if k.killed then t.exited else t.exited + 1
    abandoned := if k.killed then t.abandoned + 1 else t.abandoned }
  s3.pruneBoard k.task

/-- STEP_RETIRE (R95): step `arg.n` of task `arg.t` retires. -/
def execStepRetire (s : State) : Host.Outcome State Fault Refusal :=
  .next (match s.findStep s.arg.t s.arg.n with
    | none => s
    | some k => if s.mayRetire k then retireStep k s else s)

/-! ### Completion (R335, R337, R355, R356) -/

/-- Every step of a task has retired: all of them, or the started ones of a killed task. -/
def State.stepsOver (s : State) (t : Task) : Bool :=
  (t.st == .killed || t.started == opbSteps t.opb) && !(s.steps.any fun k => k.task == t.num)

/-- The children of a task that it has not joined. -/
def State.leftChildren (s : State) (t : Task) : List Task :=
  sortByKey (s.tasks.filter fun u => u.kind == .forked && u.parent == t.num && u.join != .joined)

/-- The root task's record has been written: every other task is over, the register reopens (R335, R337). -/
def State.rootOver (s : State) : State :=
  { s with
    tasks := [], nextTask := 1, revs := [], board := [], stageQ := [], forks := [], joins := [], framesUsed := []
    ciss := s.ciss.map fun u => { u with cache := [] }
    tiles := s.tiles.map fun u => { u with code := [] } }

/-- Write the completion record of a task whose steps and joins are over. -/
def recordTask (t : Task) (s : State) : State :=
  let killed := t.st == .killed
  let s1 := s.writeRecord t (if killed then 3 else 1) 0
  if t.num = 1 then s1.rootOver
  else s1.updTask t.num fun u => { u with recorded := true, st := if killed then .killed else .complete }

/-- The next act of a task whose steps have retired: discard or join a child, wait for the others, or record. -/
def completeTask (t : Task) (s : State) : State :=
  match s.leftChildren t with
  | u :: _ =>
    if u.join == .joining then s
    else if t.st == .killed then
      (if u.recorded && s.closed u then (s.dropRevision u.rev).updTask u.num fun v => { v with join := .joined } else s)
    else State.updTask { s with joins := s.joins ++ [{ c := none, parent := t.num, child := u.num, auto := true }] }
      u.num fun v => { v with join := .joining }
  | [] =>
    if t.num != 1 then recordTask t s
    else if s.tasks.any fun u => u.num != 1 && !u.svc && !u.recorded then s
    else match s.tasks.find? fun u => u.svc && !u.recorded with
      | some u => if u.st == .killed then s else s.killTask u.num
      | none => recordTask t s

/-- TASK_COMPLETE (R337): the next act towards the completion of task `arg.t`. -/
def execTaskComplete (s : State) : Host.Outcome State Fault Refusal :=
  .next (match s.findTask s.arg.t with
    | none => s
    | some t => if !t.recorded && t.st != .failed && s.stepsOver t then completeTask t s else s)

/-- TASK_AGEING (R338): a further 2^20 clock cycles of waiting raise the effective priority of ready task `arg.t`. -/
def execTaskAgeing (s : State) : Host.Outcome State Fault Refusal :=
  .next (match s.findTask s.arg.t with
    | none => s
    | some t => if (s.nextStep t).isSome && !t.svc then s.updTask t.num fun u => { u with boost := min 15 (u.boost + 1) } else s)

/-! ### Pre-emption (R342, R343) -/

/-- The machine as the requests under way leave it: the steps asked for their tiles are gone, and their route counters are free. -/
def State.freed (s : State) : State :=
  (s.steps.filter fun k => k.asked.isSome).foldl State.dropGrant { s with steps := s.steps.filter fun k => k.asked.isNone }

/-- The waiting tasks: ready, with a next step that does not fit even where the steps already asked make room (R342). -/
def State.waiting (s : State) : List Task :=
  s.tasks.filter fun t => (s.nextStep t).isSome && (s.spot t).isNone && (s.freed.spot t).isNone

/-- The waiting task served first. -/
def firstOf (l : List Task) : Option Task :=
  l.foldl (fun acc t => match acc with
    | none => some t
    | some u => if t.before u then some t else some u) none

/-- Effective priority of a step's task. -/
def State.stepEff (s : State) (k : Step) : Nat := ((s.findTask k.task).map Task.eff).getD 0

/-- `k` is a victim before `j`. -/
def State.victimBefore (s : State) (k j : Step) : Bool :=
  s.stepEff k < s.stepEff j || (s.stepEff k == s.stepEff j && (j.task < k.task || (j.task == k.task && j.step < k.step)))

/-- Lengths of the save-pool pieces a step's images take, by member: the allocation images, then the tile images (R277,
R304). -/
def Step.imageLens (k : Step) : List (Nat × Nat) :=
  k.members.zipIdx.map (fun m => (m.2, 65536 * m.1.size)) ++ k.members.zipIdx.map fun m => (m.2, Config.tileImageRoom)

/-- Take the pieces of the images. -/
def takeImages : List (Nat × Nat) → State → Option (List (Nat × Nat) × State)
  | [], s => some ([], s)
  | e :: r, s => do
    let (p, s1) ← s.takePool e.2
    let (l, s2) ← takeImages r s1
    some ((e.1, p) :: l, s2)

/-- A step may be asked for its tiles on behalf of a waiting task (R342). -/
def State.mayAsk (s : State) (t : Task) (k : Step) : Bool :=
  !k.saved && !k.killed && k.asked.isNone && !k.spared && !((s.findTask k.task).any Task.svc) && s.stepEff k < t.eff

/-- The first victim in order, whatever room the save pool has. -/
def State.firstVictim (s : State) (t : Task) : Option Step :=
  (s.steps.filter fun k => s.mayAsk t k).foldl (fun acc k => match acc with
    | none => some k
    | some j => if s.victimBefore k j then some k else some j) none

/-- The victim for a waiting task: none is asked while the save pool cannot hold the images of the first in order. -/
def State.victim (s : State) (t : Task) : Option Step :=
  (s.firstVictim t).filter fun k => (takeImages k.imageLens s).isSome

/-- PREEMPT_REQUEST (R342): a victim is asked for its tiles; with `arg.ok` false, step `arg.n` of task `arg.t` has been spared
long enough after a withdrawn request (R343). -/
def execPreemptRequest (s : State) : Host.Outcome State Fault Refusal :=
  .next (if !s.arg.ok then s.updStep s.arg.t s.arg.n fun k => { k with spared := false }
    else match firstOf s.waiting with
      | none => s
      | some t => match s.victim t with
        | none => s
        | some k => (k.nums.foldl (fun u c => u.updCtx c fun x => { x with preempt := true }) s).updStep k.task k.step
            fun j => { j with asked := some t.num })

/-- PREEMPT_WITHDRAW (R343): the request to step `arg.n` of task `arg.t` is withdrawn. -/
def execPreemptWithdraw (s : State) : Host.Outcome State Fault Refusal :=
  .next (match s.findStep s.arg.t s.arg.n with
    | none => s
    | some k => if k.asked.isSome && !s.allStopped k then s.withdraw k else s)

/-- The gang has stopped, its siphons are quiet (R343, R261), and nothing an exited context has released is still at an engine. -/
def State.maySave (s : State) (k : Step) : Bool :=
  k.asked.isSome && !k.saved && !k.killed && s.allStopped k &&
  k.nums.all fun c => (s.ctx c).quiet && s.coreQuiet c && (s.ctx c).engineQuiet

/-- The save image of a stopped context: its saved commands, and the counters they come to (R261). -/
def State.saveCtx (s : State) (k : Step) (e : Nat × Nat) : State :=
  let x := s.ctx e.2
  let l := x.savedCmds
  let y := { x with
    cSph := BitVec.ofNat 32 l.length
    cByte := BitVec.ofNat 32 (l.foldl (fun n (r : SphCmd) => n + r.total) 0) }
  match k.areas.find? fun a => a.1 == e.1 with
  | some a => s.putImage a.2 (y.imageFields 0 0 l)
  | none => s

/-- The TID entries of a member's tile image. -/
def State.tidImageOf (s : State) (k : Step) (m : Member × Nat) : Nat × List TidEntry :=
  let tile := 8 * k.cis + m.1.tile
  (m.2, (tidHalf (onTile k.ctxs tile)).map fun i => vget (s.tile tile).tids i)

/-- Write a member's tile image into its piece of the save pool; how it lies there is free (log 71). -/
def State.putTileImage (s : State) (k : Step) (m : Member × Nat) (place : Nat) : State :=
  let tile := 8 * k.cis + m.1.tile
  let own := onTile k.ctxs tile
  let tids := (tidHalf own).map fun i => vget (s.tile tile).tids i
  let xs := own.map s.ctx
  let l := tileImage tids xs
  s.write (cellsAt place ((upTo (tileImageSize tids xs)).map (Config.tileImageByte l)))

/-- Save a gang and free its tiles. A task that becomes ready by it begins to wait then (R338). -/
def saveGang (k : Step) (s : State) : State :=
  match takeImages k.imageLens s with
  | none => s
  | some (places, s1) =>
    let images := places.take k.members.length
    let tiles := places.drop k.members.length
    let s2 := k.ctxs.foldl (fun t e => t.saveCtx k e) s1
    let s3 := (k.members.zipIdx.zip images).foldl (fun (t : State) e =>
      let p := memberPlace k.cis e.1.1
      let n := 65536 * e.1.1.size
      ((t.correct p n).fillRange e.2.2 n (t.read p n)).copyLost t e.2.2 p n) s2
    let s3 := (k.members.zipIdx.zip tiles).foldl (fun (t : State) e => t.putTileImage k e.1 e.2.2) s3
    let granted := (s.cis k.cis).grant == some (k.task, k.step)
    let kept := k.ctxs.map fun e => (e.1, { s.ctx e.2 with req := none, preempt := false })
    let s4 := s3.updStep k.task k.step fun j => { j with
      saved := true, asked := none, ctxs := [], images := images, tileImages := tiles, kept := kept
      tids := k.members.zipIdx.map fun m => s.tidImageOf k m
      rc := if granted then (s.cis k.cis).rc.toList else [] }
    ((s4.renameWaits k (k.ctxs.map fun e => (e.2, e.1))).vacate k).updTask k.task fun t => { t with
      preempts := t.preempts + 1, boost := if (s.nextStep t).isNone then 0 else t.boost }

/-- GANG_PREEMPT (R343): step `arg.n` of task `arg.t`, whose contexts have all stopped, is saved. -/
def execGangPreempt (s : State) : Host.Outcome State Fault Refusal :=
  .next (match s.findStep s.arg.t s.arg.n with
    | none => s
    | some k => if s.maySave k then saveGang k s else s)

/-! ### Fault records (R251, R252) -/

/-- The oldest record an engine holds. -/
def State.firstRecord (s : State) (engine : Nat) : Option FRec := s.records.find? fun r => r.engine == engine

/-- Drop the oldest record of an engine. -/
def dropFirst (engine : Nat) : List FRec → List FRec
  | [] => []
  | r :: l => if r.engine == engine then l else r :: dropFirst engine l

/-- Change the oldest record of an engine. -/
def mapFirst (engine : Nat) (f : FRec → FRec) : List FRec → List FRec
  | [] => []
  | r :: l => if r.engine == engine then f r :: l else r :: mapFirst engine f l

/-- The control block, when it can be reached: FBUF is not zero and names the device's own memory, all of it readable. -/
def State.controlBlock (s : State) : Option Nat :=
  if s.mgmt.fbuf = 0 then none
  else match ownPlace s s.mgmt.fbuf with
    | none => none
    | some p => if s.badIn p 64 then none else some p

/-- The place of ring slot HEAD mod 4,096, when it can be written: own memory without an uncorrectable error (R252). -/
def State.ringSlot (s : State) (cb : Nat) : Option Nat :=
  (ownPlace s (s.readNat (cb + 16) 8 + 32 * (s.readNat cb 8 % 4096))).filter fun p => !s.badIn p 32

/-- The unit reads the control block: its single-bit errors are corrected (R391). -/
def State.correctControl (s : State) : State :=
  if s.mgmt.fbuf = 0 then s
  else match ownPlace s s.mgmt.fbuf with
    | none => s
    | some p => s.correct p 64

/-- The ring has room. -/
def State.ringRoom (s : State) (cb : Nat) : Bool :=
  (s.readNat cb 8 + 2 ^ 64 - s.readNat (cb + 8) 8) % 2 ^ 64 != 4096

/-- Refuse the oldest record of an engine: it waits out its back-off. -/
def refuseRecord (engine : Nat) (cb : Option Nat) (s : State) : State :=
  let s1 : State := { s with records := mapFirst engine (fun r => { r with refused := true, tries := r.tries + 1 }) s.records }
  match cb with
  | none => s1
  | some p => s1.write (cellsAt (p + 24) (bytesOfNat 8 (s.readNat (p + 24) 8 + 1)))

/-- Write a record, then HEAD + 1, then post; a siphon command waiting for it may complete. -/
def writeFault (engine : Nat) (r : FRec) (cb slot : Nat) (s : State) : State :=
  let s1 := ((s.write (cellsAt slot r.bytes)).write (cellsAt cb (bytesOfNat 8 (s.readNat cb 8 + 1))))
  let fctx := s.readNat (cb + 32) 2
  let s2 := if fctx < 384 then s1.updCtx fctx fun x => x.post (s.readNat (cb + 34) 1 % 32) 1 else s1
  let s3 : State := { s2 with records := dropFirst engine s2.records }
  match r.c, r.cmd with
  | some c, some i =>
    let less := fun (q : SphCmd) => if q.order == i then { q with recs := q.recs - 1 } else q
    s3.updCtx c fun x => { x with records := x.records.map less, draft := x.draft.map less }
  | _, _ => s3

/-- A record meets the fault buffer unit: written, or refused (R251, R252). -/
def offerRecord (engine : Nat) (r : FRec) (s : State) : State :=
  match s.controlBlock with
  | none => refuseRecord engine none s
  | some cb => match s.ringSlot cb with
    | some slot => if s.ringRoom cb then writeFault engine r cb slot s else refuseRecord engine (some cb) s
    | none => refuseRecord engine (some cb) s

/-- FAULT_RECORD_OFFER (R251): engine `arg.n` offers its oldest record; the unit reads the control block for it. -/
def execFaultRecordOffer (s : State) : Host.Outcome State Fault Refusal :=
  .next (match s.firstRecord s.arg.n with
    | none => s
    | some r => if r.refused then s else offerRecord s.arg.n r s.correctControl)

/-- FAULT_RECORD_RETRY (R252): the back-off of engine `arg.n` expires. -/
def execFaultRecordRetry (s : State) : Host.Outcome State Fault Refusal :=
  .next { s with records := mapFirst s.arg.n (fun r => { r with refused := false }) s.records }

/-! ### TLB invalidation (R383) -/

/-- TLB_INVALIDATE_COMPLETE (R383): the invalidation under way completes. -/
def execTlbInvalidateComplete (s : State) : Host.Outcome State Fault Refusal :=
  .next (match s.invs with
    | [] => s
    | i :: r =>
      if i.waits.any s.holdsOld then s
      else { s with invs := r, mgmt := { s.mgmt with tlbInv := false } })

end Sys2Proof.Machine
end

