-- ==== Sys2Proof/Machine/Host.lean ====
section
/-! DEFINITION. The host side and the outside world: the management BAR (R378 to R383, R29), CXL.mem (R377), the mailbox (R389,
R390, R393), start-up (R376, R387 to R389), fatal errors and the dump (R394, R395), gale links and other devices of the domain
(R264, R384 to R386, R396), power and clock (R6, R398). -/

namespace Sys2Proof.Machine

/-- Change the management side. -/
def State.updMgmt (s : State) (f : Mgmt → Mgmt) : State := { s with mgmt := f s.mgmt }

/-- A refused write sets LR (R29, R381). -/
def State.refuse (s : State) : State := s.updMgmt fun m => { m with lr := true }

/-! ### Reading the BAR (R378 to R382, R395) -/

/-- A 64-bit register as the host reads it. -/
def State.barRead (s : State) (off : Nat) : Nat :=
  let m := s.mgmt
  match off with
  | 0x0000 => 0x0004 + 1 * 2 ^ 16 + 0x02 * 2 ^ 24
  | 0x0008 => m.state % 8 + ofBool m.min * 2 ^ 6 + ofBool m.lr * 2 ^ 7 + m.fails % 4 * 2 ^ 16 + m.stage % 4 * 2 ^ 20 +
      m.reason % 256 * 2 ^ 24
  | 0x0020 => m.rootTbl
  | 0x0028 => m.devNum
  | 0x0030 => bits m.svcTile.toNat 0 64
  | 0x0038 => bits m.svcTile.toNat 64 64
  | 0x0040 => bits m.svcTile.toNat 128 64
  | 0x0048 => m.savePool
  | 0x0050 => m.saveSize
  | 0x0058 => m.reserve
  | 0x0060 => m.resSize
  | 0x0068 => m.fbuf
  | 0x0070 => ofBool m.tlbInv
  | 0x0078 => Config.dumpAt + ofBool m.dumpDone * 2 ^ 63
  | 0x0080 => m.clockMhz % 2 ^ 16 + m.clockChanges % 2 ^ 32 * 2 ^ 32
  | 0x0088 => m.saveVa
  | _ => 0

/-- A flag-window cell as the host reads it (R382). -/
def State.flagRead (s : State) (c n : Nat) : Nat := (vget (s.ctx c).flags n).toNat

/-! ### Writing the BAR -/

/-- A root task is live: its completion record has not been written. -/
def State.rootLive (s : State) : Bool := !s.tasks.isEmpty

/-- One configuration register written; reserved bits of it are ignored (R7, R378). -/
def Mgmt.put (m : Mgmt) (off v : Nat) : Mgmt :=
  let svc := fun (lo : Nat) => { m with svcTile := BitVec.ofNat 192 (putBits m.svcTile.toNat lo 64 v) }
  match off with
  | 0x0020 => { m with rootTbl := bits v 0 52 }
  | 0x0028 => { m with devNum := bits v 0 16 }
  | 0x0030 => svc 0
  | 0x0038 => svc 64
  | 0x0040 => svc 128
  | 0x0048 => { m with savePool := bits v 16 36 * 2 ^ 16 }
  | 0x0050 => { m with saveSize := bits v 16 48 * 2 ^ 16 }
  | 0x0058 => { m with reserve := bits v 16 36 * 2 ^ 16 }
  | 0x0060 => { m with resSize := bits v 16 48 * 2 ^ 16 }
  | 0x0068 => { m with fbuf := bits v 6 46 * 2 ^ 6 }
  | 0x0088 => { m with saveVa := bits v 0 56 }
  | _ => m

/-- The offsets R381 names. -/
def configOffset (off : Nat) : Bool :=
  [0x0020, 0x0028, 0x0030, 0x0038, 0x0040, 0x0048, 0x0050, 0x0058, 0x0060, 0x0068, 0x0088].contains off

/-- REGISTER_WRITE (R381): the host writes `arg.v` to the configuration register at offset `arg.a`. -/
def execRegisterWrite (s : State) : Host.Outcome State Fault Refusal :=
  .next (if !configOffset s.arg.a then s
    else if s.mgmt.state = 4 && !s.rootLive then s.updMgmt fun m => m.put s.arg.a s.arg.v
    else s.refuse)

/-- FBUF can serve a root task (R381). -/
def State.fbufOk (s : State) : Bool := s.mgmt.fbuf != 0 && (ownPlace s s.mgmt.fbuf).isSome

/-- Launch the root task from the OPB `o` at `va`: a fresh root revision; a failed launch leaves nothing live. -/
def launchRoot (va : Nat) (o : List Byte) (s : State) : State :=
  let r : Revision := { id := s.nextRev, table := s.mgmt.rootTbl, parent := 0, depth := 0, owner := 1 }
  let t := acceptLaunch { s with revs := [r], nextRev := s.nextRev + 1 } r.id r.table va 0 0 .root o
  if t.tasks.all Task.recorded then t.rootOver else t

/-- ROOT_LAUNCH (R29, R381): the host writes `arg.a` to ROOT. -/
def execRootLaunch (s : State) : Host.Outcome State Fault Refusal :=
  .next (if s.mgmt.state != 4 || !s.fbufOk || s.rootLive then s.refuse
    else match readWhole s s.mgmt.rootTbl (s.arg.a % 2 ^ 56) 256 with
      | none => s.refuse
      | some o => launchRoot (s.arg.a % 2 ^ 56) o s)

/-- FLAG_WINDOW_POST (R382): the host writes `arg.v` to the cell of flag `arg.n` of context `arg.c`. -/
def execFlagWindowPost (s : State) : Host.Outcome State Fault Refusal :=
  .next (if 384 ≤ s.arg.c || 32 ≤ s.arg.n then s
    else s.updCtx s.arg.c fun x => x.post s.arg.n (s.arg.v % 2 ^ 16))

/-- TLBINV (R383): the host writes `arg.v`. -/
def execTlbinv (s : State) : Host.Outcome State Fault Refusal :=
  .next (if s.mgmt.tlbInv || !bitAt s.arg.v 0 then s
    else match s.revs.find? fun r => r.table / 2 ^ 12 == bits s.arg.v 12 40 with
      | none => s
      | some r =>
        let t := s.invalidate r.id
        State.updMgmt { t with invs := t.invs ++ [{ rev := r.id, waits := s.heldFrames r.id }] } fun m => { m with tlbInv := true })

/-- CLRMIN (R380). -/
def execClrmin (s : State) : Host.Outcome State Fault Refusal := .next (s.updMgmt fun m => { m with clrmin := true })

/-- DACK (R380): the host has read the dump. -/
def execDack (s : State) : Host.Outcome State Fault Refusal := .next (s.updMgmt fun m => { m with dack := true })

/-- LR_CLEAR (R379). -/
def execLrClear (s : State) : Host.Outcome State Fault Refusal := .next (s.updMgmt fun m => { m with lr := false })

/-- The module after a reset: what survives is device memory, FAILS, MIN, the written CLRMIN and DACK, the dump, the images, the
fuses, keys and certificate, the routes and the error logs (R379, R388, R395). -/
def State.resetModule (s : State) (reason stage : Nat) : State :=
  let m := s.mgmt
  { State.reset with
    sched := s.sched, arg := s.arg, freeCount := s.freeCount, mem := s.mem, badMem := s.badMem, softMem := s.softMem
    softTables := s.softTables, nextRev := s.nextRev, contained := s.contained, routes := s.routes
    ciss := s.ciss.map fun u => { Cistern.idle with log := u.log }
    mgmt := { Mgmt.reset with
      min := m.min, fails := m.fails, reason := reason, stage := stage, clrmin := m.clrmin, dack := m.dack
      dumpDone := m.dumpDone, dumped := m.dumped, images := m.images, keyDigest := m.keyDigest, hexvinKey := m.hexvinKey
      minVersion := m.minVersion, fusedSecret := m.fusedSecret, certSig := m.certSig, fatal := m.fatal, log := m.log } }

/-- RST (R380): every task is lost, and start-up begins. REASON and STAGE stay those of the last failure (R388, log 106). -/
def execRst (s : State) : Host.Outcome State Fault Refusal := .next (s.resetModule s.mgmt.reason s.mgmt.stage)

/-! ### CXL.mem (R377, R394) -/

/-- CXL.mem is served: start-up has enabled it and no fatal error has occurred. -/
def State.memOpen (s : State) : Bool := s.mgmt.state == 4 && s.mgmt.fullWidth

/-- An outside access is answered: how, and with which bytes. -/
def State.respond (s : State) (r : Resp) (bs : List Byte) : State := s.updMgmt fun m => { m with resp := r, reply := bs }

/-- HOST_MEM_WRITE (R377): the host writes the bytes `arg.bs` at device offset `arg.a`; one that CXL.mem does not serve completes with
an error response (R394). With `arg.k` = 1 the host stores into its own memory, at host physical address `arg.a`, where programs reach
the bytes coherently over CXL.cache (R31, R264); that the event of R377 carries this store too is the model's choice (log 143). -/
def execHostMemWrite (s : State) : Host.Outcome State Fault Refusal :=
  .next (if s.arg.k = 1 then
      if s.arg.a + s.arg.bs.length ≤ 2 ^ 51 then (s.write (cellsAt (hostBase + s.arg.a) s.arg.bs)).respond .done []
      else s.respond .error []
    else if s.memOpen && s.arg.a + s.arg.bs.length ≤ Config.deviceBytes then
      (s.write (cellsAt s.arg.a s.arg.bs)).respond .done []
    else s.respond .error [])

/-- `n` bytes as an outside reader gets them. -/
def State.readOut (s : State) (p n : Nat) : List Byte :=
  (upTo n).map fun i => if s.badAt (p + i) then Config.lostData (p + i) else memRead s.mem (p + i)

/-- The dump readout serves a range: a complete dump, read in minimal mode, or after the restart that STATE 7 outlasts (R388,
R395, log 107). -/
def State.dumpOpen (s : State) (a : Nat) : Bool :=
  (s.mgmt.state == 5 || (s.mgmt.state == 7 && s.mgmt.fatal.isNone)) && s.mgmt.dumpDone && Config.dumpAt ≤ a

/-- HOST_MEM_READ (R377): the host reads `arg.n` bytes at device offset `arg.a`; the answer is what the reply holds, or an error
response and no data (R394). -/
def execHostMemRead (s : State) : Host.Outcome State Fault Refusal :=
  .next (if (s.memOpen || s.dumpOpen s.arg.a) && s.arg.a + s.arg.n ≤ Config.deviceBytes then
      (s.correct s.arg.a s.arg.n).respond .done (s.readOut s.arg.a s.arg.n)
    else s.respond .error [])

/-! ### The mailbox (R389, R390, R393) -/

/-- The one signature algorithm, EdDSA Ed25519, and the one hash, SHA-512, as bits of the algorithm fields of SPDM 1.2 (R390;
the bit numbers are those of DSP0274, log 12). -/
def spdmSign : Nat := 2 ^ 10
def spdmHash : Nat := 2 ^ 2

/-- The device identity key: derived from the fused secret (R390). -/
def Mgmt.identity (m : Mgmt) : List Byte := Config.identitySeed m.fusedSecret

/-- The certificate of the identity key, signed by Hexvin (R390). -/
def Mgmt.certificate (m : Mgmt) : List Byte := Config.certificate (edPublic m.identity) m.certSig

/-- The request code, and byte `i`, of an SPDM request (DSP0274, log 12). -/
def spdmCode (bs : List Byte) : Nat := (bs.getD 1 0).toNat
def spdmByte (bs : List Byte) (i : Nat) : Nat := (bs.getD i 0).toNat

/-- The requester's nonce: 32 bytes after the four of the header (DSP0274, log 12). -/
def spdmNonce (bs : List Byte) : List Byte := (bs.drop 4).take 32

/-- An answer signed with the identity key: its parts, and the signature, which covers the requester's nonce (R390). -/
def Mgmt.signedParts (m : Mgmt) (bs : List Byte) (parts : List (List Byte)) : List (List Byte) :=
  parts ++ [edSign m.identity (Config.spdmSigned bs (spdmNonce bs) parts)]

/-- What the answer to an SPDM 1.2 request carries, by request code (R390; the codes are those of DSP0274, log 12): versions, one
algorithm of each kind, digests and certificate of the identity key, a challenge, and the measurements, signed when asked for. -/
def Mgmt.spdmParts (m : Mgmt) (bs : List Byte) : Option (List (List Byte)) :=
  match spdmCode bs with
  | 0x84 => some [bytesOfNat 1 0x12]
  | 0xE1 => some []
  | 0xE3 => some [bytesOfNat 4 spdmSign, bytesOfNat 4 spdmHash]
  | 0x81 => some [sha512 m.certificate]
  | 0x82 => some [m.certificate]
  | 0x83 => some (m.signedParts bs [sha512 m.certificate, sha512 m.measured.flatten])
  | 0xE0 => some (if bitAt (spdmByte bs 2) 0 then m.signedParts bs m.measured else m.measured)
  | _ => none

/-- MAILBOX_SPDM (R390): the answer to the request `arg.bs`; a request the part does not know gets an error answer. -/
def execMailboxSpdm (s : State) : Host.Outcome State Fault Refusal :=
  .next (s.updMgmt fun m => { m with reply := match m.spdmParts s.arg.bs with
    | some l => Config.spdmAnswer (spdmCode s.arg.bs % 0x80) l
    | none => Config.spdmAnswer 0x7F [] })

/-- The bytes of a log. -/
def logBytes (l : List LogEnt) : List Byte :=
  l.flatMap fun e => Config.logEntryBytes e.place e.idx e.check e.corrected e.count

/-- ERROR_LOG_READ (R393). -/
def execErrorLogRead (s : State) : Host.Outcome State Fault Refusal :=
  .next (s.updMgmt fun m => { m with reply := logBytes ((s.ciss.toList.flatMap Cistern.log) ++ m.log) })

/-- ERROR_LOG_CLEAR (R393). -/
def execErrorLogClear (s : State) : Host.Outcome State Fault Refusal :=
  .next (State.updMgmt { s with ciss := s.ciss.map fun u => { u with log := [] } } fun m => { m with log := [] })

/-- MAILBOX_IMAGE_REPLACE (R389): the image of stage `arg.n` + 1 becomes version `arg.v` with the digest (64 bytes),
signature (64 bytes) and body in `arg.bs`. -/
def execMailboxImageReplace (s : State) : Host.Outcome State Fault Refusal :=
  .next (if 3 ≤ s.arg.n then s
    else s.updMgmt fun m => { m with images := vput m.images s.arg.n {
      version := s.arg.v, digest := s.arg.bs.take 64, signature := (s.arg.bs.drop 64).take 64, body := s.arg.bs.drop 128 } })

/-! ### Start-up (R376, R387 to R389) -/

/-- BOOT_START (R387, R388): a start begins at the root-of-trust ROM, or ends there in minimal mode. -/
def execBootStart (s : State) : Host.Outcome State Fault Refusal :=
  .next (if s.mgmt.state != 0 || s.mgmt.begun then s
    else s.updMgmt fun m =>
      let m := { m with begun := true }
      let m := if m.clrmin then { m with fails := 0, min := false, clrmin := false } else m
      let m := if m.fatal.isSome then { m with fatal := none, reason := 7, stage := 0 } else m
      if m.fails = 3 then { m with state := 5, min := true } else { m with measured := [] })

/-- A start fails with a reason that arose at a stage (R388): FAILS rises, and the part starts again. -/
def State.failStart (s : State) (reason stage : Nat) : State :=
  (s.resetModule reason stage).updMgmt fun m => { m with fails := min 3 (m.fails + 1) }

/-- The signature of an image verifies: over the digest of the image, under the Hexvin key whose digest is fused (R387). -/
def Mgmt.signed (m : Mgmt) (i : BootImage) : Bool :=
  sha512 m.hexvinKey == m.keyDigest && edVerify m.hexvinKey i.digest i.signature

/-- The reason an image is refused, or none when it verifies (R387, R389). -/
def Mgmt.imageBad (m : Mgmt) (i : BootImage) : Option Nat :=
  if !m.signed i then some 1
  else if sha512 i.body != i.digest then some 2
  else if i.version < m.minVersion then some 3
  else none

/-- Wells, sumps and tables cleared by stage 3 (R387). -/
def State.clearParts (s : State) : State :=
  { s with
    mem := memClear s.mem wellBase (2 ^ 21 * 192)
    badMem := s.badMem.filter fun g => zoneOf g != .well, softMem := s.softMem.filter fun g => zoneOf g != .well
    softTables := []
    ctxs := Vector.replicate 384 Ctx.idle, tiles := Vector.replicate 192 Tile.idle }

/-- Stage 3 ends the start: ready, or link-limited minimal mode; a dump not yet acknowledged keeps STATE 7 (log 41). -/
def State.endStart (s : State) : State :=
  s.clearParts.updMgmt fun m =>
    if !m.fullWidth then { m with state := 5, reason := 9, stage := 1 }
    else
      let m := if m.min then m else { m with fails := 0 }
      if m.dumped && !m.dack then { m with state := 7 }
      else { m with state := 4, dumped := false, dack := false, dumpDone := false }

/-- Gale links whose training failed come up down (R389, code 0x0A). -/
def State.downLinks (s : State) (mask : Nat) : State :=
  if mask % 2 ^ 12 = 0 then s
  else State.updMgmt { s with links := s.links.mapIdx fun i l => if bitAt mask i then { l with st := .down } else l } fun m =>
    { m with reason := 0x0A, stage := 2 }

/-- A stage passes its work and verifies the next; an image that fails is a failure of the stage it is the image of (R389). -/
def State.nextStage (s : State) : State :=
  let n := s.mgmt.state
  match s.mgmt.imageBad (vget s.mgmt.images n) with
  | some r => s.failStart r (n + 1)
  | none => s.updMgmt fun m => { m with state := n + 1, measured := m.measured ++ [(vget m.images n).digest] }

/-- BOOT_STAGE_DONE (R387): the running stage finishes. `arg.ok` false at stage 1: the CXL link trained below full width;
`arg.k` at stage 2: 4 or 5, the training that failed, else 0; `arg.v` at stage 2: the gale links whose training failed. -/
def execBootStageDone (s : State) : Host.Outcome State Fault Refusal :=
  .next (match s.mgmt.state with
    | 0 => if s.mgmt.begun then s.nextStage else s
    | 1 => (s.updMgmt fun m => { m with fullWidth := s.arg.ok }).nextStage
    | 2 => if s.arg.k = 4 || s.arg.k = 5 then s.failStart s.arg.k 2 else (s.downLinks s.arg.v).nextStage
    | 3 => s.endStart
    | _ => s)

/-- BOOT_WATCHDOG (R389): the start fails with reason 0x06. -/
def execBootWatchdog (s : State) : Host.Outcome State Fault Refusal :=
  .next (if s.mgmt.state ≤ 3 then s.failStart 6 s.mgmt.state else s)

/-! ### Fatal errors (R394 to R396) -/

/-- Every context stops as under a kill; no siphon starts another byte; STATE 6 and AER. The dump is to be written and acknowledged
anew. -/
def State.fatal (s : State) (reason cls idx : Nat) : State :=
  State.updMgmt { s with ctxs := s.ctxs.map (Ctx.kill SphCmd.moved) } fun m => { m with
    state := 6, aer := true, fatal := some (reason, cls, idx), dumpDone := false, dack := false }

/-- The part has stopped at a fatal error, whose dump is in progress or written; what happens to it then is over already (log 132). -/
def Mgmt.stopped (m : Mgmt) : Bool := m.state == 6 || (m.state == 7 && m.fatal.isSome)

/-- FATAL_ERROR (R394): kind `arg.k`, location class `arg.n`, index `arg.a`, in whatever state the part is. -/
def execFatalError (s : State) : Host.Outcome State Fault Refusal :=
  .next (if s.mgmt.stopped then s else s.fatal s.arg.k s.arg.n s.arg.a)

/-- A thermal or power trip: a failed start before STATE 4, a fatal error after it (R388, R394, R398). -/
def State.trip (s : State) : State :=
  if s.mgmt.state ≤ 3 then s.failStart 8 s.mgmt.state else if s.mgmt.stopped then s else s.fatal 8 0 0

/-- THERMAL_TRIP (R398). -/
def execThermalTrip (s : State) : Host.Outcome State Fault Refusal := .next s.trip
/-- POWER_TRIP (R388). -/
def execPowerTrip (s : State) : Host.Outcome State Fault Refusal := .next s.trip

/-- Fields laid out in `n` zero bytes. -/
def layBytes (n : Nat) (l : List (Nat × Nat × Nat)) : List Byte :=
  memReads (memWrites [] (fieldCells 0 l)) 0 n

/-- What the task-engine tables hold: the rows of the task, step and revision tables. -/
def Task.row (t : Task) : List Nat :=
  [t.num, t.rev, t.parent, t.forkKey, t.cause, t.notes, t.fflags.toNat, t.exited, t.abandoned, t.joined, t.preempts, t.started,
    t.boost, ofBool t.recorded, ofBool (t.kind == .forked), ofBool (t.st == .killed), ofBool (t.st == .failed),
    ofBool (t.join == .joining), ofBool (t.join == .joined), t.joinAns] ++
  t.opb.map BitVec.toNat ++ t.sig.map BitVec.toNat ++ t.regions.flatMap fun r => [r.n, r.start, r.len, r.ty, r.merge]

def Step.row (k : Step) : List Nat :=
  [k.task, k.step, k.cis, ofBool k.saved, ofBool k.exiting, ofBool k.killed, k.fflags.toNat, ofBool k.lockOff] ++
  (k.members.flatMap fun m => [m.tile, m.base, m.size]) ++
  ((k.ctxs ++ k.areas ++ k.images ++ k.tileImages).flatMap fun e => [e.1, e.2]) ++ k.parkedBy ++ k.exited

def Revision.row (r : Revision) : List Nat :=
  [r.id, r.table, r.parent, r.depth, r.owner] ++ r.anc.flatMap fun e => [e.1, e.2]

def State.tableRows (s : State) : List (List Nat) :=
  s.tasks.map Task.row ++ s.steps.map Step.row ++ s.revs.map Revision.row

def State.boardRows (s : State) : List (List Nat) :=
  (s.board ++ s.ciss.toList.flatMap Cistern.cache).map fun b => [b.task, b.step, b.v]

/-- Where the firmware reads the fault buffer: its control block, then the ring the block names; none where FBUF, or RING, names no place
of the device's own memory (log 144). -/
def State.dumpReads (s : State) : Option Nat × Option Nat :=
  let cb := ownPlace s s.mgmt.fbuf
  (cb, cb.bind fun p => ownPlace s (natOfBytes (s.readOut (p + 16) 8)))

/-- The firmware reads the control block and the ring for the dump: single-bit errors are corrected, uncorrectable granules logged
(R391). -/
def State.correctDump (s : State) : State :=
  let reads := (s.dumpReads.1.toList.map fun p => (p, 64)) ++ s.dumpReads.2.toList.map fun p => (p, 131072)
  (s.correctAll reads).logBad reads

/-- `n` bytes of a place for the dump; zeros where there is none (log 144). -/
def State.dumpPiece (s : State) (p : Option Nat) (n : Nat) : List Byte :=
  match p with
  | some p => s.readOut p n
  | none => List.replicate n 0

/-- The dump from byte 0x1000 on (R395). -/
def State.dumpBody (s : State) : List Byte :=
  (s.ctxs.toList.flatMap fun x => layBytes Config.saveArea (x.imageFields 0 0 [])) ++ Config.dumpTables s.tableRows ++
  Config.dumpBoards s.boardRows ++ s.dumpPiece s.dumpReads.2 131072 ++ s.dumpPiece s.dumpReads.1 64 ++
  logBytes ((s.ciss.toList.flatMap Cistern.log) ++ s.mgmt.log)

/-- The whole dump (R395). -/
def State.dumpBytes (s : State) : List Byte :=
  let body := s.dumpBody
  let f := s.mgmt.fatal.getD (0, 0, 0)
  bytesOfNat 4 0x504D5544 ++ bytesOfNat 4 1 ++ bytesOfNat 8 (Config.fatalWord f.1 f.2.1 f.2.2).toNat ++
  bytesOfNat 8 (0x1000 + body.length) ++ List.replicate 0x28 0 ++ sha512 body ++ List.replicate 0xF80 0 ++ body

/-- DUMP_COMPLETE (R395): firmware has written the dump and its digest. -/
def execDumpComplete (s : State) : Host.Outcome State Fault Refusal :=
  .next (if s.mgmt.state != 6 then s
    else (s.correctDump.write (cellsAt Config.dumpAt s.correctDump.dumpBytes)).updMgmt fun m => { m with
      state := 7, dumpDone := true, dumped := true })

/-! ### The domain (R264, R384 to R386, R396) -/

/-- PEER_CONTAINED (R396): device `arg.n` of the domain is contained; with `arg.ok` false, system software has reset it. -/
def execPeerContained (s : State) : Host.Outcome State Fault Refusal :=
  .next { s with contained :=
    if s.arg.ok then (if s.contained.contains s.arg.n then s.contained else s.arg.n :: s.contained)
    else s.contained.filter fun d => d != s.arg.n }

/-- The bytes an access from another device leaves at a range, and its answer: 0 read, 1 write, 2 atomic of operation `op`, 3 exact
add (R264, R272, R256). -/
def remoteAct (kind op : Nat) (old bs : List Byte) : List Byte × List Byte :=
  match kind with
  | 0 => (old, old)
  | 1 => (bs, [])
  | 2 =>
    let n := old.length
    (bytesOfNat n (sphAtomNew op (8 * n) (natOfBytes old) (natOfBytes (bs.take n)) (natOfBytes (bs.drop n))), old)
  | _ => (bytesOfNat 40 (exactAdd (natOfBytes old) (natOfBytes bs)).1, [])

/-- GALE_REMOTE_ACCESS (R264): another device acts on `arg.n` bytes of device memory at offset `arg.a`: kind `arg.k`,
operation `arg.v`, bytes `arg.bs`. After a fatal error, and outside STATE 4, the answer is "target lost" (R394); one that cannot be
performed whole is answered with an error (log 13). -/
def execGaleRemoteAccess (s : State) : Host.Outcome State Fault Refusal :=
  let n := if s.arg.k = 1 then s.arg.bs.length else if s.arg.k = 3 then 40 else s.arg.n
  .next (if s.mgmt.state != 4 then s.respond .lost []
    else if Config.deviceBytes < s.arg.a + n then s.respond .error []
    else if s.arg.k = 0 then
      (s.correct s.arg.a n).respond (if s.badIn s.arg.a n then .error else .done) (s.readOut s.arg.a n)
    else if s.arg.k != 1 && s.badIn s.arg.a n then s.respond .error []
    else
      let r := remoteAct s.arg.k s.arg.v (s.read s.arg.a n) s.arg.bs
      ((if s.arg.k = 1 then s else s.correct s.arg.a n).write (cellsAt s.arg.a r.1)).respond .done r.2)

/-- Change a gale link. -/
def State.updLink (s : State) (n : Nat) (f : Link → Link) : State := { s with links := vput s.links n (f (vget s.links n)) }

/-- A lane group holds a faulty lane. -/
def Link.groupBad (l : Link) (hi : Bool) : Bool := bits l.faulty.toNat (if hi then 4 else 0) 4 != 0

/-- The link once flits below `ack` are acknowledged and those through `v` are sent: every flit sent and not acknowledged is
kept, in order. None when the buffer of 512 has no room for them, the link is not up, or `v` is acknowledged (R384). -/
def Link.carry (l : Link) (ack v : Nat) : Option Link :=
  let first := max l.sent ack
  let kept := (l.replay.filter fun f => ack ≤ f) ++ (upTo (v + 1 - first)).map (first + ·)
  if l.st != .up || 512 < kept.length || !kept.contains v then none
  else some { l with replay := kept, sent := max l.sent (v + 1) }

/-- Flit `v` has failed on a lane and is replayed: it arrives, and all through it are acknowledged; or it fails again, and at
its eighth failure in a row the link is down (R384, R385). -/
def Link.crcFail (l : Link) (lane v : Nat) (ok : Bool) : Link :=
  let l := { l with laneReplays := vput l.laneReplays lane (vget l.laneReplays lane + 1) }
  if ok then { l with replay := l.replay.filter fun f => v < f, fails := 0 }
  else
    let l := { l with failing := v, fails := if l.failing = v then l.fails + 1 else 1 }
    if 8 ≤ l.fails then { l with st := .down } else l

/-- FLIT_CRC_FAIL (R384): of the flits link `arg.n` has sent, those below `arg.a` acknowledged, flit `arg.v` fails its CRC on
lane `arg.k` and is replayed from the buffer; with `arg.ok` the replay arrives (log 108). -/
def execFlitCrcFail (s : State) : Host.Outcome State Fault Refusal :=
  .next (match (vget s.links s.arg.n).carry s.arg.a s.arg.v with
    | some l => s.updLink s.arg.n fun _ => l.crcFail s.arg.k s.arg.v s.arg.ok
    | none => s)

/-- LANE_PERSISTENT_FAULT (R385): lane `arg.k` of link `arg.n` has caused 16 replays: the link retrains at half width, or is
down; the event is logged with link and lane (R393). A link that is down stays so. -/
def execLanePersistentFault (s : State) : Host.Outcome State Fault Refusal :=
  .next (if (vget s.links s.arg.n).st == .down || vget (vget s.links s.arg.n).laneReplays s.arg.k < 16 then s
    else
      let t := s.updLink s.arg.n fun l =>
        let l := { l with
          faulty := l.faulty ||| BitVec.ofNat 8 (2 ^ (s.arg.k % 8)), laneReplays := vput l.laneReplays s.arg.k 0 }
        if l.groupBad false && l.groupBad true then { l with st := .down } else { l with st := .retraining, half := true }
      t.updMgmt fun m => { m with log := logPut {
        place := 8, idx := 8 * s.arg.n + s.arg.k, check := 1, corrected := true, count := 1 } m.log })

/-- LINK_RETRAIN_COMPLETE (R385): link `arg.n` runs again at half width. -/
def execLinkRetrainComplete (s : State) : Host.Outcome State Fault Refusal :=
  .next (s.updLink s.arg.n fun l => if l.st == .retraining then { l with st := .up } else l)

/-! ### Power and clock (R6, R398) -/

/-- CLOCK_CHANGE (R6): the arithmetic clock becomes `arg.v` MHz between two clock cycles. -/
def execClockChange (s : State) : Host.Outcome State Fault Refusal :=
  .next (s.updMgmt fun m => { m with clockMhz := s.arg.v % 2 ^ 16, clockChanges := (m.clockChanges + 1) % 2 ^ 32 })

end Sys2Proof.Machine
end

