-- ==== Sys2Proof/Machine/Dispatch.lean ====
section
/-! DEFINITION. The meaning of every row of the opcode table, one arm each. -/

namespace Sys2Proof.Machine

def exec (i : Instr) (s : State) : Host.Outcome State Fault Refusal :=
  match i with
  | .nopS g => Sys2Proof.Machine.execNopS g s
  | .yield g => Sys2Proof.Machine.execYield g s
  | .exit g => Sys2Proof.Machine.execExit g s
  | .trap g c => Sys2Proof.Machine.execTrap g c s
  | .sysc g c => Sys2Proof.Machine.execSysc g c s
  | .brk g c => Sys2Proof.Machine.execBrk g c s
  | .syscResume g => Sys2Proof.Machine.execSyscResume g s
  | .syscKillStep g => Sys2Proof.Machine.execSyscKillStep g s
  | .syscLocate g => Sys2Proof.Machine.execSyscLocate g s
  | .add g d a b x => Sys2Proof.Machine.execAdd g d a b x s
  | .sub g d a b x => Sys2Proof.Machine.execSub g d a b x s
  | .mul g d a b x => Sys2Proof.Machine.execMul g d a b x s
  | .mulh g d a b x => Sys2Proof.Machine.execMulh g d a b x s
  | .mulhn g d a b x => Sys2Proof.Machine.execMulhn g d a b x s
  | .div g d a b x => Sys2Proof.Machine.execDiv g d a b x s
  | .divn g d a b x => Sys2Proof.Machine.execDivn g d a b x s
  | .rem g d a b x => Sys2Proof.Machine.execRem g d a b x s
  | .remn g d a b x => Sys2Proof.Machine.execRemn g d a b x s
  | .and g d a b x => Sys2Proof.Machine.execAnd g d a b x s
  | .or g d a b x => Sys2Proof.Machine.execOr g d a b x s
  | .xor g d a b x => Sys2Proof.Machine.execXor g d a b x s
  | .andn g d a b x => Sys2Proof.Machine.execAndn g d a b x s
  | .shl g d a b x => Sys2Proof.Machine.execShl g d a b x s
  | .shr g d a b x => Sys2Proof.Machine.execShr g d a b x s
  | .sha g d a b x => Sys2Proof.Machine.execSha g d a b x s
  | .min g d a b x => Sys2Proof.Machine.execMin g d a b x s
  | .max g d a b x => Sys2Proof.Machine.execMax g d a b x s
  | .minn g d a b x => Sys2Proof.Machine.execMinn g d a b x s
  | .maxn g d a b x => Sys2Proof.Machine.execMaxn g d a b x s
  | .clz g d a x => Sys2Proof.Machine.execClz g d a x s
  | .popc g d a x => Sys2Proof.Machine.execPopc g d a x s
  | .addi g d a x im => Sys2Proof.Machine.execAddi g d a x im s
  | .muli g d a x im => Sys2Proof.Machine.execMuli g d a x im s
  | .andi g d a x im => Sys2Proof.Machine.execAndi g d a x im s
  | .ori g d a x im => Sys2Proof.Machine.execOri g d a x im s
  | .xori g d a x im => Sys2Proof.Machine.execXori g d a x im s
  | .andni g d a x im => Sys2Proof.Machine.execAndni g d a x im s
  | .shli g d a x im => Sys2Proof.Machine.execShli g d a x im s
  | .shri g d a x im => Sys2Proof.Machine.execShri g d a x im s
  | .shai g d a x im => Sys2Proof.Machine.execShai g d a x im s
  | .mini g d a x im => Sys2Proof.Machine.execMini g d a x im s
  | .maxi g d a x im => Sys2Proof.Machine.execMaxi g d a x im s
  | .minni g d a x im => Sys2Proof.Machine.execMinni g d a x im s
  | .maxni g d a x im => Sys2Proof.Machine.execMaxni g d a x im s
  | .ceq g p a b x => Sys2Proof.Machine.execCeq g p a b x s
  | .cne g p a b x => Sys2Proof.Machine.execCne g p a b x s
  | .clt g p a b x => Sys2Proof.Machine.execClt g p a b x s
  | .cle g p a b x => Sys2Proof.Machine.execCle g p a b x s
  | .cltn g p a b x => Sys2Proof.Machine.execCltn g p a b x s
  | .clen g p a b x => Sys2Proof.Machine.execClen g p a b x s
  | .ceqi g p a im => Sys2Proof.Machine.execCeqi g p a im s
  | .cnei g p a im => Sys2Proof.Machine.execCnei g p a im s
  | .clti g p a im => Sys2Proof.Machine.execClti g p a im s
  | .clei g p a im => Sys2Proof.Machine.execClei g p a im s
  | .cltni g p a im => Sys2Proof.Machine.execCltni g p a im s
  | .cleni g p a im => Sys2Proof.Machine.execCleni g p a im s
  | .lih g d h im => Sys2Proof.Machine.execLih g d h im s
  | .lihK g d h im => Sys2Proof.Machine.execLihK g d h im s
  | .sel g d a b p x => Sys2Proof.Machine.execSel g d a b p x s
  | .pand g d a b => Sys2Proof.Machine.execPand g d a b s
  | .por g d a b => Sys2Proof.Machine.execPor g d a b s
  | .pxor g d a b => Sys2Proof.Machine.execPxor g d a b s
  | .pset g d v => Sys2Proof.Machine.execPset g d v s
  | .br g o => Sys2Proof.Machine.execBr g o s
  | .call g d o => Sys2Proof.Machine.execCall g d o s
  | .bra g d a x => Sys2Proof.Machine.execBra g d a x s
  | .ret g a x => Sys2Proof.Machine.execRet g a x s
  | .lpBegReg g l a => Sys2Proof.Machine.execLpBegReg g l a s
  | .lpBegImm g l c => Sys2Proof.Machine.execLpBegImm g l c s
  | .lpIdx g d k => Sys2Proof.Machine.execLpIdx g d k s
  | .lpBrk g => Sys2Proof.Machine.execLpBrk g s
  | .xcp g f d sr a l x => Sys2Proof.Machine.execXcp g f d sr a l x s
  | .xbase g b r m k => Sys2Proof.Machine.execXbase g b r m k s
  | .getm g d => Sys2Proof.Machine.execGetm g d s
  | .setm g a m => Sys2Proof.Machine.execSetm g a m s
  | .flGet g d sr => Sys2Proof.Machine.execFlGet g d sr s
  | .flClr g sr m => Sys2Proof.Machine.execFlClr g sr m s
  | .tlaunch g d a x => Sys2Proof.Machine.execTlaunch g d a x s
  | .tfork g d a x => Sys2Proof.Machine.execTfork g d a x s
  | .tjoin g d a x => Sys2Proof.Machine.execTjoin g d a x s
  | .tjoinAll g => Sys2Proof.Machine.execTjoinAll g s
  | .tkill g a x => Sys2Proof.Machine.execTkill g a x s
  | .rgnSet g a x => Sys2Proof.Machine.execRgnSet g a x s
  | .stgAdvImm g im => Sys2Proof.Machine.execStgAdvImm g im s
  | .stgAdvReg g a x => Sys2Proof.Machine.execStgAdvReg g a x s
  | .stgSetImm g im => Sys2Proof.Machine.execStgSetImm g im s
  | .stgSetReg g a x => Sys2Proof.Machine.execStgSetReg g a x s
  | .stgWlImm g d im => Sys2Proof.Machine.execStgWlImm g d im s
  | .stgWlReg g d a x => Sys2Proof.Machine.execStgWlReg g d a x s
  | .stgRd g d k x => Sys2Proof.Machine.execStgRd g d k x s
  | .tidSet g t a x => Sys2Proof.Machine.execTidSet g t a x s
  | .tidGet g t d x w => Sys2Proof.Machine.execTidGet g t d x w s
  | .header d k sr y n c t l => Sys2Proof.Machine.execHeader d k sr y n c t l s
  | .nopM g => Sys2Proof.Machine.execNopM g s
  | .waitcImm g k im => Sys2Proof.Machine.execWaitcImm g k im s
  | .waitcReg g k a x => Sys2Proof.Machine.execWaitcReg g k a x s
  | .xf g a b => Sys2Proof.Machine.execXf g a b s
  | .phase g => Sys2Proof.Machine.execPhase g s
  | .rwsR g p a l x => Sys2Proof.Machine.execRwsR g p a l x s
  | .rwsW g p a l x => Sys2Proof.Machine.execRwsW g p a l x s
  | .fpost g t f n => Sys2Proof.Machine.execFpost g t f n s
  | .fset g f a x => Sys2Proof.Machine.execFset g f a x s
  | .rcIncReg g c b x => Sys2Proof.Machine.execRcIncReg g c b x s
  | .rcIncImm g c x m => Sys2Proof.Machine.execRcIncImm g c x m s
  | .rcSnap g a x => Sys2Proof.Machine.execRcSnap g a x s
  | .lb g f d b x o => Sys2Proof.Machine.execLb g f d b x o s
  | .lbn g f d b x o => Sys2Proof.Machine.execLbn g f d b x o s
  | .lh g f d b x o => Sys2Proof.Machine.execLh g f d b x o s
  | .lhn g f d b x o => Sys2Proof.Machine.execLhn g f d b x o s
  | .lw g f d b x o => Sys2Proof.Machine.execLw g f d b x o s
  | .lwn g f d b x o => Sys2Proof.Machine.execLwn g f d b x o s
  | .ld g f d b x o => Sys2Proof.Machine.execLd g f d b x o s
  | .sb g f sr b x o => Sys2Proof.Machine.execSb g f sr b x o s
  | .sh g f sr b x o => Sys2Proof.Machine.execSh g f sr b x o s
  | .sw g f sr b x o => Sys2Proof.Machine.execSw g f sr b x o s
  | .sd g f sr b x o => Sys2Proof.Machine.execSd g f sr b x o s
  | .vld g f d b m x o => Sys2Proof.Machine.execVld g f d b m x o s
  | .vst g f d b m x o => Sys2Proof.Machine.execVst g f d b m x o s
  | .vldx g f d b m x im => Sys2Proof.Machine.execVldx g f d b m x im s
  | .vstx g f d b m x im => Sys2Proof.Machine.execVstx g f d b m x im s
  | .vldb g f d b m x o => Sys2Proof.Machine.execVldb g f d b m x o s
  | .spl g f r x o => Sys2Proof.Machine.execSpl g f r x o s
  | .sps g f r x o => Sys2Proof.Machine.execSps g f r x o s
  | .qbind g q a b => Sys2Proof.Machine.execQbind g q a b s
  | .qld g q f d k o => Sys2Proof.Machine.execQld g q f d k o s
  | .qst g q f d k o => Sys2Proof.Machine.execQst g q f d k o s
  | .qadvP g q n => Sys2Proof.Machine.execQadvP g q n s
  | .qadvC g q n => Sys2Proof.Machine.execQadvC g q n s
  | .qstat g q d k => Sys2Proof.Machine.execQstat g q d k s
  | .atomAdd g d a b x => Sys2Proof.Machine.execAtomAdd g d a b x s
  | .atomMin g d a b n x => Sys2Proof.Machine.execAtomMin g d a b n x s
  | .atomMax g d a b n x => Sys2Proof.Machine.execAtomMax g d a b n x s
  | .atomXchg g d a b x => Sys2Proof.Machine.execAtomXchg g d a b x s
  | .atomCas g d a b c x => Sys2Proof.Machine.execAtomCas g d a b c x s
  | .atomIncb g d a p c x => Sys2Proof.Machine.execAtomIncb g d a p c x s
  | .aadd g d a x b => Sys2Proof.Machine.execAadd g d a x b s
  | .aaddi g d a x im => Sys2Proof.Machine.execAaddi g d a x im s
  | .ashl g d a x b k => Sys2Proof.Machine.execAshl g d a x b k s
  | .amov g d a x e sr => Sys2Proof.Machine.execAmov g d a x e sr s
  | .sphCp g d sr c x u v => Sys2Proof.Machine.execSphCp g d sr c x u v s
  | .sphGth g d t c x => Sys2Proof.Machine.execSphGth g d t c x s
  | .sphSct g t sr c x => Sys2Proof.Machine.execSphSct g t sr c x s
  | .sphSctAdd g t sr c x => Sys2Proof.Machine.execSphSctAdd g t sr c x s
  | .sphRed g d sr c x u v => Sys2Proof.Machine.execSphRed g d sr c x u v s
  | .sphFill g d p c x v => Sys2Proof.Machine.execSphFill g d p c x v s
  | .sphAtom g d t c x o => Sys2Proof.Machine.execSphAtom g d t c x o s
  | .sphCnl g a l x => Sys2Proof.Machine.execSphCnl g a l x s
  | .sphPre g sr c x => Sys2Proof.Machine.execSphPre g sr c x s
  | .sphStat g d sr x => Sys2Proof.Machine.execSphStat g d sr x s
  | .sphImm g d v c x w => Sys2Proof.Machine.execSphImm g d v c x w s
  | .nopV g => Sys2Proof.Machine.execNopV g s
  | .ffma g d a b m t r => Sys2Proof.Machine.execFfma g d a b m t r s
  | .ffms g d a b m t r => Sys2Proof.Machine.execFfms g d a b m t r s
  | .fnma g d a b m t r => Sys2Proof.Machine.execFnma g d a b m t r s
  | .fadd g d a b m t r => Sys2Proof.Machine.execFadd g d a b m t r s
  | .fsub g d a b m t r => Sys2Proof.Machine.execFsub g d a b m t r s
  | .fmul g d a b m t r => Sys2Proof.Machine.execFmul g d a b m t r s
  | .fdiv g d a b m t r => Sys2Proof.Machine.execFdiv g d a b m t r s
  | .fsqrt g d a m t r => Sys2Proof.Machine.execFsqrt g d a m t r s
  | .frcp g d a m t r => Sys2Proof.Machine.execFrcp g d a m t r s
  | .frsq g d a m t r => Sys2Proof.Machine.execFrsq g d a m t r s
  | .fexp2 g d a m t r => Sys2Proof.Machine.execFexp2 g d a m t r s
  | .flog2 g d a m t r => Sys2Proof.Machine.execFlog2 g d a m t r s
  | .fcvt g d a e sr m r => Sys2Proof.Machine.execFcvt g d a e sr m r s
  | .fmin g d a b m t => Sys2Proof.Machine.execFmin g d a b m t s
  | .fmax g d a b m t => Sys2Proof.Machine.execFmax g d a b m t s
  | .fabs g d a m t => Sys2Proof.Machine.execFabs g d a m t s
  | .fneg g d a m t => Sys2Proof.Machine.execFneg g d a m t s
  | .fscl g d a b m t => Sys2Proof.Machine.execFscl g d a b m t s
  | .fcmp g e a b m t c => Sys2Proof.Machine.execFcmp g e a b m t c s
  | .icmp g e a b m t c => Sys2Proof.Machine.execIcmp g e a b m t c s
  | .iadd g d a b m n sr => Sys2Proof.Machine.execIadd g d a b m n sr s
  | .isub g d a b m n sr => Sys2Proof.Machine.execIsub g d a b m n sr s
  | .imul g d a b m n sr => Sys2Proof.Machine.execImul g d a b m n sr s
  | .imin g d a b m n sr => Sys2Proof.Machine.execImin g d a b m n sr s
  | .imax g d a b m n sr => Sys2Proof.Machine.execImax g d a b m n sr s
  | .iand g d a b m n sr => Sys2Proof.Machine.execIand g d a b m n sr s
  | .ior g d a b m n sr => Sys2Proof.Machine.execIor g d a b m n sr s
  | .ixor g d a b m n sr => Sys2Proof.Machine.execIxor g d a b m n sr s
  | .ishl g d a b m n sr => Sys2Proof.Machine.execIshl g d a b m n sr s
  | .ishr g d a b m n sr => Sys2Proof.Machine.execIshr g d a b m n sr s
  | .isha g d a b m n sr => Sys2Proof.Machine.execIsha g d a b m n sr s
  | .vsel g d a m sr => Sys2Proof.Machine.execVsel g d a m sr s
  | .vperm g d a b sr => Sys2Proof.Machine.execVperm g d a b sr s
  | .vbcLane g d sr a l => Sys2Proof.Machine.execVbcLane g d sr a l s
  | .vbcImm g d sr p im => Sys2Proof.Machine.execVbcImm g d sr p im s
  | .vmov g d a m sr => Sys2Proof.Machine.execVmov g d a m sr s
  | .vsum g d a m t => Sys2Proof.Machine.execVsum g d a m t s
  | .vmaxr g d a m t => Sys2Proof.Machine.execVmaxr g d a m t s
  | .vminr g d a m t => Sys2Proof.Machine.execVminr g d a m t s
  | .vexpmax g d a m t => Sys2Proof.Machine.execVexpmax g d a m t s
  | .vnzs g d a m e sr f => Sys2Proof.Machine.execVnzs g d a m e sr f s
  | .vcmpk g d a m e sr => Sys2Proof.Machine.execVcmpk g d a m e sr s
  | .fcls g d a m t => Sys2Proof.Machine.execFcls g d a m t s
  | .mand g e a b => Sys2Proof.Machine.execMand g e a b s
  | .mor g e a b => Sys2Proof.Machine.execMor g e a b s
  | .mnot g e a => Sys2Proof.Machine.execMnot g e a s
  | .mpop g d a => Sys2Proof.Machine.execMpop g d a s
  | .vsp g d p => Sys2Proof.Machine.execVsp g d p s
  | .nopX g => Sys2Proof.Machine.execNopX g s
  | .ffmaW g d a b m t r => Sys2Proof.Machine.execFfmaW g d a b m t r s
  | .ffmsW g d a b m t r => Sys2Proof.Machine.execFfmsW g d a b m t r s
  | .fnmaW g d a b m t r => Sys2Proof.Machine.execFnmaW g d a b m t r s
  | .faddW g d a b m t r => Sys2Proof.Machine.execFaddW g d a b m t r s
  | .fsubW g d a b m t r => Sys2Proof.Machine.execFsubW g d a b m t r s
  | .fmulW g d a b m t r => Sys2Proof.Machine.execFmulW g d a b m t r s
  | .fcvtW g d a e sr m r => Sys2Proof.Machine.execFcvtW g d a e sr m r s
  | .fminW g d a b m t => Sys2Proof.Machine.execFminW g d a b m t s
  | .fmaxW g d a b m t => Sys2Proof.Machine.execFmaxW g d a b m t s
  | .fabsW g d a m t => Sys2Proof.Machine.execFabsW g d a m t s
  | .fnegW g d a m t => Sys2Proof.Machine.execFnegW g d a m t s
  | .fsclW g d a b m t => Sys2Proof.Machine.execFsclW g d a b m t s
  | .iaddW g d a b m n sr => Sys2Proof.Machine.execIaddW g d a b m n sr s
  | .isubW g d a b m n sr => Sys2Proof.Machine.execIsubW g d a b m n sr s
  | .imulW g d a b m n sr => Sys2Proof.Machine.execImulW g d a b m n sr s
  | .iminW g d a b m n sr => Sys2Proof.Machine.execIminW g d a b m n sr s
  | .imaxW g d a b m n sr => Sys2Proof.Machine.execImaxW g d a b m n sr s
  | .iandW g d a b m n sr => Sys2Proof.Machine.execIandW g d a b m n sr s
  | .iorW g d a b m n sr => Sys2Proof.Machine.execIorW g d a b m n sr s
  | .ixorW g d a b m n sr => Sys2Proof.Machine.execIxorW g d a b m n sr s
  | .ishlW g d a b m n sr => Sys2Proof.Machine.execIshlW g d a b m n sr s
  | .ishrW g d a b m n sr => Sys2Proof.Machine.execIshrW g d a b m n sr s
  | .ishaW g d a b m n sr => Sys2Proof.Machine.execIshaW g d a b m n sr s
  | .mld g t a x o => Sys2Proof.Machine.execMld g t a x o s
  | .mcb g t a x => Sys2Proof.Machine.execMcb g t a x s
  | .msc g a x => Sys2Proof.Machine.execMsc g a x s
  | .bagOpen g c x e => Sys2Proof.Machine.execBagOpen g c x e s
  | .bagRows g c x q n => Sys2Proof.Machine.execBagRows g c x q n s
  | .bagPump g c x => Sys2Proof.Machine.execBagPump g c x s
  | .bagClose g => Sys2Proof.Machine.execBagClose g s
  | .bagRep g a x => Sys2Proof.Machine.execBagRep g a x s
  | .sumpDr g c x t r f sr => Sys2Proof.Machine.execSumpDr g c x t r f sr s
  | .sumpClr g h c x f => Sys2Proof.Machine.execSumpClr g h c x f s
  | .zld g z a b x => Sys2Proof.Machine.execZld g z a b x s
  | .zst g z a x => Sys2Proof.Machine.execZst g z a x s
  | .zis g z a b o => Sys2Proof.Machine.execZis g z a b o s
  | .zun g z a b o => Sys2Proof.Machine.execZun g z a b o s
  | .zsb g z a b => Sys2Proof.Machine.execZsb g z a b s
  | .zma g d a b => Sys2Proof.Machine.execZma g d a b s
  | .zlen g d z => Sys2Proof.Machine.execZlen g d z s
  | .issueBundle => Sys2Proof.Machine.execIssueBundle s
  | .resultLand => Sys2Proof.Machine.execResultLand s
  | .storePerform => Sys2Proof.Machine.execStorePerform s
  | .atomicPerform => Sys2Proof.Machine.execAtomicPerform s
  | .flagPostEffect => Sys2Proof.Machine.execFlagPostEffect s
  | .overlapYield => Sys2Proof.Machine.execOverlapYield s
  | .watchdogTrap => Sys2Proof.Machine.execWatchdogTrap s
  | .kill => Sys2Proof.Machine.execKill s
  | .siphonTransfer => Sys2Proof.Machine.execSiphonTransfer s
  | .siphonComplete => Sys2Proof.Machine.execSiphonComplete s
  | .reserveRefusalRetry => Sys2Proof.Machine.execReserveRefusalRetry s
  | .faultRecordOffer => Sys2Proof.Machine.execFaultRecordOffer s
  | .faultRecordRetry => Sys2Proof.Machine.execFaultRecordRetry s
  | .preemptRequest => Sys2Proof.Machine.execPreemptRequest s
  | .preemptWithdraw => Sys2Proof.Machine.execPreemptWithdraw s
  | .gangPreempt => Sys2Proof.Machine.execGangPreempt s
  | .stepPlace => Sys2Proof.Machine.execStepPlace s
  | .stepResume => Sys2Proof.Machine.execStepResume s
  | .stepRetire => Sys2Proof.Machine.execStepRetire s
  | .taskComplete => Sys2Proof.Machine.execTaskComplete s
  | .taskAgeing => Sys2Proof.Machine.execTaskAgeing s
  | .stageApply => Sys2Proof.Machine.execStageApply s
  | .stageCacheUpdate => Sys2Proof.Machine.execStageCacheUpdate s
  | .forkSnapshot => Sys2Proof.Machine.execForkSnapshot s
  | .joinMerge => Sys2Proof.Machine.execJoinMerge s
  | .revisionReserveRetry => Sys2Proof.Machine.execRevisionReserveRetry s
  | .arrayOpStart => Sys2Proof.Machine.execArrayOpStart s
  | .rowIn => Sys2Proof.Machine.execRowIn s
  | .pumpFeedBegin => Sys2Proof.Machine.execPumpFeedBegin s
  | .pumpFetchReturn => Sys2Proof.Machine.execPumpFetchReturn s
  | .pumpWalkRetry => Sys2Proof.Machine.execPumpWalkRetry s
  | .queueStageAdvance => Sys2Proof.Machine.execQueueStageAdvance s
  | .bagCloseComplete => Sys2Proof.Machine.execBagCloseComplete s
  | .drainRow => Sys2Proof.Machine.execDrainRow s
  | .spoutLatchEntry => Sys2Proof.Machine.execSpoutLatchEntry s
  | .tlbInvalidateComplete => Sys2Proof.Machine.execTlbInvalidateComplete s
  | .rootLaunch => Sys2Proof.Machine.execRootLaunch s
  | .flagWindowPost => Sys2Proof.Machine.execFlagWindowPost s
  | .tlbinv => Sys2Proof.Machine.execTlbinv s
  | .clrmin => Sys2Proof.Machine.execClrmin s
  | .rst => Sys2Proof.Machine.execRst s
  | .dack => Sys2Proof.Machine.execDack s
  | .lrClear => Sys2Proof.Machine.execLrClear s
  | .registerWrite => Sys2Proof.Machine.execRegisterWrite s
  | .hostMemWrite => Sys2Proof.Machine.execHostMemWrite s
  | .hostMemRead => Sys2Proof.Machine.execHostMemRead s
  | .mailboxSpdm => Sys2Proof.Machine.execMailboxSpdm s
  | .errorLogRead => Sys2Proof.Machine.execErrorLogRead s
  | .errorLogClear => Sys2Proof.Machine.execErrorLogClear s
  | .bootStart => Sys2Proof.Machine.execBootStart s
  | .bootStageDone => Sys2Proof.Machine.execBootStageDone s
  | .bootWatchdog => Sys2Proof.Machine.execBootWatchdog s
  | .flitCrcFail => Sys2Proof.Machine.execFlitCrcFail s
  | .lanePersistentFault => Sys2Proof.Machine.execLanePersistentFault s
  | .fatalError => Sys2Proof.Machine.execFatalError s
  | .dumpComplete => Sys2Proof.Machine.execDumpComplete s
  | .thermalTrip => Sys2Proof.Machine.execThermalTrip s
  | .clockChange => Sys2Proof.Machine.execClockChange s
  | .peerContained => Sys2Proof.Machine.execPeerContained s
  | .galeRemoteAccess => Sys2Proof.Machine.execGaleRemoteAccess s
  | .linkRetrainComplete => Sys2Proof.Machine.execLinkRetrainComplete s
  | .arrayOpComplete => Sys2Proof.Machine.execArrayOpComplete s
  | .powerTrip => Sys2Proof.Machine.execPowerTrip s
  | .mailboxImageReplace => Sys2Proof.Machine.execMailboxImageReplace s

end Sys2Proof.Machine
end

