-- ==== Sys2Proof/Machine/Turns.lean ====
section
/-! DEFINITION. Whose turn it is (log 2): the acts the part's own agents may take next, what a scheduled turn may do, and
where a program stands for the fetch of the next instruction. -/

namespace Sys2Proof.Machine

/-! ### What a turn may do -/

/-- Acts of the outside world: the host, other devices, the management controller, the power and clock supply. They reach
the machine only as scheduled turns. -/
def outside : Instr → Bool
  | .rootLaunch | .flagWindowPost | .tlbinv | .clrmin | .rst | .dack | .lrClear | .registerWrite | .hostMemWrite
  | .hostMemRead | .mailboxSpdm | .errorLogRead | .errorLogClear | .bootStart | .bootStageDone | .bootWatchdog
  | .flitCrcFail | .lanePersistentFault | .fatalError | .dumpComplete | .thermalTrip | .clockChange | .peerContained
  | .galeRemoteAccess | .linkRetrainComplete | .powerTrip | .mailboxImageReplace => true
  | _ => false

/-- A turn's act takes place: an outside event always; an act of the part's engines while programs run, STATE 4 (R379,
R394). A slot instruction acts only within its bundle (R51). -/
def turnAllowed (s : State) (i : Instr) : Bool := outside i || (i.slot.isNone && s.mgmt.state == 4)

/-- Acts of the task engine, which reads its tables and the stage board for them (R391). -/
def readsTables : Instr → Bool
  | .stepPlace | .stepResume | .stepRetire | .taskComplete | .taskAgeing | .preemptRequest | .preemptWithdraw | .gangPreempt
  | .stageApply | .stageCacheUpdate | .forkSnapshot | .joinMerge | .revisionReserveRetry | .tlbInvalidateComplete
  | .rootLaunch | .tlbinv => true
  | _ => false

/-- The machine as a turn finds it: its arguments in place, the tables its act reads free of single-bit errors. -/
def State.atTurn (s : State) (t : Turn) : State :=
  { (if readsTables t.act then s.correctTables else s) with arg := t.arg, cur := t.arg.c }

/-! ### The acts of the part's own agents -/

/-- A turn of context c. -/
def turnC (act : Instr) (c : Nat) (n : Nat := 0) (k : Nat := 0) : Turn := { act := act, arg := { c := c, n := n, k := k } }

/-- The context may take its clock cycle: the older of two running contexts first, then the younger (R141). -/
def State.mayIssue (s : State) (c : Nat) : Bool :=
  (s.ctx c).cond == .running && match (s.tile (tileOf c)).second with
    | some d => d == c || (s.ctx d).cond != .running
    | none => (s.ctx (otherCtx c)).cond != .running || !s.younger c

/-- The rows and keys of a bag at the engine that are on their way. -/
def bagTurns (c : Nat) (b : RunBag) : List Turn :=
  b.feeds.zipIdx.flatMap (fun f =>
    turnC .queueStageAdvance c f.2 ::
    (f.1.rows.zipIdx.filter fun r => !r.1.fate.settled).map fun r => turnC .rowIn c f.2 r.2) ++
  (b.keys.zipIdx.filter fun k => k.1.data.isNone).flatMap fun k =>
    [turnC .pumpFetchReturn c 0 k.2, turnC .pumpWalkRetry c 0 k.2]

/-- The acts about one context: its clock cycle, its store queue, its siphon commands, its array operations. -/
def ctxTurns (s : State) (c : Nat) : List Turn :=
  let x := s.ctx c
  (if s.killDue c then [turnC .kill c] else if s.mayIssue c then [turnC .issueBundle c] else []) ++
  (if (s.headStore c).isSome then [turnC .storePerform c] else []) ++
  (x.records.filter fun r => r.st != .held).flatMap (fun r =>
    [turnC .siphonTransfer c 0 r.idx, turnC .siphonComplete c 0 r.idx, turnC .reserveRefusalRetry c 0 r.idx]) ++
  (if x.draft.isSome then [{ act := .reserveRefusalRetry, arg := { c := c, ok := false } }] else []) ++
  (if x.mx.isEmpty then [] else
    [turnC .arrayOpStart c, turnC .pumpFeedBegin c, turnC .arrayOpComplete c, turnC .bagCloseComplete c, turnC .drainRow c]) ++
  match x.bagRun with
  | some b => bagTurns c b
  | none => []

/-- Stage effects ready for a step, and its counter on the way to the caches (R344, R345). -/
def boardTurns (s : State) : List Turn :=
  s.board.flatMap fun b =>
    ((upTo (s.readyEffects b.task b.step).length).map fun k =>
      { act := .stageApply, arg := { t := b.task, n := b.step, k := k + 1 } : Turn }) ++
    (upTo 24).map fun n => { act := .stageCacheUpdate, arg := { n := n, t := b.task, k := b.step } }

/-- The acts about one step. -/
def stepTurns (k : Step) : List Turn :=
  [{ act := .stepRetire, arg := { t := k.task, n := k.step } }, { act := .gangPreempt, arg := { t := k.task, n := k.step } }] ++
  (if k.spared then [{ act := .preemptRequest, arg := { t := k.task, n := k.step, ok := false } }] else []) ++
  (if k.asked.isSome then [{ act := .preemptWithdraw, arg := { t := k.task, n := k.step } }] else [])

/-- The task engine's other acts. -/
def engineTurns (s : State) : List Turn :=
  (if s.tasks.isEmpty then [] else [{ act := .stepPlace }, { act := .stepResume }, { act := .preemptRequest }]) ++
  s.tasks.flatMap (fun t =>
    [{ act := .taskComplete, arg := { t := t.num } }, { act := .taskAgeing, arg := { t := t.num } }]) ++
  s.steps.flatMap stepTurns ++
  s.forks.flatMap (fun f => [turnC .forkSnapshot f.c, turnC .revisionReserveRetry f.c]) ++
  (s.joins.filter fun j => j.stopped.isNone).flatMap (fun j =>
    [{ act := .joinMerge, arg := { t := j.child } }, { act := .revisionReserveRetry, arg := { t := j.child, ok := false } }]) ++
  s.records.flatMap (fun r =>
    [{ act := .faultRecordOffer, arg := { n := r.engine } }, { act := .faultRecordRetry, arg := { n := r.engine } }]) ++
  if s.invs.isEmpty then [] else [{ act := .tlbInvalidateComplete }]

/-- Every act the part's own agents may take next; one that is not ready leaves the machine as it is. -/
def ownTurns (s : State) : List Turn :=
  (upTo 384).flatMap (ctxTurns s) ++
  ((upTo 192).filter fun t => !(s.tile t).waiting.isEmpty).map (fun t => { act := .spoutLatchEntry, arg := { t := t } }) ++
  ((upTo 24).filter fun k => (s.headAtom k).isSome).map (fun k => { act := .atomicPerform, arg := { n := k } }) ++
  ((upTo s.posts.length).filter s.postDue).map (fun k => { act := .flagPostEffect, arg := { k := k } }) ++
  boardTurns s ++ engineTurns s

/-- The next turn: the scheduled one, else a free choice among the part's own acts; none when there is nothing to do. -/
def nextTurn (s : State) : Option (Turn × State) :=
  match s.sched with
  | t :: r => some (t, { s with sched := r })
  | [] =>
    if s.mgmt.state != 4 then none
    else
      let l := ownTurns s
      (l[Config.freeChoice s.freeCount % l.length]?).map fun t => (t, { s with freeCount := s.freeCount + 1 })

/-! ### A program for the next fetch (log 7) -/

/-- Device-memory offsets of the tables and the code page laid for the fetch, and of the context's save area. -/
def benchTables : Nat := 0x10000
def benchCode : Nat := 0x200000
def benchArea : Nat := 0x400000

/-- An OPB of one step on one tile: CODE 0, CLEN 16, NMR 1, NBV 1, ALLOC 16, one level of one iteration, W 1, STAGES 1 (R332). -/
def benchOpb : List Byte :=
  bytesOfNat 8 0 ++ bytesOfNat 4 16 ++ bytesOfNat 20 0 ++ bytesOfNat 8 1 ++ bytesOfNat 1 1 ++ bytesOfNat 2 0 ++
  bytesOfNat 1 16 ++ bytesOfNat 1 1 ++ bytesOfNat 1 1 ++ bytesOfNat 2 0 ++ bytesOfNat 2 1 ++ bytesOfNat 6 0 ++ bytesOfNat 4 1 ++ bytesOfNat 196 0

/-- The bundle that holds a table word in the slot the decoder reads it in. -/
def benchBundle (w : Nat) : Nat :=
  match tableSlot (w % 2 ^ 32) with
  | some (k, _) => w % 2 ^ 32 * 2 ^ (32 * k)
  | none => w % 2 ^ 32

/-- The page tables that map virtual address 0 to the code page, and the code. -/
def benchCells (s : State) (bundle : Nat) : List Host.Cell :=
  cellsAt benchTables (bytesOfNat 8 (ownPa s (benchTables + 0x10000) + 1)) ++
  cellsAt (benchTables + 0x10000) (bytesOfNat 8 (ownPa s (benchTables + 0x20000) + 1)) ++
  cellsAt (benchTables + 0x20000) (bytesOfNat 8 (ownPa s benchCode + 3)) ++
  cellsAt benchCode (bytesOfNat 16 bundle)

/-- A context ready to fetch at PC 0 of step 0 of task 1. -/
def Ctx.ready (x : Ctx) : Ctx :=
  { x with
    cond := .running, pc := 0, restart := 0, task := 1, step := 0, gi := 0, bubbles := 0, yieldHold := false, parity := none
    fetched := none
    conflict := none, strWait := none, draft := none, reqStage := .none, reqAns := none, wlPassed := none, bcast := [] }

/-- Context 0 is about to fetch a bundle of a program that stands in device memory. -/
def State.bench (s : State) (bundle : Nat) : State :=
  let t := State.write { s with
    mgmt := { s.mgmt with state := 4 }
    tasks := { num := 1, opb := benchOpb, rev := 1, parent := 0, kind := .root, started := 1 } :: s.tasks.filter fun t => t.num != 1
    revs := { id := 1, table := ownPa s benchTables, parent := 0, depth := 0, owner := 1 } :: s.revs.filter fun r => r.id != 1
    steps := {
        task := 1, step := 0, cis := 0, members := [{ tile := 0, base := 0, size := 16 }], ctxs := [(0, 0)],
        areas := [(0, benchArea)] } :: s.steps.filter fun k => !(k.task == 1 && k.step == 0)
    board := { task := 1, step := 0, v := 0 } :: s.board.filter fun b => !(b.task == 1 && b.step == 0) }
    (benchCells s bundle)
  (t.updTile 0 fun u => { u with code := [] }).updCtx 0 Ctx.ready

end Sys2Proof.Machine
end

