-- ==== Sys2Proof/Machine/Step.lean ====
section
/-! DEFINITION. One step of the machine: the next turn's act; and the machine about to fetch a given instruction. -/

namespace Sys2Proof.Machine

/-- A turn of a context the part has; an act that is not allowed now leaves the machine as it is. -/
def runTurn (t : Turn) (s : State) : Host.Outcome State Fault Refusal :=
  if 384 ≤ t.arg.c then .fault .noSuchContext
  else if turnAllowed s t.act then exec t.act (s.atTurn t)
  else .next s

/-- One step: the act of the next turn; an idle machine stays as it is. -/
def step (s : State) : Host.Outcome State Fault Refusal :=
  match nextTurn s with
  | some (t, u) => runTurn t u
  | none => .next s

/-- `s` with the instruction of a table word in the bundle the next step fetches: context 0 takes its clock cycle. -/
def State.withFetchWord (s : State) (_nbits w : Nat) : State :=
  { s.bench (benchBundle w) with sched := [{ act := .issueBundle }] }

end Sys2Proof.Machine
end

