-- ==== Sys2Proof/Safety.lean ====
section
/-! DEFINITION. What counts as a safe run: every step answers a next state, no context takes a trap, and the part meets no
fatal error. A program that traps is not wrong for the part (R150), but it is not the run its author meant. -/

namespace Sys2Proof.Machine

/-- No context is parked by a trap (R151), and the part is not stopped by a fatal error (STATE 6 and 7, R394, R395). -/
def State.safe (s : State) : Bool := s.ctxs.toList.all (fun x => x.cond != .parked) && s.mgmt.state != 6 && s.mgmt.state != 7

/-- `k` steps from `s`, each of which answers a safe next state. -/
def safeRun : Nat → State → Prop
  | 0, s => s.safe = true
  | k + 1, s => s.safe = true ∧ ∃ t, step s = .next t ∧ safeRun k t

end Sys2Proof.Machine
end

