-- ==== Sys2Proof/Certificates/Slice0/Obligations.lean ====
section
/-! DEFINITION. The statements for the provers: what the spec's numbered rules say of encodings, of the machine's turns, of
every instruction and every event, and what every step keeps. A statement of a result names the whole next state, so it
says what changes, what does not, and that the instruction completes. -/

namespace Sys2Proof.Claims
open Sys2Proof.Machine

/-! ### Words used in the statements -/

/-- The guard reads true (R38). -/
abbrev On (s : State) (g : Nat) : Prop := s.me.a.rP g = true

/-- A two-operand integer form whose result is `f` of the operands read at issue, after `lat` issue cycles. -/
def RegForm (mk : Nat → Nat → Nat → Nat → Nat → Instr) (lat : Nat) (f : Word → Word → Word) : Prop :=
  ∀ g d a b x s, On s g →
    exec (mk g d a b x) s = .next (s.landS 0 (s.me.a.bS x d) (f (s.sReg x a) (s.sReg x b)) lat)

/-- A one-operand integer form. -/
def OneForm (mk : Nat → Nat → Nat → Nat → Instr) (f : Word → Word) : Prop :=
  ∀ g d a x s, On s g → exec (mk g d a x) s = .next (s.landS 0 (s.me.a.bS x d) (f (s.sReg x a)) 1)

/-- An immediate form; `k` makes the operand of the field. -/
def ImmForm (mk : Nat → Nat → Nat → Nat → Nat → Instr) (lat : Nat) (k : Nat → Word) (f : Word → Word → Word) : Prop :=
  ∀ g d a x i s, On s g → i < 512 →
    exec (mk g d a x i) s = .next (s.landS 0 (s.me.a.bS x d) (f (s.sReg x a) (k i)) lat)

/-- A condition and its complement into predicates p and p + 1, one issue cycle on. -/
def pairLands (s : State) (p : Nat) (c : Bool) : State := (s.landBit 0 p c 1).landBit 0 (p + 1) (!c) 1

/-- A compare of two registers. -/
def CmpForm (mk : Nat → Nat → Nat → Nat → Nat → Instr) (c : Word → Word → Bool) : Prop :=
  ∀ g p a b x s, On s g → exec (mk g p a b x) s = .next (pairLands s p (c (s.sReg x a) (s.sReg x b)))

/-- A compare with an immediate. -/
def CmpImm (mk : Nat → Nat → Nat → Nat → Instr) (k : Nat → Word) (c : Word → Word → Bool) : Prop :=
  ∀ g p a i s, On s g → i < 4096 → exec (mk g p a i) s = .next (pairLands s p (c (s.me.a.rS a) (k i)))

/-- Sign extension of a 9-bit and of a 12-bit field to 64 bits. -/
def s9 (i : Nat) : Word := (BitVec.ofNat 9 i).signExtend 64
def s12 (i : Nat) : Word := (BitVec.ofNat 12 i).signExtend 64

/-- The number of one bits. -/
def ones (x : Word) : Nat := (List.range 64).countP fun k => x.getLsbD k

/-- The zero bits above the leading one. -/
def leading (x : Word) : Nat := if x = 0 then 64 else 63 - x.toNat.log2

/-- A bundle offset added to a PC, in 32 bits. -/
def pcPlus (pc w o : Nat) : Nat := (BitVec.ofNat 32 pc + 16 * (BitVec.ofNat w o).signExtend 32).toNat

/-- The live state of the present context outside its registers' results: everything but pending writes and the count of
operations. -/
def quietEq (x y : Ctx) : Prop := { x with a := { x.a with pend := y.a.pend }, opSeq := y.opSeq } = y

/-- Nothing outside the present context changes, and in it only pending writes are added. -/
def OnlyLands (s t : State) : Prop :=
  t = s.setCtx s.cur t.me ∧ quietEq s.me t.me ∧ ∃ l, t.me.a.pend = s.me.a.pend ++ l

/-- Every byte of memory reads as before. -/
def SameMemory (s t : State) : Prop := ∀ a, memRead t.mem a = memRead s.mem a

/-- `n` issue cycles of landings and nothing else. -/
def cycles : Nat → Ctx → Ctx
  | 0, x => x
  | n + 1, x => cycles n x.startCycle

/-- The guard field of a slot instruction whose false guard must leave the state alone; `yield` belongs to its bundle, a
header has no guard. -/
def guardOf : Instr → Option Nat
  | .nopS g | .exit g | .trap g _ | .sysc g _ | .brk g _ | .syscResume g | .syscKillStep g | .syscLocate g
  | .add g .. | .sub g .. | .mul g .. | .mulh g .. | .mulhn g .. | .div g .. | .divn g .. | .rem g .. | .remn g ..
  | .and g .. | .or g .. | .xor g .. | .andn g .. | .shl g .. | .shr g .. | .sha g .. | .min g .. | .max g ..
  | .minn g .. | .maxn g .. | .clz g .. | .popc g .. | .addi g .. | .muli g .. | .andi g .. | .ori g .. | .xori g ..
  | .andni g .. | .shli g .. | .shri g .. | .shai g .. | .mini g .. | .maxi g .. | .minni g .. | .maxni g ..
  | .ceq g .. | .cne g .. | .clt g .. | .cle g .. | .cltn g .. | .clen g .. | .ceqi g .. | .cnei g .. | .clti g ..
  | .clei g .. | .cltni g .. | .cleni g .. | .lih g .. | .lihK g .. | .sel g .. | .pand g .. | .por g .. | .pxor g ..
  | .pset g .. | .br g .. | .call g .. | .bra g .. | .ret g .. | .lpBegReg g .. | .lpBegImm g .. | .lpIdx g ..
  | .lpBrk g | .xcp g .. | .xbase g .. | .getm g .. | .setm g .. | .flGet g .. | .flClr g .. | .tlaunch g ..
  | .tfork g .. | .tjoin g .. | .tjoinAll g | .tkill g .. | .rgnSet g .. | .stgAdvImm g .. | .stgAdvReg g ..
  | .stgSetImm g .. | .stgSetReg g .. | .stgWlImm g .. | .stgWlReg g .. | .stgRd g .. | .tidSet g .. | .tidGet g ..
  | .nopM g | .waitcImm g .. | .waitcReg g .. | .xf g .. | .phase g | .rwsR g .. | .rwsW g .. | .fpost g .. | .fset g ..
  | .rcIncReg g .. | .rcIncImm g .. | .rcSnap g .. | .lb g .. | .lbn g .. | .lh g .. | .lhn g .. | .lw g .. | .lwn g ..
  | .ld g .. | .sb g .. | .sh g .. | .sw g .. | .sd g .. | .vld g .. | .vst g .. | .vldx g .. | .vstx g .. | .vldb g ..
  | .spl g .. | .sps g .. | .qbind g .. | .qld g .. | .qst g .. | .qadvP g .. | .qadvC g .. | .qstat g ..
  | .atomAdd g .. | .atomMin g .. | .atomMax g .. | .atomXchg g .. | .atomCas g .. | .atomIncb g .. | .aadd g ..
  | .aaddi g .. | .ashl g .. | .amov g .. | .sphCp g .. | .sphGth g .. | .sphSct g .. | .sphSctAdd g .. | .sphRed g ..
  | .sphFill g .. | .sphAtom g .. | .sphCnl g .. | .sphPre g .. | .sphStat g .. | .sphImm g .. | .nopV g | .ffma g ..
  | .ffms g .. | .fnma g .. | .fadd g .. | .fsub g .. | .fmul g .. | .fdiv g .. | .fsqrt g .. | .frcp g .. | .frsq g ..
  | .fexp2 g .. | .flog2 g .. | .fcvt g .. | .fmin g .. | .fmax g .. | .fabs g .. | .fneg g .. | .fscl g .. | .fcmp g ..
  | .icmp g .. | .iadd g .. | .isub g .. | .imul g .. | .imin g .. | .imax g .. | .iand g .. | .ior g .. | .ixor g ..
  | .ishl g .. | .ishr g .. | .isha g .. | .vsel g .. | .vperm g .. | .vbcLane g .. | .vbcImm g .. | .vmov g ..
  | .vsum g .. | .vmaxr g .. | .vminr g .. | .vexpmax g .. | .vnzs g .. | .vcmpk g .. | .fcls g .. | .mand g ..
  | .mor g .. | .mnot g .. | .mpop g .. | .vsp g .. | .nopX g | .ffmaW g .. | .ffmsW g .. | .fnmaW g .. | .faddW g ..
  | .fsubW g .. | .fmulW g .. | .fcvtW g .. | .fminW g .. | .fmaxW g .. | .fabsW g .. | .fnegW g .. | .fsclW g ..
  | .iaddW g .. | .isubW g .. | .imulW g .. | .iminW g .. | .imaxW g .. | .iandW g .. | .iorW g .. | .ixorW g ..
  | .ishlW g .. | .ishrW g .. | .ishaW g .. | .mld g .. | .mcb g .. | .msc g .. | .bagOpen g .. | .bagRows g ..
  | .bagPump g .. | .bagClose g | .bagRep g .. | .sumpDr g .. | .sumpClr g .. | .zld g .. | .zst g .. | .zis g ..
  | .zun g .. | .zsb g .. | .zma g .. | .zlen g .. => some g
  | _ => none

end Sys2Proof.Claims

open Sys2Proof Sys2Proof.Machine Sys2Proof.Claims

/-! ### Encodings -/

/-- Every well-formed slot instruction, written as its word, reads back in its slot position as itself, with every operand;
only events have no word. -/
def Obligations.EncodeRoundTrip : Prop :=
  ∀ i : Instr, i.wf = true →
    match encodeWord i with
    | some (k, w) => k < 4 ∧ w < 2 ^ 32 ∧ decodeSlot k w = .ok i
    | none => i.slot = none

/-- What the decoder reads from a word is well formed and is that word's only reading: encoded again it gives the same word in
the same slot position, so no bit of a word is dropped and no two words mean one instruction (R41 to R45). -/
def Obligations.DecodeRoundTrip : Prop :=
  ∀ (k w : Nat) (i : Instr), k < 4 → w < 2 ^ 32 → decodeSlot k w = .ok i → i.wf = true ∧ encodeWord i = some (k, w)

/-- Words written out from the spec's encodings decode to what they stand for: each of the four slots, the header, and a
reserved word. -/
def Sys2Proof.Claims.DecodeWords : Prop :=
  decodeSlot 0 0x10108A00 = .ok (.add 0 2 2 5 0) ∧ decodeSlot 0 0x00200000 = .ok (.exit 0) ∧
  decodeSlot 1 0x20E20000 = .ok (.sd 0 1 2 0 0 0) ∧ decodeSlot 2 0x40204408 = .ok (.fadd 0 4 1 2 0 1 0) ∧
  decodeSlot 0 0xF5462812 = .ok (.header 0 1 1 1 3 1 1 0x12) ∧ decodeSlot 1 0x10C28868 = .ok (.ld 0 0 5 2 0 0x68) ∧
  decodeSlot 3 0x80A22000 = .ok (.zma 0 1 0 1) ∧ decodeSlot 0 0xE0000000 = .error .reservedWord

/-- The 16 bytes of a bundle, the S word at the lowest address and each word least significant byte first, decode to the four
instructions when each is well formed and in its own slot and no rule over several slots is broken (R32, R45). -/
def Sys2Proof.Claims.BundleDecodes : Prop :=
  ∀ (b : Bundle) (ws wm wv wx : Nat),
    encodeWord b.1 = some (0, ws) → encodeWord b.2.1 = some (1, wm) → encodeWord b.2.2.1 = some (2, wv) →
    encodeWord b.2.2.2 = some (3, wx) →
    b.1.wf = true → b.2.1.wf = true → b.2.2.1.wf = true → b.2.2.2.wf = true →
    bundleErrors (.ok b.1) (.ok b.2.1) (.ok b.2.2.1) (.ok b.2.2.2) = [] →
    decodeBytes (bytesOfNat 4 ws ++ bytesOfNat 4 wm ++ bytesOfNat 4 wv ++ bytesOfNat 4 wx) = .ok b

/-- Words written out from the spec's encodings, and whole bundles, decode to what they stand for (R32, R41 to R45). -/
def Obligations.WordsAndBundlesDecode : Prop :=
  DecodeWords ∧ BundleDecodes

/-! ### Turns: how an instruction comes to act -/

/-- One step is the act of the next scheduled turn; an act that may not take place now leaves the machine as it is, and an
idle machine in another STATE than 4 stays as it is (the order of turns is the model's own, log 2). -/
def Obligations.StepRunsTurn : Prop :=
  (∀ (s : State) (t : Turn) (r : List Turn), s.sched = t :: r → t.arg.c < 384 → turnAllowed s t.act = true →
    step s = exec t.act ({ s with sched := r }.atTurn t)) ∧
  (∀ (s : State) (t : Turn) (r : List Turn), s.sched = t :: r → t.arg.c < 384 → turnAllowed s t.act = false →
    step s = .next { s with sched := r }) ∧
  ∀ s : State, s.sched = [] → s.mgmt.state ≠ 4 → step s = .next s

/-- A turn of a running context that nothing else occupies: with the clock cycle of its tile opened (`v`), the bundle at its PC is
fetched, once for all the cycles it may stall (R51), and `bs` is what the fetch brings; its decoding `b` is issued, or its breaking of
R45 takes the illegal-bundle trap (R150), whose record names no slot (log 22, DEDUCED). Then the watchdog traps where the count
has reached its bound (R154), and the cycle closes with the context served last; that the two contexts of a tile take their turns in
one cycle one after the other is the model's order (log 2). -/
def Sys2Proof.Claims.TurnIssues : Prop :=
  ∀ (s u : State) (bs : List Byte),
    let v := (s.openTurn s.cur).fetchSecond (otherCtx s.cur)
    let last := s.younger s.cur || s.servedSecond s.cur
    s.killDue s.cur = false → s.me.cond = .running → v.follower = false → v.me.yieldHold = false → v.mustYield v.cur = false →
    v.me.bubbles = 0 → v.me.parity = none →
    (v.me.fetched = some bs ∧ u = v) ∨
      (v.me.fetched = none ∧ ∃ w, fetchBundle v = .bundle bs w ∧ u = w.updMe (·.keepBundle bs)) →
    (∀ b, decodeBytes bs = .ok b → exec .issueBundle s = .next ((watched (issueDecoded b bs u)).closeTurn s.cur last)) ∧
    ∀ e, decodeBytes bs = .error e →
      exec .issueBundle s =
        .next ((watched (takeTrap { cause := 1, pc := u.me.pc, detail := e.item } u)).closeTurn s.cur last)

namespace Sys2Proof.Claims

/-- A context is older than the tile's other one (R141): by lockstep, then by step within a task, then by the task's priority, then by
number. A gang whose lockstep a fault has ended is ranked as any other (log 117). -/
def Elder : Prop :=
  ∀ (s : State) (c d : Nat),
    (s.lockOn c = true → s.lockOn d = false → s.older c d = true) ∧ (s.lockOn c = false → s.lockOn d = true → s.older c d = false) ∧
    (s.lockOn c = s.lockOn d →
      ((s.ctx c).task = (s.ctx d).task → (s.ctx c).step ≠ (s.ctx d).step →
        (s.older c d = true ↔ (s.ctx c).step < (s.ctx d).step)) ∧
      ((s.ctx c).task ≠ (s.ctx d).task → s.prioOf c ≠ s.prioOf d → (s.older c d = true ↔ s.prioOf d < s.prioOf c)) ∧
      (((s.ctx c).task = (s.ctx d).task → (s.ctx c).step = (s.ctx d).step) →
        ((s.ctx c).task ≠ (s.ctx d).task → s.prioOf c = s.prioOf d) → (s.older c d = true ↔ c < d)))

/-- Merge issue (R141, R40): the context served second in a clock cycle is held where its bundle uses a slot position that the first
one's bundle uses, which adds 1 to its overlap count; an empty slot with `nop` under p0 uses none, while a `nop` under another guard uses
its position, which is the model's reading (log 95, DESIGN CHOICE). The bundle that issues first leaves its positions for the second, and
the count of the younger context restarts as it issues. -/
def MergeIssue : Prop :=
  (∀ (b : Bundle) (s : State),
    let used := (s.tile (tileOf s.cur)).used
    let clash := ∃ k i, (slotsOf b)[k]? = some i ∧ i ∉ [.nopS 0, .nopM 0, .nopV 0, .nopX 0] ∧ used.testBit k = true
    (s.servedSecond s.cur = true → clash →
      mergeWait b s = .error (s.stallNow.updMe fun x => { x with overlap := x.overlap + 1, yielded := false })) ∧
    (s.servedSecond s.cur = false ∨ ¬ clash → mergeWait b s = .ok s)) ∧
  ∀ (b : Bundle) (bs : List Byte) (s t : State), t.cur = s.cur →
    let u := t.startIssue s b bs
    (s.servedSecond s.cur = false → ∀ k, (u.tile (tileOf s.cur)).used.testBit k = true ↔
      ∃ i, (slotsOf b)[k]? = some i ∧ i ∉ [.nopS 0, .nopM 0, .nopV 0, .nopX 0]) ∧
    (s.junior s.cur = true → u.me.overlap = 0) ∧ (s.junior s.cur = false → u.me.overlap = t.me.overlap)

/-- At 64 lost merge cycles of the younger context the older one is held for a clock cycle (R141), once for each time the count gets
there, which is the model's reading (log 76, DEDUCED); a lockstep context never is. -/
def OlderYields : Prop :=
  (∀ (s : State) (c : Nat), let d := otherCtx c
    s.mustYield c = true ↔ (s.ctx d).cond = .running ∧ s.older d c = false ∧ s.lockOn c = false ∧ 64 ≤ (s.ctx d).overlap ∧
      (s.ctx d).yielded = false) ∧
  ∀ (s : State), let v := (s.openTurn s.cur).fetchSecond (otherCtx s.cur)
    s.killDue s.cur = false → s.me.cond = .running → v.follower = false → v.me.yieldHold = false → v.mustYield v.cur = true →
    exec .issueBundle s = .next ((watched (v.stallNow.updCtx (otherCtx v.cur) fun x => { x with yielded := true })).closeTurn s.cur
      (s.younger s.cur || s.servedSecond s.cur))

/-- Bank conflicts (R211, R207): a gather or scatter that passes its checks stalls for one clock cycle less than the most distinct rows its
lanes touch in one bank of one well; every other instruction for none. While the tile's other context is in a conflict, a bundle that uses
the M slot is held. -/
def BankConflicts : Prop :=
  (∀ (l : List Nat),
    let bank := fun (p : Nat) => ((p - wellBase) / 2 ^ 21, (p - wellBase) / 2 ^ 7 % 2 ^ 4)
    let rows := fun (p : Nat) => (((l.filter fun q => bank q = bank p).map fun q => (q - wellBase) / 2 ^ 11 % 2 ^ 10).eraseDups).length
    (∀ p ∈ l, rows p ≤ conflictOf l + 1) ∧ (l ≠ [] → ∃ p ∈ l, rows p = conflictOf l + 1) ∧ (l = [] → conflictOf l = 0)) ∧
  (∀ (b : Bundle) (s : State), let v := s.landedView (hdrOf b)
    (∀ g f d y m x i ps, b.2.1 = .vldx g f d y m x i → v.me.a.rP g = true → esWidth (v.aReg x y) ≠ 8 →
      idxPlaces v false (esWidth (v.aReg x y)) (idxLanes v y m x i) = .ok ps → conflictAhead b s = conflictOf (ps.map Prod.snd)) ∧
    (∀ g f d y m x i ps, b.2.1 = .vstx g f d y m x i → v.me.a.rP g = true → esWidth (v.aReg x y) ≠ 8 →
      idxPlaces v true (esWidth (v.aReg x y)) (idxLanes v y m x i) = .ok ps → conflictAhead b s = conflictOf (ps.map Prod.snd)) ∧
    ((∀ g f d y m x i, b.2.1 ≠ .vldx g f d y m x i ∧ b.2.1 ≠ .vstx g f d y m x i) → conflictAhead b s = 0)) ∧
  ∀ (b : Bundle) (s : State), let other := s.ctx (otherCtx s.cur)
    (∀ n, b.2.1 ≠ .nopM 0 → b.2.1.slot = some 1 → other.cond = .running → other.conflict = some n →
      (if s.servedSecond s.cur then 0 else 1) < n → bankWait b s = .error s.stallNow) ∧
    (other.cond ≠ .running →
      (s.me.conflict = none → conflictAhead b s = 0 → bankWait b s = .ok s) ∧
      (s.me.conflict = none → conflictAhead b s ≠ 0 →
        bankWait b s = .error (s.stallNow.updMe fun x => { x with conflict := some (conflictAhead b s) })) ∧
      (∀ n, s.me.conflict = some (n + 2) →
        bankWait b s = .error (s.stallNow.updMe fun x => { x with conflict := some (n + 1) })) ∧
      (s.me.conflict = some 1 → ∃ t, bankWait b s = .ok t ∧ t.me.stall = s.me.stall))

end Sys2Proof.Claims

/-- A turn of a context issues its bundle (R51, R45), beside the other context of its tile (R141, R211). The model's readings: a `nop` under
a guard other than p0 uses its slot position (log 95, DESIGN CHOICE), the older context is held for one clock cycle in 64 lost merge
cycles (log 76, DEDUCED), the record of an illegal bundle names no slot (log 22, DEDUCED), a gang whose lockstep has ended ranks as any
other (log 117), and the turns of a tile's two contexts follow one another (log 2). -/
def Obligations.TurnIssuesBundle : Prop :=
  TurnIssues ∧ Elder ∧ MergeIssue ∧ OlderYields ∧ BankConflicts

/-- A slot of a bundle runs the meaning of its instruction: every instruction that has a slot but the header, which governs its
bundle instead. -/
def Sys2Proof.Claims.SlotRunsMeaning : Prop :=
  ∀ (i : Instr) (s : State), i.slot ≠ none → (∀ d k sc sy fn cnt lt lb, i ≠ .header d k sc sy fn cnt lt lb) →
    runSlot i s = exec i s

/-- Every instruction and every event answers a next state, in every state: no meaning stops. -/
def Sys2Proof.Claims.EveryMeaningAnswers : Prop := ∀ (i : Instr) (s : State), ∃ t, exec i s = .next t

/-- A slot of a bundle runs the meaning of its instruction, and no meaning, of instruction or event, stops the machine (R48, R51). -/
def Obligations.SlotsRunMeanings : Prop :=
  SlotRunsMeaning ∧ EveryMeaningAnswers

/-! ### Numbers (R61 to R76) -/

namespace Sys2Proof.Claims

/-- Order of the dyadic numbers m·2^e and n·2^k. -/
def cmpDyadic (m : Nat) (e : Int) (n : Nat) (k : Int) : Ordering :=
  compare (m * 2 ^ (e - min e k).toNat) (n * 2 ^ (k - min e k).toNat)

/-- An exact magnitude, known by its order against every dyadic number. -/
abbrev Magnitude := Nat → Int → Ordering

/-- m·2^e ≤ x, and m·2^e < x. -/
def Magnitude.atLeast (x : Magnitude) (m : Nat) (e : Int) : Prop := x m e ≠ .gt
def Magnitude.above (x : Magnitude) (m : Nat) (e : Int) : Prop := x m e = .lt

/-- n·2^q is the magnitude x rounded to a multiple of 2^q in a mode, for a value of sign `neg` (R61). -/
def IsRounded (rm : RMode) (neg : Bool) (x : Magnitude) (q : Int) (n : Nat) : Prop :=
  let down := x.atLeast n q ∧ ¬ x.atLeast (n + 1) q
  let up := ¬ x.above n q ∧ (n = 0 ∨ x.above (n - 1) q)
  match rm with
  | .rtz => down
  | .rdn => if neg then up else down
  | .rup => if neg then down else up
  | .rne => (n = 0 ∨ x.atLeast (2 * n - 1) (q - 1)) ∧ ¬ x.above (2 * n + 1) (q - 1) ∧
      (x (2 * n + 1) (q - 1) = .eq ∨ (n ≠ 0 ∧ x (2 * n - 1) (q - 1) = .eq) → n % 2 = 0)
  | .rna => (n = 0 ∨ x.atLeast (2 * n - 1) (q - 1)) ∧ ¬ x.atLeast (2 * n + 1) (q - 1)

/-- `round` of R66 for a nonzero exact value of sign `neg` and magnitude x: rounded to the precision with unbounded exponent it is
tiny or not; a tiny one is flushed where the mode says; else it is rounded on the format's grid, overflows past the largest finite
value, and raises NX when it is not exact and UF with it when tiny. -/
def Delivers (v : FEnv) (t : FTy) (rm : RMode) (neg : Bool) (x : Magnitude) (r : Nat × BitVec 7) : Prop :=
  ∃ (q : Int) (y z : Nat), let grid := max q (t.emin - t.fracBits)
    x.atLeast (2 ^ t.fracBits) q ∧ ¬ x.atLeast (2 ^ t.prec) q ∧ IsRounded rm neg x q y ∧ IsRounded rm neg x grid z ∧
    let tiny := cmpDyadic y q 1 t.emin = .lt
    if tiny ∧ v.flushOut t = true then r = (t.zero neg, fUF ||| fNX)
    else if cmpDyadic z grid t.maxSig (t.emax - t.fracBits) = .gt then r = (overflowTo v t neg rm, fOF ||| fNX)
    else r.1 < 2 ^ t.width ∧ (∃ m e, t.val r.1 = .fin neg m e ∧ cmpDyadic m e z grid = .eq) ∧
      r.2 = if x z grid = .eq then 0 else if tiny then fNX ||| fUF else fNX

/-- What an operation delivers whose exact value is the integer i times 2^b; an exact zero has the sign `zero`. -/
def DeliversInt (v : FEnv) (t : FTy) (rm : RMode) (zero : Bool) (i b : Int) (r : Nat × BitVec 7) : Prop :=
  if i = 0 then r = (t.zero zero, 0)
  else Delivers v t rm (decide (i < 0)) (fun m e => cmpDyadic m e i.natAbs b) r

/-- ±m·2^e as a multiple of 2^b, b ≤ e. -/
def unitsOf (n : Bool) (m : Nat) (e b : Int) : Int := (if n then -1 else 1) * ((m * 2 ^ (e - b).toNat : Nat) : Int)

/-- Sum, product, fused product and sum, quotient, square root and the two reciprocals of finite values (R66, R187, R188): the exact
value, rounded once; an exact zero takes the sign of R187. -/
def FiniteArithmetic : Prop :=
  ∀ (v : FEnv) (t : FTy) (rm : RMode) (n k j g : Bool) (m l i : Nat) (e f h : Int),
    let x := FVal.fin n m e
    let y := FVal.fin k l f
    let b := min e f
    DeliversInt v t rm (if m = 0 ∧ l = 0 ∧ n = k then n else rm == .rdn) (unitsOf n m e b + unitsOf k l f b) b
      (fopAdd v t rm x y) ∧
    DeliversInt v t rm (n != k) (unitsOf (n != k) (m * l) 0 0) (e + f) (fopMul v t rm x y) ∧
    fopFma v t rm g x y (.fin j i h) = fopAdd v t rm (.fin ((n != k) != g) (m * l) (e + f)) (.fin j i h) ∧
    (m ≠ 0 → l ≠ 0 → Delivers v t rm (n != k) (fun a c => cmpDyadic (a * l) (c + f) m e) (fopDiv v t rm x y)) ∧
    (m = 0 → l ≠ 0 → fopDiv v t rm x y = (t.zero (n != k), 0)) ∧
    (m ≠ 0 → l = 0 → fopDiv v t rm x y = (t.infBits (n != k), fDZ)) ∧
    (m = 0 → l = 0 → fopDiv v t rm x y = (t.cnan, fNV)) ∧
    fopSqrt v t rm (.fin n 0 e) = (t.zero n, 0) ∧ (m ≠ 0 → fopSqrt v t rm (.fin true m e) = (t.cnan, fNV)) ∧
    (m ≠ 0 → Delivers v t rm false (fun a c => cmpDyadic (a * a) (c + c) m e) (fopSqrt v t rm (.fin false m e))) ∧
    fopRcp v t rm (.fin n 0 e) = (t.infBits n, fDZ) ∧
    (m ≠ 0 → Delivers v t rm n (fun a c => cmpDyadic (a * m) (c + e) 1 0) (fopRcp v t rm x)) ∧
    fopRsq v t rm (.fin n 0 e) = (t.infBits n, fDZ) ∧ (m ≠ 0 → fopRsq v t rm (.fin true m e) = (t.cnan, fNV)) ∧
    (m ≠ 0 → Delivers v t rm false (fun a c => cmpDyadic (a * a * m) (c + c + e) 1 0) (fopRsq v t rm (.fin false m e)))

/-- NaN and infinite operands (R187, R188), the first matching row deciding. -/
def SpecialOperands : Prop :=
  ∀ (v : FEnv) (t : FTy) (rm : RMode) (x y z : FVal) (n k g : Bool) (m : Nat) (e : Int),
    let inv := (t.cnan, fNV)
    let quiet := (t.cnan, 0)
    let sig := x = .nan true ∨ y = .nan true
    let nan := ¬ sig ∧ (x = .nan false ∨ y = .nan false)
    let zeroInf := fun (a b : FVal) => a = .fin n 0 e ∧ b = .inf k
    (sig → fopAdd v t rm x y = inv ∧ fopMul v t rm x y = inv ∧ fopDiv v t rm x y = inv ∧ fopFma v t rm g x y z = inv ∧
      fopFma v t rm g z x y = inv) ∧
    (nan → fopAdd v t rm x y = quiet ∧ fopMul v t rm x y = quiet ∧ fopDiv v t rm x y = quiet ∧
      (z ≠ .nan true → fopFma v t rm g x y z = quiet)) ∧
    (¬ sig → z ≠ .nan true → zeroInf x y ∨ zeroInf y x → fopMul v t rm x y = inv ∧ fopFma v t rm g x y z = inv) ∧
    fopFma v t rm g (.fin n m e) (.fin n m e) (.nan false) = quiet ∧
    fopAdd v t rm (.inf n) (.inf (!n)) = inv ∧ fopDiv v t rm (.inf n) (.inf k) = inv ∧
    fopAdd v t rm (.inf n) (.inf n) = (t.infBits n, 0) ∧
    fopAdd v t rm (.inf n) (.fin k m e) = (t.infBits n, 0) ∧ fopAdd v t rm (.fin k m e) (.inf n) = (t.infBits n, 0) ∧
    fopMul v t rm (.inf n) (.inf k) = (t.infBits (n != k), 0) ∧
    (m ≠ 0 → fopMul v t rm (.inf n) (.fin k m e) = (t.infBits (n != k), 0) ∧
      fopMul v t rm (.fin k m e) (.inf n) = (t.infBits (k != n), 0) ∧
      fopFma v t rm g (.inf n) (.fin k m e) (.inf (!((n != k) != g))) = inv ∧
      fopFma v t rm g (.inf n) (.fin k m e) (.inf ((n != k) != g)) = (t.infBits ((n != k) != g), 0) ∧
      fopFma v t rm g (.inf n) (.fin k m e) (.fin n m e) = (t.infBits ((n != k) != g), 0)) ∧
    fopFma v t rm g (.fin n m e) (.fin n m e) (.inf k) = (t.infBits k, 0) ∧
    fopDiv v t rm (.inf n) (.fin k m e) = (t.infBits (n != k), 0) ∧ fopDiv v t rm (.fin k m e) (.inf n) = (t.zero (k != n), 0) ∧
    fopSqrt v t rm (.nan true) = inv ∧ fopSqrt v t rm (.nan false) = quiet ∧ fopSqrt v t rm (.inf false) = (t.infBits false, 0) ∧
    fopSqrt v t rm (.inf true) = inv ∧ fopRcp v t rm (.nan true) = inv ∧ fopRcp v t rm (.nan false) = quiet ∧
    fopRcp v t rm (.inf n) = (t.zero n, 0) ∧ fopRsq v t rm (.nan true) = inv ∧ fopRsq v t rm (.nan false) = quiet ∧
    fopRsq v t rm (.inf false) = (t.zero false, 0) ∧ fopRsq v t rm (.inf true) = inv

/-- `fmin` and `fmax` (R189): of two numbers the smaller or larger, −0 below +0, its bits unchanged after flush-inputs; a number is
preferred to a NaN, and only a signalling NaN raises NV. -/
def MinAndMax : Prop :=
  ∀ (v : FEnv) (t : FTy) (a b : Nat), let p := flushBits v t a
    let q := flushBits v t b
    let nv := if t.val p = .nan true ∨ t.val q = .nan true then fNV else 0
    (∀ n m e k l f, t.val p = .fin n m e → t.val q = .fin k l f →
      let i := unitsOf n m e (min e f)
      let j := unitsOf k l f (min e f)
      fopMinMax v t false a b = (if j < i ∨ (j = i ∧ k = true ∧ n = false) then q else p, 0) ∧
      fopMinMax v t true a b = (if i < j ∨ (i = j ∧ n = true ∧ k = false) then q else p, 0)) ∧
    (∀ n k l f, t.val p = .inf n → t.val q = .fin k l f →
      fopMinMax v t false a b = (if n then p else q, 0) ∧ fopMinMax v t true a b = (if n then q else p, 0)) ∧
    (∀ n m e k, t.val p = .fin n m e → t.val q = .inf k →
      fopMinMax v t false a b = (if k then q else p, 0) ∧ fopMinMax v t true a b = (if k then p else q, 0)) ∧
    (∀ n k, t.val p = .inf n → t.val q = .inf k →
      fopMinMax v t false a b = (if k && !n then q else p, 0) ∧ fopMinMax v t true a b = (if n && !k then q else p, 0)) ∧
    ∀ g, (t.val p).isNan = true →
      ((t.val q).isNan = false → fopMinMax v t g a b = (q, nv) ∧ fopMinMax v t g b a = (q, nv)) ∧
      ((t.val q).isNan = true → fopMinMax v t g a b = (t.cnan, nv))

/-- `fscl` (R191): x·2^k rounded once; a NaN gives the canonical one, with NV where it is signalling, and an infinity stays. -/
def Scaling : Prop :=
  ∀ (v : FEnv) (t : FTy) (rm : RMode) (n : Bool) (m : Nat) (e k : Int),
    DeliversInt v t rm n (unitsOf n m 0 0) (e + k) (fopScl v t rm (.fin n m e) k) ∧
    fopScl v t rm (.nan n) k = (t.cnan, if n then fNV else 0) ∧ fopScl v t rm (.inf n) k = (t.infBits n, 0)

/-- `fexp2` and `flog2` (R188) of a special operand, and where the result is a power of two or a whole number: 2^x of a whole x
(below 2^16 in magnitude, beyond the range of every format), the binary logarithm of a power of two. -/
def ExpAndLog : Prop :=
  ∀ (v : FEnv) (t : FTy) (rm : RMode) (n : Bool) (m k : Nat) (e i : Int),
    fopExp2 v t rm (.nan n) = (t.cnan, if n then fNV else 0) ∧ fopLog2 v t rm (.nan n) = (t.cnan, if n then fNV else 0) ∧
    fopExp2 v t rm (.inf n) = (if n then t.zero false else t.infBits false, 0) ∧
    fopLog2 v t rm (.inf n) = (if n then (t.cnan, fNV) else (t.infBits false, 0)) ∧
    fopLog2 v t rm (.fin n 0 e) = (t.infBits true, fDZ) ∧ (m ≠ 0 → fopLog2 v t rm (.fin true m e) = (t.cnan, fNV)) ∧
    (0 ≤ e → (unitsOf n m e 0).natAbs < 2 ^ 16 → DeliversInt v t rm false 1 (unitsOf n m e 0) (fopExp2 v t rm (.fin n m e))) ∧
    (i.natAbs < 2 ^ 16 →
      DeliversInt v t rm false 1 i (fopExp2 v t rm (.fin (decide (i < 0)) (i.natAbs * 2 ^ k) (-(k : Int))))) ∧
    DeliversInt v t rm false (e + k) 0 (fopLog2 v t rm (.fin false (2 ^ k) e))

/-- Conversion of a finite value to an integer of w bits (R67): rounded to an integer, saturated with NV outside the type. -/
def DeliversInteger (sg : Bool) (w : Nat) (rm : RMode) (n : Bool) (m : Nat) (e : Int) (r : Nat × BitVec 7) : Prop :=
  let x : Magnitude := fun a c => cmpDyadic a c m e
  ∃ y, IsRounded rm n x 0 y ∧
    let z : Int := if n then -(y : Int) else y
    let lo : Int := if sg then -2 ^ (w - 1) else 0
    let hi : Int := (if sg then 2 ^ (w - 1) else 2 ^ w) - 1
    r = if hi < z then ((BitVec.ofInt w hi).toNat, fNV) else if z < lo then ((BitVec.ofInt w lo).toNat, fNV)
      else ((BitVec.ofInt w z).toNat, if x y 0 = .eq then 0 else fNX)

/-- Conversions (R67, R192): a wider format copies, subject to flush-outputs; other floats and integers round once; an integer
result saturates. -/
def Conversions : Prop :=
  ∀ (v : FEnv) (rm : RMode) (x : Nat) (s d : FTy) (sg dg : Bool) (k j : Nat) (n : Bool) (m : Nat) (e : Int),
    let w := 2 ^ (j + 3)
    j < 4 → let lo : Int := if dg then -2 ^ (w - 1) else 0
    let hi : Int := (if dg then 2 ^ (w - 1) else 2 ^ w) - 1
    let i := intVal sg (2 ^ (k + 3)) x
    (readVal v s x = .fin n m e → widens s d = false → DeliversInt v d rm n (unitsOf n m 0 0) e (convert v (.flt d) (.flt s) x rm)) ∧
    (readVal v s x = .fin n m e → widens s d = true →
      if m ≠ 0 ∧ v.flushOut d = true ∧ cmpDyadic m e 1 d.emin = .lt
      then convert v (.flt d) (.flt s) x rm = (d.zero n, fUF ||| fNX)
      else ∃ l f, d.val (convert v (.flt d) (.flt s) x rm).1 = .fin n l f ∧ cmpDyadic l f m e = .eq ∧
        (convert v (.flt d) (.flt s) x rm).2 = 0) ∧
    (∀ b, readVal v s x = .nan b → convert v (.flt d) (.flt s) x rm = (d.cnan, if b then fNV else 0) ∧
      convert v (.int dg j) (.flt s) x rm = (0, fNV)) ∧
    (readVal v s x = .inf n → convert v (.flt d) (.flt s) x rm =
        (if d ≠ .e4m3 then (d.infBits n, 0) else if v.satn then (d.maxFin n, 0) else (d.cnan, fNV)) ∧
      convert v (.int dg j) (.flt s) x rm = ((BitVec.ofInt w (if n then lo else hi)).toNat, fNV)) ∧
    (readVal v s x = .fin n m e → DeliversInteger dg w rm n m e (convert v (.int dg j) (.flt s) x rm)) ∧
    DeliversInt v d rm false i 0 (convert v (.flt d) (.int sg k) x rm) ∧
    convert v (.int dg j) (.int sg k) x rm = ((BitVec.ofInt w (if i < lo then lo else if hi < i then hi else i)).toNat, 0)

/-- A finite value in units of 2^e, rounded toward −∞, and whether that drops bits (R70). -/
def windowUnits (e : Int) (n : Bool) (m : Nat) (k : Int) : Int × Bool :=
  let i := unitsOf n m k (min k e)
  let u : Int := 2 ^ (e - min k e).toNat
  (i / u, decide (i % u ≠ 0))

/-- One addition by R70, case by case: CNT saturates and sets WO there; a NaN makes the class NaN and hands on its invalid mark; an
infinity sets the class or, against the other sign, makes it NaN and sets NVI; a finite value of magnitude 2^(e + 223) or more sets WO, and
every finite value is floored to units of 2^e, sets WX if that drops bits, and is added into I modulo 2^256 whatever the class. -/
def WindowAddition : Prop :=
  ∀ (e : Int) (E : WinEntry) (b n : Bool) (m : Nat) (k : Int),
    let full := decide (E.cnt = BitVec.allOnes 32)
    let A := { E with cnt := if full then E.cnt else E.cnt + 1, wo := E.wo || full }
    let mine : BitVec 2 := if n then 2 else 1
    let other : BitVec 2 := if n then 1 else 2
    let u := windowUnits e n m k
    winAdd e E (.nan b) = { A with cls := 3, nvi := E.nvi || b } ∧
    winAdd e E (.inf n) = { A with
      cls := if E.cls = other then 3 else if E.cls = 0 then mine else E.cls, nvi := E.nvi || decide (E.cls = other) } ∧
    winAdd e E (.fin n m k) = { A with
      wo := A.wo || decide (cmpDyadic m k 1 (e + 223) ≠ .lt), wx := E.wx || u.2, i := E.i + BitVec.ofInt 256 u.1 }

/-- The window (R70, R71, R73, R112): fewer than 2^32 finite values, each below 2^(e + 223), add up exactly in units of 2^e, and the drain
rounds the sum once; in whatever order values come, the entry ends the same; a NaN or infinities of both signs make it NaN, a signalling
NaN or infinities of both signs set NVI. The entry is the one that R70 gives for its values with the infinities in front: for a quiet NaN
that comes between infinities of both signs that is the model's reading, since R70's pseudocode lets the order decide NVI there and R73
forbids it (log 100, DEDUCED). -/
def WindowIsExact : Prop :=
  WindowAddition ∧
  (∀ (e : Int) (l : List (Bool × Nat × Int)), l.length < 2 ^ 32 →
    (∀ x ∈ l, cmpDyadic x.2.1 x.2.2 1 (e + 223) = .lt) →
    let E := (l.map fun x => FVal.fin x.1 x.2.1 x.2.2).foldl (winPut e) {}
    E.i.toInt = (l.map fun x => (windowUnits e x.1 x.2.1 x.2.2).1).sum ∧ E.cnt.toNat = l.length ∧ E.wo = false ∧ E.cls = 0 ∧
    E.nvi = false ∧ E.wx = l.any fun x => (windowUnits e x.1 x.2.1 x.2.2).2) ∧
  (∀ (e : Int) (l k : List FVal) (E : WinEntry), l.Perm k → l.foldl (winPut e) E = k.foldl (winPut e) E) ∧
  (∀ (e : Int) (l : List FVal),
    let E := l.foldl (winPut e) {}
    let R := (l.filter (fun x => x.isInf) ++ l.filter fun x => !x.isInf).foldl (winAdd e) {}
    let both := .inf false ∈ l ∧ .inf true ∈ l
    let nan := ∃ b, .nan b ∈ l
    { E with posInf := false, negInf := false } = R ∧
    (E.cls = 3 ↔ nan ∨ both) ∧ (E.cls = 1 ↔ .inf false ∈ l ∧ ¬ nan ∧ ¬ both) ∧ (E.cls = 2 ↔ .inf true ∈ l ∧ ¬ nan ∧ ¬ both) ∧
    (E.nvi = true ↔ .nan true ∈ l ∨ both)) ∧
  ∀ (v : FEnv) (rm : RMode) (e : Int) (E : WinEntry) (t : FTy) (sg : Bool) (k : Nat),
    let f : BitVec 7 := if E.wx then fWX ||| fNX else 0
    let i := E.i.toInt
    let w := 2 ^ (k + 3)
    let lo : Int := if sg then -2 ^ (w - 1) else 0
    let hi : Int := (if sg then 2 ^ (w - 1) else 2 ^ w) - 1
    (E.wo = true → winDrain v e E (.flt t) rm = (t.cnan, fWO ||| fNV) ∧ winDrain v e E (.int sg k) rm = (0, fWO ||| fNV)) ∧
    (E.wo = false → E.cls = 0 → ∃ r, winDrain v e E (.flt t) rm = (r.1, f ||| r.2) ∧ DeliversInt v t rm false i e r) ∧
    (E.wo = false → E.cls = 0 → k < 4 → ∃ r, winDrain v e E (.int sg k) rm = (r.1, f ||| r.2) ∧
      DeliversInteger sg w rm (decide (i < 0)) i.natAbs e r) ∧
    (E.wo = false → E.cls = 3 → winDrain v e E (.flt t) rm = (t.cnan, f ||| if E.nvi then fNV else 0) ∧
      winDrain v e E (.int sg k) rm = (0, f ||| fNV)) ∧
    ∀ n, E.wo = false → E.cls = (if n then 2 else 1) →
      winDrain v e E (.flt t) rm = (if t ≠ .e4m3 then (t.infBits n, f) else if v.satn then (t.maxFin n, f) else (t.cnan, f ||| fNV)) ∧
      winDrain v e E (.int sg k) rm = ((BitVec.ofInt w (if n then lo else hi)).toNat, f ||| fNV)

/-- Rows in the array (R69, R280): products are exact, a NaN or 0 × ∞ gives a NaN that knows whether it is invalid; a GEMM row adds to
each entry its products with that entry's column, an SRA row one product per entry. -/
def ProductsAndRows : Prop :=
  (∀ (n k : Bool) (m l : Nat) (e f : Int) (y : FVal),
    prod (.fin n m e) (.fin k l f) = .fin (n != k) (m * l) (e + f) ∧ prod (.inf n) (.inf k) = .inf (n != k) ∧
    (m ≠ 0 → prod (.inf n) (.fin k m e) = .inf (n != k) ∧ prod (.fin k m e) (.inf n) = .inf (k != n)) ∧
    prod (.inf n) (.fin k 0 e) = .nan true ∧ prod (.fin k 0 e) (.inf n) = .nan true ∧
    prod (.nan true) y = .nan true ∧ prod y (.nan true) = .nan true ∧
    (y ≠ .nan true → prod (.nan false) y = .nan false ∧ prod y (.nan false) = .nan false)) ∧
  ∀ (e : Int) (w : FVal) (xs : List FVal) (tile : List (List FVal)) (acc : List WinEntry) (j : Nat), j < acc.length →
    ((∀ r ∈ tile, r.length = acc.length) → (gemmRow e xs tile acc)[j]? =
      some (((xs.zip tile).map fun p => prod p.1 (p.2.getD j default)).foldl (winPut e) (acc.getD j {}))) ∧
    (xs.length = acc.length → (sraRow e w xs acc)[j]? = some (winPut e (acc.getD j {}) (prod w (xs.getD j default))))

end Sys2Proof.Claims

/-- What the float operations compute, and that the window is exact (R61, R66, R67, R69 to R71, R73, R112, R187, R189, R191, R192, R280):
every result is the exact value rounded once into its format. Of `fexp2` and `flog2` (R188) only the special operands and the
representable results are here. -/
def Obligations.NumbersAreExact : Prop :=
  FiniteArithmetic ∧ SpecialOperands ∧ MinAndMax ∧ Scaling ∧ ExpAndLog ∧ Conversions ∧ WindowIsExact ∧ ProductsAndRows

/-- A bundle that waits for nothing and meets no fault runs its slots on the landed state, then posts its header's flag, counts the
cycle in its watchdog, and ends (`finishBundle`), in one issue cycle; a load follows its own atomics and released posts (R82, R88;
`PostsInOrder`). That the slots run in the order M, V, X, S is the model's own: they act on what they read at issue (R51), so the order
shows nowhere in the spec. -/
def Sys2Proof.Claims.CycleRunsSlots : Prop :=
  ∀ (b : Bundle) (bs : List Byte) (s r u v w z : State),
    beforeAccept b s = .ok r → b.2.1.isCommand = false →
    let t := loadOrder b r
    (t.hurryAtoms t.cur).me.mcDue = none → (t.hurryAtoms t.cur).me.fpDue = none →
    runSlot b.2.1 (t.landedView (hdrOf b)) = .next u → u.me.cond ≠ .parked →
    runSlot b.2.2.1 (u.startIssue t b bs) = .next v → runSlot b.2.2.2 v = .next w → runSlot b.1 w = .next z →
    (z.freeLatch t.cur).me.cond = .running →
    issueDecoded b bs s =
      finishBundle b ((headerPost (hdrOf b) (z.freeLatch t.cur)).updMe fun x => x.endSlots.countIssue b)

/-- An instruction whose guard is false has no effect (R38): the state is as it was. `yield` is not among them, for its hold
belongs to its bundle (log 16). -/
def Sys2Proof.Claims.FalseGuardHasNoEffect : Prop :=
  ∀ (i : Instr) (g : Nat) (s : State), guardOf i = some g → s.me.a.rP g = false → exec i s = .next s

/-- The empty slots do nothing whatever their guard (R37, R38); `yield` passes a progress point and holds its context for a clock cycle
(R175, R154), under a false guard too, which is the model's reading (log 16). -/
def Sys2Proof.Claims.NopAndYield : Prop :=
  ∀ (g : Nat) (s : State), exec (.nopS g) s = .next s ∧ exec (.nopM g) s = .next s ∧ exec (.nopV g) s = .next s ∧
    exec (.nopX g) s = .next s ∧ exec (.yield g) s = .next (s.updMe fun x => { x with wdog := 0, yieldHold := true })

/-- A false guard leaves an instruction without effect, the empty slots have none (R38, R37), and a `yield` holds its context for a clock
cycle and is a progress point (R175, R154), which it is under a false guard too by the model's reading (log 16). -/
def Obligations.GuardsAndEmptySlots : Prop :=
  FalseGuardHasNoEffect ∧ NopAndYield

/-- The end of a bundle: the PC is what `advance` gives, the loop stack what it leaves, and the header's mark, taken only where
it asks for one (k = 1), shadows the state at the new PC and releases the gate and the array hold (R142), which may attach a
queue handle (R215); without one nothing else changes but what belongs to the bundle. -/
def Sys2Proof.Claims.BundleEnds : Prop :=
  ∀ (b : Bundle) (s : State), let u := finishBundle b s
    let n := s.me.advance
    u.me.pc = n.1 ∧ u.me.a.loops = n.2.a.loops ∧ { u.me.a with qs := n.2.a.qs } = n.2.a ∧
    ((hdrOf b).k ≠ 1 → u = s.setCtx s.cur { n.2.endBundle with pc := n.1 }) ∧
    ((hdrOf b).k = 1 → u.me.gate = [] ∧ u.me.hold = [] ∧ u.me.sh = u.me.a ∧ u.me.restart = n.1 ∧ u.me.req = none)

/-- A header alone in its bundle issues as the bundle whose other slots are empty; where nothing before acceptance holds it and no
trap lands, the bundle ends, its PC a multiple of 16, with the mark where it asks for one. -/
def Sys2Proof.Claims.HeaderAlone : Prop :=
  ∀ (d k sc sy fn cnt lt lb : Nat) (s : State),
    exec (.header d k sc sy fn cnt lt lb) s =
      .next (issueDecoded (.header d k sc sy fn cnt lt lb, .nopM 0, .nopV 0, .nopX 0) [] s) ∧
    ∀ t, beforeAccept (.header d k sc sy fn cnt lt lb, .nopM 0, .nopV 0, .nopX 0) s = .ok t →
      (t.hurryAtoms t.cur).me.mcDue = none → (t.hurryAtoms t.cur).me.fpDue = none → t.me.cond = .running →
      ∃ u, exec (.header d k sc sy fn cnt lt lb) s = .next u ∧ u.me.inIssue = false ∧ u.me.pc % 16 = 0 ∧
        (k = 1 → u.me.gate = [] ∧ u.me.sh = u.me.a ∧ u.me.restart = u.me.pc)

namespace Sys2Proof.Claims

/-- What stands before a bundle's acceptance, in the order of R51: the drain point, the header's flag wait, the stage wait, a task request,
the waits of the M slot, bank conflicts, the stream wait, the gate and the array hold, every other check, and merge issue. R51 gives no
place to merge issue and to a step-control call, which the model looks at last and beside a task request (log 133, log 137, DESIGN
CHOICE). -/
def WaitOrder : Prop :=
  ∀ (b : Bundle) (s : State), beforeAccept b s =
    (drainWait b s >>= headerWait b >>= stageTurn b >>= requestWait b >>= memWait b >>= bankWait b >>= streamTurn b >>= roomCheck b >>=
      faultCheck b >>= mergeWait b)

/-- The engine queues of a context are drained (R148): its write-out queue is empty, no atomic of it is on its way, its drains have
completed, and the matrix engine has nothing of it but the gather of the bag it has open. -/
def Drained (s : State) : Prop :=
  s.me.woq = [] ∧ s.me.cAtom = 0 ∧ s.me.latching = [] ∧
  if s.me.gathersOpen = true then ∀ o ∈ s.me.mx, (∃ b c, o.kind = .opn b c) ∨ ∃ f, o.kind = .feed f
  else s.me.mx = [] ∧ ∀ r, s.me.bagRun = some r → ∀ f ∈ r.feeds, ∀ e ∈ f.rows, e.fate.settled = true

/-- A drain point (R148, R149, R402): the bundle's header asks for it, or its slot 0 holds `yield`, `trap`, `sysc` or `brk`. A pending
register write takes the drain-hazard trap, whose detail names the write due first, of those the one of the lowest file code and then of
the lowest register; the context stalls until its engine queues are drained; then a deferred trap that is due is taken, the hold event
after it, and a pre-emption after that where gate, array hold, bag and sump allocations allow it. Any other bundle waits for none of
this, and nor does a step-control call that has begun, whose commit may have released operations since (R179). That the drain-hazard trap
names no slot is the model's reading (log 22, DEDUCED). -/
def DrainPoints : Prop :=
  (∀ (b : Bundle), drainPoint b = true ↔ (∃ k sc sy fn cnt lt lb, b.1 = .header 1 k sc sy fn cnt lt lb) ∨ (∃ g, b.1 = .yield g) ∨
    (∃ g c, b.1 = .trap g c) ∨ (∃ g c, b.1 = .sysc g c) ∨ (∃ g c, b.1 = .brk g c) ∨
    ∃ g, b.1 = .syscResume g ∨ b.1 = .syscKillStep g ∨ b.1 = .syscLocate g) ∧
  (∀ (b : Bundle) (s : State), drainPoint b = false ∨ s.me.reqStage ≠ .none → drainWait b s = .ok s) ∧
  ∀ (b : Bundle) (s : State), drainPoint b = true → s.me.reqStage = .none →
    let first := fun (p : Pend) => ∀ q ∈ s.me.a.pend, p.left < q.left ∨ p.left = q.left ∧
      (p.file.code < q.file.code ∨ p.file.code = q.file.code ∧ p.reg % 32 ≤ q.reg % 32)
    (∀ p ∈ s.me.a.pend, first p → drainWait b s = .error (takeTrap {
      cause := 8, pc := s.me.pc, detail := p.reg % 32 + p.file.code * 2 ^ 8 + s.me.a.pend.length * 2 ^ 16 } s)) ∧
    (s.me.a.pend = [] → ¬ Drained s → drainWait b s = .error s.stallNow) ∧
    (s.me.a.pend = [] → Drained s →
      (∀ d l, s.me.deferred = d :: l → drainWait b s = .error (takeTrap {
        cause := d.cause, slot := d.slot, deferred := true, exc := d.exc, pc := d.pc, detail := d.detail, due := some d } s)) ∧
      (s.me.deferred = [] →
        let held := ∃ k, s.stepOf s.cur = some k ∧ k.parkedBy ≠ []
        let stops := s.me.preempt = true ∧ s.me.gate = [] ∧ s.me.hold = [] ∧ s.me.a.bag = none ∧ s.me.a.ranges = [] ∧
          (s.follower = true → s.me.bcast = [])
        (held → ∃ t, drainWait b s = .error t ∧ t.me.cond = .held ∧ t.me.pc = s.me.pc ∧ t.me.a = s.me.a) ∧
        (¬ held → stops → ∃ t, drainWait b s = .error t ∧ t.me.cond = .stopped ∧ t.me.pc = s.me.pc ∧ t.me.restart = s.me.pc ∧
          t.me.a = s.me.a ∧ t.me.sh = s.me.a) ∧
        (¬ held → ¬ stops → drainWait b s = .ok s)))

/-- A header's flag wait (R21): with SY 1 or 3 the context stalls while flag FN is below CNT + 1; the count is taken in the issue
cycle. -/
def HeaderWaits : Prop :=
  (∀ (b : Bundle) (s : State), let h := hdrOf b
    (h.sy % 2 = 1 → (vget s.me.flags h.fn).toNat < h.cnt + 1 → headerWait b s = .error s.stallNow) ∧
    (h.sy % 2 = 1 → h.cnt + 1 ≤ (vget s.me.flags h.fn).toNat → headerWait b s = .ok s) ∧ (h.sy % 2 = 0 → headerWait b s = .ok s)) ∧
  (∀ (x : Ctx) (h : Hdr) (f : Nat), f < 32 → h.fn < 32 →
    vget (x.takeFlag h).flags f = if h.sy % 2 = 1 ∧ f = h.fn then vget x.flags f - BitVec.ofNat 16 (h.cnt + 1) else vget x.flags f) ∧
  ∀ (d k sc sy fn cnt lt lb : Nat) (b : Bundle), (b.1 = .header d k sc sy fn cnt lt lb →
      (hdrOf b).d = d ∧ (hdrOf b).k = k ∧ (hdrOf b).sy = sy ∧ (hdrOf b).fn = fn ∧ (hdrOf b).cnt = cnt) ∧
    ((∀ d k sc sy fn cnt lt lb, b.1 ≠ .header d k sc sy fn cnt lt lb) → hdrOf b = {})

/-- A slot that waits holds its bundle, which then changes nothing but what counts the wait (R51, R140). -/
def SlotWaits : Prop :=
  ∀ (i : Instr) (h : Hdr) (s t : State), runSlot i (s.landedView h) = .next t →
    (t.me.stall = (s.landedView h).me.stall → slotWait i h s = .ok s) ∧
    (t.me.stall ≠ (s.landedView h).me.stall → ∃ u, slotWait i h s = .error u ∧ u.mem = s.mem ∧ u.me.a = s.me.a ∧
      u.me.pc = s.me.pc ∧ u.me.gate = s.me.gate ∧ u.me.stall = s.me.stall + 1 ∧ u.me.wdog = s.me.wdog + 1)

/-- The guard of an instruction that takes a gate entry (R50): core-path stores and scatters, queue advances, flag posts, stage advances
and jumps, siphon and pump commands. -/
def gateGuard : Instr → Option Nat
  | .sb g .. | .sh g .. | .sw g .. | .sd g .. | .vst g .. | .vstx g .. | .sps g .. | .qst g .. | .qadvP g .. | .qadvC g .. | .fpost g ..
  | .stgAdvImm g .. | .stgAdvReg g .. | .stgSetImm g .. | .stgSetReg g .. | .sphCp g .. | .sphGth g .. | .sphSct g .. | .sphSctAdd g ..
  | .sphRed g .. | .sphFill g .. | .sphAtom g .. | .sphPre g .. | .sphImm g .. | .bagPump g .. => some g
  | _ => none

/-- The guard of an instruction that takes an entry of the array hold (R144). -/
def holdGuard : Instr → Option Nat
  | .mld g .. | .mcb g .. | .msc g .. | .bagOpen g .. | .bagRows g .. | .bagPump g .. | .bagClose g | .bagRep g .. | .sumpDr g ..
  | .sumpClr g .. => some g
  | _ => none

/-- The gate and the array hold (R50, R144): a bundle that would bring the gate above 32 entries takes the gate-overflow trap, and one that
would bring the array hold above 16 takes it with detail 1; a false guard takes no entry, and a header's post takes one of the gate. That
the record of this trap names no slot is the model's reading (log 22, DEDUCED). -/
def RoomChecks : Prop :=
  ∀ (b : Bundle) (s : State),
    let taken := fun (k : Instr → Option Nat) => ((slotsOf b).filter fun i => (k i).any (s.landedView (hdrOf b)).me.a.rP).length
    let gate := taken gateGuard + (if 2 ≤ (hdrOf b).sy then 1 else 0) + s.me.gate.length
    let hold := taken holdGuard + s.me.hold.length
    (32 < gate → roomCheck b s = .error (takeTrap { cause := 2, pc := s.me.pc, detail := 0 } s)) ∧
    (gate ≤ 32 → 16 < hold → roomCheck b s = .error (takeTrap { cause := 2, pc := s.me.pc, detail := 1 } s)) ∧
    (gate ≤ 32 → hold ≤ 16 → roomCheck b s = .ok s)

/-- Every other check comes before the issue cycle (R51): where the meaning of a slot takes a trap on the landed state, that trap is the
bundle's, and no slot acts; of several slots the lowest one's comes first, which is the model's choice (log 21, DESIGN CHOICE); commands
are checked at their acceptance, and a slot 0 that commits has no check. -/
def SlotChecks : Prop :=
  ∀ (b : Bundle) (s : State),
    let faults := fun (i : Instr) => i.isCommand = false ∧ i.commits = false ∧
      ∃ t, runSlot i (s.landedView (hdrOf b)) = .next t ∧ t.me.cond = .parked
    (∀ l i m t, slotsOf b = l ++ i :: m → (∀ j ∈ l, ¬ faults j) → faults i → runSlot i (s.landedView (hdrOf b)) = .next t →
      faultCheck b s = .error t) ∧
    ((∀ i ∈ slotsOf b, ¬ faults i) → faultCheck b s = .ok s)

end Sys2Proof.Claims

/-- One issue cycle runs the slots of its bundle, the bundle of a lone header among them, and ends it: the PC and the loop stack
move on and a header's mark is taken (R51, R34, R142). Before it stand the waits and checks of R51 in their order: the drain point (R148,
R402), the header's flag wait (R21), the slots' own waits, the room of gate and array hold (R50, R144), and the slots' checks. The order
of the slots in the cycle, M, V, X, S, is the model's own. The model's readings: of several slots that fault the lowest one's trap is taken
(log 21, DESIGN CHOICE), the drain-hazard and gate-overflow traps name no slot (log 22, DEDUCED), and merge issue and a step-control call
stand where log 133 and log 137 put them (DESIGN CHOICE). -/
def Obligations.CycleRunsItsSlots : Prop :=
  CycleRunsSlots ∧ BundleEnds ∧ HeaderAlone ∧ WaitOrder ∧ DrainPoints ∧ HeaderWaits ∧ SlotWaits ∧ RoomChecks ∧ SlotChecks

/-! ### Results on their way (R49) -/

/-- What `land` leaves: a pending write that falls due after `lat` issue cycles joins the list, numbered in issue order; a write to
s0 or a0 is discarded; nothing else changes but the count of operations. -/
def Obligations.LandPutsOneWrite : Prop :=
  ∀ (s : State) (slot n lat : Nat) (f : RFile) (v : PVal),
    OnlyLands s (s.land slot f n v lat) ∧ (s.land slot f n v lat).me.opSeq = s.me.opSeq + 1 ∧
    ((f = .s ∨ f = .a) ∧ n % 32 = 0 → (s.land slot f n v lat).me.a.pend = s.me.a.pend) ∧
    (¬ ((f = .s ∨ f = .a) ∧ n % 32 = 0) → (s.land slot f n v lat).me.a.pend = s.me.a.pend ++ [{
      file := f, reg := n, val := v, left := lat, slot := slot, seq := s.me.opSeq, pc := s.me.pc }])

/-- A result with latency L is read from the L-th issue cycle after its issue on and not before (R49): the only pending write,
to register n of the s-file, of the a-file or of the predicates, leaves the register as it was in the cycles before, and holds
it from then on; s0 and a0 read 0, p0 reads true and p1 false, whatever was written. -/
def Obligations.LandsAfterLatency : Prop :=
  ∀ (x : Ctx) (p : Pend) (k : Nat) (y : Word) (b : Bool), x.a.pend = [p] → 1 ≤ p.left →
    (p.file = .s → p.val = .word y → p.reg % 32 ≠ 0 →
      (cycles k x).a.rS p.reg = if k < p.left then x.a.rS p.reg else y) ∧
    (p.file = .a → p.val = .word y → p.reg % 32 ≠ 0 →
      (cycles k x).a.rA p.reg = if k < p.left then x.a.rA p.reg else y) ∧
    (p.file = .p → p.val = .bit b → 2 ≤ p.reg % 16 →
      (cycles k x).a.rP p.reg = if k < p.left then x.a.rP p.reg else b) ∧
    (∀ n, (n % 32 = 0 → (cycles k x).a.rS n = 0 ∧ (cycles k x).a.rA n = 0) ∧
      (n % 16 = 0 → (cycles k x).a.rP n = true) ∧ (n % 16 = 1 → (cycles k x).a.rP n = false)) ∧
    (cycles k x).a.fflags = (if k < p.left then x.a.fflags else x.a.fflags ||| p.flags) ∧
    (cycles k x).coll = x.coll

/-- The slot that owns a register file, for the four files R49 names: S, M, V and X. -/
def Sys2Proof.Claims.ownerSlot : RFile → Option Nat
  | .s => some 0
  | .a => some 1
  | .v => some 2
  | .w => some 3
  | _ => none

/-- Of two writes to one register of any file due in one issue cycle, the one from the slot that owns the file wins, else the later
issued; the other is discarded whole, with its flags, and counted (R49). What the winner's write leaves in its register is read. -/
def Obligations.CollisionKeepsOne : Prop :=
  (∀ (x : Ctx) (p q : Pend), x.a.pend = [p, q] → p.file = q.file → p.reg = q.reg → p.left = 1 → q.left = 1 → p.seq < q.seq →
    p.slot < 4 → q.slot < 4 →
    let win := if ownerSlot p.file = some p.slot ∧ ownerSlot p.file ≠ some q.slot then p else q
    x.startCycle.coll = x.coll + 1 ∧
    x.startCycle.a = { x.a.put win.file win.reg win.val with pend := [], fflags := x.a.fflags ||| win.flags }) ∧
  ∀ (x : Arch) (n : Nat) (y : Word) (u e : Vec) (m : BitVec 128) (b : Bool) (l : List Word),
    (n % 32 ≠ 0 → (x.put .s n (.word y)).rS n = y ∧ (x.put .a n (.word y)).rA n = y) ∧
    (x.put .v n (.lanes u e)).rV n = (x.rV n &&& ~~~e) ||| (u &&& e) ∧
    (x.put .w n (.lanes u e)).rW n = (x.rW n &&& ~~~e) ||| (u &&& e) ∧
    (n % 8 ≠ 0 → (x.put .m n (.mask m)).rM n = m) ∧ (2 ≤ n % 16 → (x.put .p n (.bit b)).rP n = b) ∧
    vget (x.put .z n (.pairs l)).z n = l

/-- A landing vector write gives each lane its result, and leaves a lane that was not active as it was (R183): for a v-file or a
w-file register and every lane width. -/
def Obligations.LanesLand : Prop :=
  ∀ (x : Arch) (s : State) (k n : Nat) (r : List (Option (Nat × BitVec 7))) (i : Nat),
    k < 4 → r.length = laneCount (2 ^ (k + 3)) → i < r.length →
    ∀ (sl lat : Nat) (d : RFile × Nat), (d.1 = .v ∨ d.1 = .w) → d.2 = n →
      ∃ p, (s.landLanes sl d (2 ^ (k + 3)) r lat) = s.landP p ∧ p.left = lat ∧
        lane (2 ^ (k + 3)) ((x.put d.1 n p.val).rVec d) i =
          match r.getD i none with
          | some (y, _) => y % 2 ^ (2 ^ (k + 3))
          | none => lane (2 ^ (k + 3)) (x.rVec d) i

/-! ### Integer instructions -/

/-- The two-operand integer forms and `clz`, `popc` (R157): results modulo 2^64 with their latencies. -/
def Sys2Proof.Claims.IntegerForms : Prop :=
  RegForm .add 1 (fun x y => x + y) ∧ RegForm .sub 1 (fun x y => x - y) ∧ RegForm .mul 3 (fun x y => x * y) ∧
  RegForm .mulh 3 (fun x y => (x.signExtend 128 * y.signExtend 128).extractLsb' 64 64) ∧
  RegForm .mulhn 3 (fun x y => (x.setWidth 128 * y.setWidth 128).extractLsb' 64 64) ∧
  RegForm .and 1 (fun x y => x &&& y) ∧ RegForm .or 1 (fun x y => x ||| y) ∧ RegForm .xor 1 (fun x y => x ^^^ y) ∧
  RegForm .andn 1 (fun x y => x &&& ~~~y) ∧ RegForm .shl 1 (fun x y => x <<< (y.toNat % 64)) ∧
  RegForm .shr 1 (fun x y => x >>> (y.toNat % 64)) ∧ RegForm .sha 1 (fun x y => x.sshiftRight (y.toNat % 64)) ∧
  RegForm .min 1 (fun x y => if y.slt x then y else x) ∧ RegForm .max 1 (fun x y => if x.slt y then y else x) ∧
  RegForm .minn 1 (fun x y => if y.ult x then y else x) ∧ RegForm .maxn 1 (fun x y => if x.ult y then y else x) ∧
  OneForm .clz (fun x => BitVec.ofNat 64 (leading x)) ∧ OneForm .popc (fun x => BitVec.ofNat 64 (ones x))

/-- Division never traps (R158): a zero divisor gives −1 (unsigned 2^64 − 1) and the dividend; −2^63 by −1 gives −2^63 and 0;
else the quotient is truncated toward zero and the remainder takes the dividend's sign. -/
def Obligations.IntegerDivision : Prop :=
  RegForm .div 20 (fun x y => if y = 0 then BitVec.allOnes 64 else x.sdiv y) ∧
  RegForm .rem 20 (fun x y => if y = 0 then x else x.srem y) ∧
  RegForm .divn 20 (fun x y => if y = 0 then BitVec.allOnes 64 else x / y) ∧
  RegForm .remn 20 (fun x y => if y = 0 then x else x % y)

/-- The immediate forms (R159): the 9-bit field sign-extended, or for `minni` and `maxni` zero-extended, or taken modulo 64 by
a shift. -/
def Sys2Proof.Claims.IntegerImmediates : Prop :=
  ImmForm .addi 1 s9 (fun x y => x + y) ∧ ImmForm .muli 3 s9 (fun x y => x * y) ∧
  ImmForm .andi 1 s9 (fun x y => x &&& y) ∧ ImmForm .ori 1 s9 (fun x y => x ||| y) ∧
  ImmForm .xori 1 s9 (fun x y => x ^^^ y) ∧ ImmForm .andni 1 s9 (fun x y => x &&& ~~~y) ∧
  ImmForm .shli 1 (fun i => BitVec.ofNat 64 i) (fun x y => x <<< (y.toNat % 64)) ∧
  ImmForm .shri 1 (fun i => BitVec.ofNat 64 i) (fun x y => x >>> (y.toNat % 64)) ∧
  ImmForm .shai 1 (fun i => BitVec.ofNat 64 i) (fun x y => x.sshiftRight (y.toNat % 64)) ∧
  ImmForm .mini 1 s9 (fun x y => if y.slt x then y else x) ∧ ImmForm .maxi 1 s9 (fun x y => if x.slt y then y else x) ∧
  ImmForm .minni 1 (fun i => BitVec.ofNat 64 i) (fun x y => if y.ult x then y else x) ∧
  ImmForm .maxni 1 (fun i => BitVec.ofNat 64 i) (fun x y => if x.ult y then y else x)

/-- The compares (R161): the condition into p, its complement into p + 1, one issue cycle on. -/
def Sys2Proof.Claims.Compares : Prop :=
  CmpForm .ceq (fun x y => x == y) ∧ CmpForm .cne (fun x y => x != y) ∧ CmpForm .clt BitVec.slt ∧
  CmpForm .cle BitVec.sle ∧ CmpForm .cltn BitVec.ult ∧ CmpForm .clen BitVec.ule ∧
  CmpImm .ceqi s12 (fun x y => x == y) ∧ CmpImm .cnei s12 (fun x y => x != y) ∧ CmpImm .clti s12 BitVec.slt ∧
  CmpImm .clei s12 BitVec.sle ∧ CmpImm .cltni (fun i => BitVec.ofNat 64 i) BitVec.ult ∧
  CmpImm .cleni (fun i => BitVec.ofNat 64 i) BitVec.ule

/-- Constants, select and predicate logic (R160, R162, R163): `lih` places a halfword with zeros around it, `lih.k` keeps the
other bits of the value landed by its issue cycle (log 147, DEDUCED). -/
def Sys2Proof.Claims.ConstantsAndPredicates : Prop :=
  ∀ (g d a b p x h i v : Nat) (s : State), On s g → h < 4 → i < 65536 →
    exec (.lih g d h i) s = .next (s.landS 0 d (BitVec.ofNat 64 i <<< (16 * h)) 1) ∧
    exec (.lihK g d h i) s = .next (s.landS 0 d
      ((s.me.a.rS d &&& ~~~(0xFFFF#64 <<< (16 * h))) ||| (BitVec.ofNat 64 i <<< (16 * h))) 1) ∧
    exec (.sel g d a b p x) s =
      .next (s.landS 0 (s.me.a.bS x d) (if s.me.a.rP p then s.sReg x a else s.sReg x b) 1) ∧
    exec (.pand g d a b) s = .next (s.landBit 0 d (s.me.a.rP a && s.me.a.rP b) 1) ∧
    exec (.por g d a b) s = .next (s.landBit 0 d (s.me.a.rP a || s.me.a.rP b) 1) ∧
    exec (.pxor g d a b) s = .next (s.landBit 0 d (s.me.a.rP a ^^ s.me.a.rP b) 1) ∧
    exec (.pset g d v) s = .next (s.landBit 0 d (v == 1) 1)

/-- The integer instructions of slot S (R157, R159 to R163). -/
def Obligations.IntegerSlot : Prop :=
  IntegerForms ∧ IntegerImmediates ∧ Compares ∧ ConstantsAndPredicates

/-! ### Control -/

/-- The branches (R164, R33, R48): a relative target counts bundles from the branch's own PC, a register's target ignores bits
3:0, `call` and `bra` leave the address of the next bundle, and a taken branch is followed by two bubbles. -/
def Sys2Proof.Claims.Branches : Prop :=
  ∀ (g d a x o : Nat) (s : State), On s g →
    exec (.br g o) s = .next (s.updMe fun y => { y with nextPc := some (pcPlus s.me.pc 22 o), bubbles := 2 }) ∧
    exec (.call g d o) s = .next ((s.landS 0 d (BitVec.ofNat 64 (s.me.pc + 16)) 1).updMe fun y =>
      { y with nextPc := some (pcPlus s.me.pc 17 o), bubbles := 2 }) ∧
    exec (.bra g d a x) s = .next ((s.landS 0 (s.me.a.bS x d) (BitVec.ofNat 64 (s.me.pc + 16)) 1).updMe fun y =>
      { y with nextPc := some ((s.sReg x a).setWidth 32 &&& ~~~15#32).toNat, bubbles := 2 }) ∧
    exec (.ret g a x) s = .next (s.updMe fun y =>
      { y with nextPc := some ((s.sReg x a).setWidth 32 &&& ~~~15#32).toNat, bubbles := 2 })

/-- Where control goes after a bundle (R33, R51, R167): to a taken target, else past the bundle, or where the innermost loop ends at it along
the back edge of `LoopRunsItsCount`, which leaves the loop stack too; always to a multiple of 16 in 32 bits. -/
def Sys2Proof.Claims.NextPc : Prop :=
  ∀ x : Ctx,
    (∀ t, x.nextPc = some t → t % 16 = 0 → t < 2 ^ 32 → x.advance = (t, x)) ∧
    (x.nextPc = none → (∀ l r, x.a.loops = l :: r → l.last ≠ x.pc) → x.pc % 16 = 0 → x.pc + 16 < 2 ^ 32 →
      x.advance = (x.pc + 16, x)) ∧
    (x.nextPc = none → ∀ l r, x.a.loops = l :: r → l.last = x.pc → let b := backEdge x.pc x.a.loops
      b.1 % 16 = 0 → b.1 < 2 ^ 32 → x.advance = (b.1, { x with a := { x.a with loops := b.2 } })) ∧
    x.advance.1 % 16 = 0 ∧ x.advance.1 < 2 ^ 32

/-- Branches and where control goes after a bundle (R33, R48, R164, R167). That the PC `advance` gives is cut to 32 bits with bits 3:0
zero, whatever its source, is the model's reading (log 17, DEDUCED). -/
def Obligations.ControlFlow : Prop :=
  Branches ∧ NextPc

namespace Sys2Proof.Claims

/-- The back edge at a bundle taken `n` times, the loop stack carried along: where it goes the last time. -/
def backTimes (pc : Nat) : Nat → Nat × List LoopLevel → Nat × List LoopLevel
  | 0, x => x
  | n + 1, x => backTimes pc n (backEdge pc x.2)

end Sys2Proof.Claims

/-- A hardware loop of n iterations (R167): at its last bundle the back edge returns to the first bundle n − 1 times, the index
counting up and the count down, and the n-th time the level is popped and control goes on past the loop. Of nested loops that share
a last bundle, one issue of it retires every inner level whose count runs out, and goes back for the first level that has
iterations left, or on past all of them. -/
def Obligations.LoopRunsItsCount : Prop :=
  (∀ (pc n start i : Nat) (r : List LoopLevel), 1 ≤ n → (∀ l q, r = l :: q → l.last ≠ pc) →
    (∀ k, 1 ≤ k → k < n → backTimes pc k (0, { count := n, index := i, start := start, last := pc } :: r) =
      (start, { count := n - k, index := i + k, start := start, last := pc } :: r)) ∧
    backTimes pc n (0, { count := n, index := i, start := start, last := pc } :: r) = (pc + 16, r)) ∧
  ∀ (pc : Nat) (inner r : List LoopLevel), (∀ l ∈ inner, l.last = pc ∧ l.count ≤ 1) →
    (∀ l q, r = l :: q → l.last = pc → 1 < l.count →
      backEdge pc (inner ++ r) = (l.start, { l with count := l.count - 1, index := l.index + 1 } :: q)) ∧
    ((∀ l q, r = l :: q → l.last ≠ pc) → backEdge pc (inner ++ r) = (pc + 16, r))

/-- `lp.beg`, `lp.idx` and `lp.brk` (R166, R168, R169): a count of zero skips the body; else a level is pushed, of which six fit;
the loop traps name what is wrong. -/
def Obligations.LoopInstructions : Prop :=
  ∀ (g l a c d k : Nat) (s : State), On s g →
    let n := min (s.me.a.rS a).toNat (2 ^ 32 - 1)
    let push := fun (n : Nat) => s.updArch fun y => { y with loops := {
      count := n, index := 0, start := (s.me.pc + 16) % 2 ^ 32, last := (s.me.pc + 16 * (l + 1)) % 2 ^ 32 } :: y.loops }
    (s.me.a.loops.length < 6 → 0 < n → exec (.lpBegReg g l a) s = .next (push n)) ∧
    (s.me.a.loops.length < 6 → n = 0 →
      exec (.lpBegReg g l a) s = .next (s.updMe fun y => { y with nextPc := some (s.me.pc + 16 * (l + 2)), bubbles := 2 })) ∧
    (s.me.a.loops.length < 6 → 0 < c → exec (.lpBegImm g l c) s = .next (push c)) ∧
    (s.me.a.loops.length < 6 →
      exec (.lpBegImm g l 0) s = .next (s.updMe fun y => { y with nextPc := some (s.me.pc + 16 * (l + 2)), bubbles := 2 })) ∧
    (6 ≤ s.me.a.loops.length →
      exec (.lpBegImm g l c) s = .next (takeTrap { cause := 0x0F, slot := some 0, pc := s.me.pc, detail := 1 } s) ∧
      exec (.lpBegReg g l a) s = .next (takeTrap { cause := 0x0F, slot := some 0, pc := s.me.pc, detail := 1 } s)) ∧
    (∀ v, s.me.a.loops[k]? = some v → exec (.lpIdx g d k) s = .next (s.landS 0 d (BitVec.ofNat 64 v.index) 1)) ∧
    (s.me.a.loops ≠ [] → s.me.a.loops.length ≤ k →
      exec (.lpIdx g d k) s = .next (takeTrap { cause := 0x0F, slot := some 0, pc := s.me.pc, detail := 3 } s)) ∧
    (s.me.a.loops = [] →
      exec (.lpIdx g d k) s = .next (takeTrap { cause := 0x0F, slot := some 0, pc := s.me.pc, detail := 2 } s) ∧
      exec (.lpBrk g) s = .next (takeTrap { cause := 0x0F, slot := some 0, pc := s.me.pc, detail := 2 } s)) ∧
    ∀ v r, s.me.a.loops = v :: r → exec (.lpBrk g) s = .next ((s.updArch fun y => { y with loops := r }).updMe fun y =>
      { y with nextPc := some (v.last + 16), bubbles := 2 })

/-- Cross-copies and bases (R170, R171): from any of the four files, never from the spout latch; a base is a number modulo the
size of its file. -/
def Sys2Proof.Claims.CrossCopies : Prop :=
  ∀ (g f d a l x k : Nat) (s : State), On s g →
    exec (.xcp g 0 d 0 a l x) s = .next (s.landS 0 (s.me.a.bS x d) (s.me.a.rS (s.me.a.bS x a)) 2) ∧
    exec (.xcp g 0 d 1 a l x) s = .next (s.landS 0 (s.me.a.bS x d) (s.me.a.rA (s.me.a.bA x a)) 2) ∧
    exec (.xcp g 1 d 0 a l x) s = .next (s.landA 0 (s.me.a.bA x d) (s.me.a.rS (s.me.a.bS x a)) 2) ∧
    exec (.xcp g 1 d 1 a l x) s = .next (s.landA 0 (s.me.a.bA x d) (s.me.a.rA (s.me.a.bA x a)) 2) ∧
    (l < 32 → exec (.xcp g 0 d 2 a l x) s =
        .next (s.landS 0 (s.me.a.bS x d) ((s.me.a.rV (s.me.a.bV x a)).extractLsb' (64 * l) 64) 2) ∧
      exec (.xcp g 0 d 3 a l x) s =
        .next (s.landS 0 (s.me.a.bS x d) ((s.me.a.rW (s.me.a.bW x a)).extractLsb' (64 * l) 64) 2) ∧
      exec (.xcp g 1 d 2 a l x) s =
        .next (s.landA 0 (s.me.a.bA x d) ((s.me.a.rV (s.me.a.bV x a)).extractLsb' (64 * l) 64) 2) ∧
      exec (.xcp g 1 d 3 a l x) s =
        .next (s.landA 0 (s.me.a.bA x d) ((s.me.a.rW (s.me.a.bW x a)).extractLsb' (64 * l) 64) 2)) ∧
    (f < 4 → exec (.xbase g f 0 0 k) s = .next (s.land 0 .xb f (.base (k % (if f = 3 then 16 else 32))) 2) ∧
      exec (.xbase g f 1 0 k) s =
        .next (s.land 0 .xb f (.base ((s.me.a.rS k).toNat % (if f = 3 then 16 else 32))) 2) ∧
      exec (.xbase g f 0 1 k) s =
        .next (s.land 0 .xb f (.base ((s.me.a.base f + k) % (if f = 3 then 16 else 32))) 2) ∧
      exec (.xbase g f 1 1 k) s =
        .next (s.land 0 .xb f (.base ((s.me.a.base f + (s.me.a.rS k).toNat) % (if f = 3 then 16 else 32))) 2))

/-- `getm` and `setm` (R172, R60): `setm` writes the fields its mask names, bit by bit; a reserved rounding mode is not written,
and every other bit of the NMR stays. -/
def Sys2Proof.Claims.ModeRegister : Prop :=
  ∀ (g d a m : Nat) (s : State), On s g →
    exec (.getm g d) s = .next (s.landS 0 d s.me.a.nmr 1) ∧
    ∃ n : Word, exec (.setm g a m) s = .next (s.updArch fun y => { y with nmr := n }) ∧
      ∀ k, k < 64 → n.getLsbD k =
        let v := s.me.a.rS a
        let rm := (v.extractLsb' 0 3).toNat
        if k < 3 then (if m.testBit 0 && 1 ≤ rm && rm ≤ 5 then v.getLsbD k else s.me.a.nmr.getLsbD k)
        else if k < 5 then (if m.testBit 1 then v.getLsbD k else s.me.a.nmr.getLsbD k)
        else if k < 7 then (if m.testBit 2 then v.getLsbD k else s.me.a.nmr.getLsbD k)
        else if k < 8 then (if m.testBit 3 then v.getLsbD k else s.me.a.nmr.getLsbD k)
        else if k < 13 then (if m.testBit 4 then v.getLsbD k else s.me.a.nmr.getLsbD k)
        else s.me.a.nmr.getLsbD k

/-- `fl.get` and `fl.clr` (R173, R174, R357): the eight status items, of which the timing items read 0 in a DET task; a flag that
lands in the same issue cycle as its clear ends set. -/
def Sys2Proof.Claims.StatusItems : Prop :=
  ∀ (g d k m : Nat) (s : State), On s g →
    (k < 8 → exec (.flGet g d k) s = .next (s.landS 0 d (BitVec.ofNat 64 (
      if k = 0 then s.me.a.fflags.toNat
      else if k = 1 then s.me.ovf.toNat
      else if k = 2 then (if s.isDet s.cur then 0 else s.me.stall.toNat)
      else if k = 3 then (if s.isDet s.cur then 0 else s.me.coll.toNat)
      else if k = 4 then (if s.isDet s.cur then 0 else s.cur % 512) + 2 ^ 16 * (s.me.gi / 2 % 8)
      else if k = 5 then s.me.step
      else if k = 6 then (if s.isDet s.cur then 0 else s.me.wdog.toNat)
      else s.me.a.loops.length)) 1)) ∧
    exec (.flClr g 0 m) s = .next (s.updMe fun y => { y with a := { y.a with
      fflags := (y.a.fflags &&& ~~~BitVec.ofNat 7 m) ||| (y.a.fflags &&& y.landed) } }) ∧
    exec (.flClr g 1 m) s = .next (s.updMe fun y => { y with ovf := 0 }) ∧
    exec (.flClr g 2 m) s = .next (s.updMe fun y => { y with stall := 0 }) ∧
    exec (.flClr g 3 m) s = .next (s.updMe fun y => { y with coll := 0 })

/-- Cross-copies, index bases, the mode register and the status items (R170 to R174). -/
def Obligations.CopiesModesAndStatus : Prop :=
  CrossCopies ∧ ModeRegister ∧ StatusItems

/-! ### Taking an exception and returning from it -/

/-- A trap of kind R or A (R145, R151, R152, R155): the context rolls back to its last mark, its image goes into its save area with
reason 1, the cause and its registers, one record naming the context goes to the fault buffer, the context is parked, its step lists
it, and no byte of memory outside the save area and the image changes. -/
def Sys2Proof.Claims.TrapRollsBackAndParks : Prop :=
  ∀ (t : Trap) (s : State),
    let u := takeTrap t s
    u.me.cond = .parked ∧ u.me.pc = s.me.restart ∧ u.me.a = (s.me.rollback t.sup).a ∧ u.me.gate = [] ∧ u.me.hold = [] ∧
    u.records = s.records ++ [{ engine := 385 + s.cur, bytes := u.me.trapRecord s.cur t, c := some s.cur }] ∧
    (∀ k, s.stepOf s.cur = some k → ∃ j, u.stepOf s.cur = some j ∧ j.parkedBy = k.parkedBy ++ [s.cur]) ∧
    (∀ area, s.areaOf s.cur = some area → Memory.wf s.mem = true →
      u.readNat (area + 4) 1 = 1 ∧ u.readNat area 4 = s.me.restart % 2 ^ 32 ∧ u.readNat (area + 5) 1 = t.cause % 256 ∧
      u.readNat (area + 8) 8 = u.me.a.nmr.toNat ∧ u.readNat (area + 16) 8 = u.me.a.fflags.toNat ∧
      (∀ n, n < 32 → u.readNat (area + 0x300 + 8 * n) 8 = (u.me.a.rS n).toNat ∧
        u.readNat (area + 0x400 + 8 * n) 8 = (u.me.a.rA n).toNat ∧
        u.readNat (area + 0x2000 + 256 * n) 256 = (u.me.a.rV n).toNat ∧
        u.readNat (area + 0xA0 + 2 * n) 2 = (vget u.me.flags n).toNat) ∧
      (∀ n, n < 16 → u.readNat (area + 0x4000 + 256 * n) 256 = (u.me.a.rW n).toNat ∧
        (u.readNat (area + 24) 2).testBit n = u.me.a.rP n) ∧
      (∀ n, n < 8 → u.readNat (area + 0x500 + 16 * n) 16 = (u.me.a.rM n).toNat) ∧
      ∀ a, ¬ (area ≤ a ∧ a < area + Config.saveArea) →
        (∀ c ∈ fieldCells area (u.me.imageFields 1 t.cause []), c.1 ≠ a) → memRead u.mem a = memRead s.mem a)

/-- The bytes of a trap record (R152): 32 of them, kind 1, the cause, where (slot, slot valid, lane valid, deferred, the rest zero),
the lane, the context, the exceptions, the PCs, step, task and detail, each in its place. A lane above 255, the position of a pair, is
there modulo 256, which is the model's choice (log 128, DESIGN CHOICE). -/
def Sys2Proof.Claims.TrapRecordLayout : Prop :=
  ∀ (x : Ctx) (c : Nat) (t : Trap),
    (x.trapRecord c t).length = 32 ∧
    let at' := fun (o n : Nat) => natOfBytes (((x.trapRecord c t).drop o).take n)
    at' 0 1 = 1 ∧ at' 1 1 = t.cause % 256 ∧ at' 3 1 = (t.lane.getD 0) % 256 ∧ at' 4 2 = c % 65536 ∧
    at' 6 2 = t.exc % 32 ∧ at' 8 4 = t.pc % 2 ^ 32 ∧ at' 12 4 = x.restart % 2 ^ 32 ∧ at' 16 4 = x.step % 2 ^ 32 ∧
    at' 20 4 = x.task % 2 ^ 32 ∧ at' 24 8 = t.detail % 2 ^ 64 ∧
    at' 2 1 = (match t.slot with
      | some k => k % 4 + 4
      | none => 0) + (if t.lane.isSome then 8 else 0) + (if t.deferred then 16 else 0)

/-- Taking a trap of kind R or A, and its record (R145, R151, R152). That the record's lane byte holds the lane modulo 256 is the model's
choice (log 128, DESIGN CHOICE). -/
def Obligations.TakingATrap : Prop :=
  TrapRollsBackAndParks ∧ TrapRecordLayout

/-- A trap of kind C (R142, R151, R154, R155): what a mark with the next PC leaves, and in it the context parked at that PC with its
watchdog at 0, its image with reason 1 and the cause in its save area, one record in the buffer, its step listing it; what the mark
has put on its way stays there, and no other context changes. -/
def Sys2Proof.Claims.CommitTrapParks : Prop :=
  ∀ (t : Trap) (n : Nat) (s : State), 0x0B ≤ t.cause → t.cause ≤ 0x0D →
    let m := s.mark s.cur n
    let u := takeCommitTrap t n s
    u.me = { m.me with
      cond := .parked, pc := n, fetched := none, inIssue := false, nextPc := none, eoc := [], conflict := none, strWait := none
      wdog := 0 } ∧
    (∀ c, c % 384 ≠ s.cur % 384 → u.ctx c = m.ctx c) ∧ u.tiles = s.tiles ∧ u.posts = m.posts ∧ u.stageQ = m.stageQ ∧
    u.records = s.records ++ [{ engine := 385 + s.cur, bytes := u.me.trapRecord s.cur t, c := some s.cur }] ∧
    (∀ k, s.stepOf s.cur = some k → u.stepOf s.cur = some { k with parkedBy := k.parkedBy ++ [s.cur] }) ∧
    (s.areaOf s.cur = none → u.mem = s.mem ∧ u.ciss = s.ciss) ∧
    ∀ area, s.areaOf s.cur = some area → let w := s.putImage area (u.me.imageFields 1 t.cause [])
      u.mem = w.mem ∧ u.ciss = w.ciss

/-- `trap`, `sysc` and `brk` (R177): they complete in every state: the end-of-cycle effects of the bundle and its next PC are settled,
and at that PC the trap of kind C is taken, with cause 0x0B, 0x0C or 0x0D and the code as detail; with any code of a step-control
call, `sysc` does so in every task but the service task. -/
def Sys2Proof.Claims.CommitTraps : Prop :=
  ∀ (g c : Nat) (s : State), On s g →
    let next := s.me.endSlots.advance
    let parks := fun (i : Instr) (cause code : Nat) => exec i s = .next
      (takeCommitTrap { cause := cause, slot := some 0, pc := s.me.pc, detail := code } next.1 (s.setCtx s.cur next.2))
    parks (.trap g c) 0x0B c ∧ parks (.sysc g c) 0x0C c ∧ parks (.brk g c) 0x0D c ∧
    (s.isSvc s.cur = false →
      parks (.syscResume g) 0x0C 0xFF00 ∧ parks (.syscKillStep g) 0x0C 0xFF01 ∧ parks (.syscLocate g) 0x0C 0xFF02)

/-- The step-control calls of the service task (R179, R153, R403): a call commits as at a mark, waits until every siphon command of the
context is performed, and its answer lands in s1; the engine reads its tables and the images free of single-bit errors (R391); asked,
`resume` answers 1 for a step that is not there, 2 for one that is not parked, else reloads each of its parked contexts from its save
area and lets its held ones run; `kill` answers 1 for no such step, else kills it, its counter 0xFFFE, and answers 0 once it is dead;
`locate` answers 0 or the address of the save area in the pool's window. How wide the arguments are read is the model's choice (log 104,
DESIGN CHOICE). -/
def Obligations.StepControl : Prop :=
  ∀ (g : Nat) (s : State), On s g → s.isSvc s.cur = true →
    let task := (s.me.a.rS 2).toNat % 2 ^ 32
    let step := (s.me.a.rS 3).toNat % 2 ^ 32
    (∀ a, s.me.reqAns = some a →
      exec (.syscResume g) s = .next (s.landS 0 1 (BitVec.ofNat 64 a) 1) ∧
      exec (.syscKillStep g) s = .next (s.landS 0 1 (BitVec.ofNat 64 a) 1) ∧
      exec (.syscLocate g) s = .next (s.landS 0 1 (BitVec.ofNat 64 a) 1)) ∧
    let answers := fun (a : Nat) (t : State) => (t.updMe fun x => { x with reqAns := some a }).stallNow
    let calls := fun (t : State) => exec (.syscResume g) s = .next t.stallNow ∧ exec (.syscKillStep g) s = .next t.stallNow ∧
      exec (.syscLocate g) s = .next t.stallNow
    (s.me.reqAns = none → s.me.reqStage = .none →
      calls ((s.mark s.cur s.me.pc).updMe fun x => { x with reqStage := .released })) ∧
    (s.me.reqAns = none → s.me.reqStage = .released → ((∃ r ∈ s.me.records, r.moved = false) → calls s) ∧
      ((∀ r ∈ s.me.records, r.moved = true) → calls (s.correctTables.updMe fun x => { x with reqStage := .asked }))) ∧
    (∀ k, let u := s.correctImages k
      { u with softMem := s.softMem, ciss := s.ciss, mgmt := s.mgmt } = s ∧ (s.softMem = [] → s.badMem = [] → u = s) ∧
      ∀ e ∈ k.ctxs, ∀ a ∈ k.areas, a.1 = e.1 → (s.ctx e.2).cond = .parked →
        ∀ g ∈ u.softMem, ¬ (g < a.2 + Config.saveArea ∧ a.2 < g + if zoneOf g = .well then 8 else 64)) ∧
    (s.me.reqAns = none → s.me.reqStage = .merging → (s.findStep task step).all s.stepDead = true →
      exec (.syscKillStep g) s = .next (answers 0 s)) ∧
    (s.me.reqAns = none → s.me.reqStage = .asked →
      (s.findStep task step = none →
        exec (.syscResume g) s = .next (answers 1 s) ∧ exec (.syscKillStep g) s = .next (answers 1 s) ∧
        exec (.syscLocate g) s = .next (answers 0 s)) ∧
      (∀ k, s.findStep task step = some k →
        (k.parkedBy = [] → exec (.syscResume g) s = .next (answers 2 s)) ∧
        (k.parkedBy ≠ [] → s.brokenImage k = true →
          exec (.syscResume g) s = .next (answers 3 ((s.correctImages k).engineKill task step 1))) ∧
        (k.parkedBy ≠ [] → s.brokenImage k = false → ∃ t, exec (.syscResume g) s = .next (answers 0 t) ∧
          (∀ j, t.findStep task step = some j → j.parkedBy = []) ∧ t.mem = s.mem ∧
          ∀ c, (k.ctxs.find? (fun e => e.2 % 384 == c % 384) = none → t.ctx c = s.ctx c) ∧
            ∀ e, k.ctxs.find? (fun e => e.2 % 384 == c % 384) = some e →
              (∀ a, (s.ctx c).cond = .parked → k.areas.find? (fun a => a.1 == e.1) = some a →
                t.ctx c = s.reload a.2 (s.ctx c)) ∧
              ((s.ctx c).cond = .held → t.ctx c = { s.ctx c with cond := .running }) ∧
              ((s.ctx c).cond ≠ .parked → (s.ctx c).cond ≠ .held → t.ctx c = s.ctx c)) ∧
        (s.stepDead k = true → exec (.syscKillStep g) s = .next (answers 0 s)) ∧
        (s.stepDead k = false → ∃ t, exec (.syscKillStep g) s = .next t ∧ t.me.reqAns = none ∧ t.mem = s.mem ∧
          (∀ b ∈ t.board, b.task = task → b.step = step → b.v = 0xFFFE) ∧
          ∀ j, t.findStep task step = some j → j.killed = true) ∧
        (k.areas.find? (fun a => a.1 == (s.me.a.rS 4).toNat) = none → exec (.syscLocate g) s = .next (answers 0 s)) ∧
        (∀ a, k.areas.find? (fun a => a.1 == (s.me.a.rS 4).toNat) = some a →
          exec (.syscLocate g) s =
            .next (answers ((s.mgmt.saveVa + (ownPa s a.2 - s.mgmt.savePool)) % 2 ^ 64) s))))

/-- Return from a trap (R153, R155): a parked context of a resumed step continues at the PC of its image, whose low four bits are
dropped (log 17, DEDUCED), with every register, loop level, queue binding, stream register, spill byte and count of the image, and the
flags as the image holds them (log 92, DEDUCED); a handle attached in the image keeps what the matrix engine has made of its PTR,
HELD and ARR since (R215); NMR.NBV, the pending writes and the ordering counters stay. -/
def Obligations.ResumeRestores : Prop :=
  ∀ (s : State) (area : Nat) (x : Ctx),
    let y := s.reload area x
    let rd := fun (o n : Nat) => s.readNat (area + o) n
    y.cond = .running ∧ y.pc = s.readNat area 4 / 16 * 16 ∧ y.restart = y.pc ∧ y.sh = y.a ∧ y.parity = none ∧
    (∀ n, 0 < n → n < 32 → y.a.rS n = BitVec.ofNat 64 (rd (0x300 + 8 * n) 8)) ∧
    (∀ n, 0 < n → n < 32 → y.a.rA n = BitVec.ofNat 64 (rd (0x400 + 8 * n) 8)) ∧
    (∀ n, n < 32 → y.a.rV n = BitVec.ofNat 2048 (rd (0x2000 + 256 * n) 256)) ∧
    (∀ n, n < 16 → y.a.rW n = BitVec.ofNat 2048 (rd (0x4000 + 256 * n) 256)) ∧
    (∀ n, 0 < n → n < 8 → y.a.rM n = BitVec.ofNat 128 (rd (0x500 + 16 * n) 16)) ∧
    (∀ n, 2 ≤ n → n < 16 → y.a.rP n = (rd 24 2).testBit n) ∧
    y.a.xbS = rd 28 4 % 32 ∧ y.a.xbA = rd 28 4 / 2 ^ 5 % 32 ∧ y.a.xbV = rd 28 4 / 2 ^ 10 % 32 ∧ y.a.xbW = rd 28 4 / 2 ^ 15 % 16 ∧
    (∀ k, k < 64 → y.a.nmr.getLsbD k = if 24 ≤ k ∧ k < 32 then x.a.nmr.getLsbD k else (rd 8 8).testBit k) ∧
    y.a.loops.length = rd 6 1 ∧
    (∀ k, k < rd 6 1 → y.a.loops[rd 6 1 - 1 - k]? = some {
      count := rd (0x40 + 16 * k) 4, index := rd (0x44 + 16 * k) 4, start := rd (0x48 + 16 * k) 4, last := rd (0x4C + 16 * k) 4 }) ∧
    (∀ n, n < 16 → let h := QBind.unpack (rd (0xE0 + 32 * n) 32)
      let e := vget x.a.qs n
      vget y.a.qs n = if h.arr then { h with arr := e.arr, ptr := e.ptr, held := e.held } else h) ∧
    (∀ n, n < 4 → vget y.a.z n = (List.range (rd 48 8 / 2 ^ (16 * n) % 2 ^ 16)).map fun k =>
      BitVec.ofNat 64 (rd (0x5000 + 0x8000 * n + 8 * k) 8)) ∧
    (∀ o, o < 4096 → memRead y.spill o = memRead s.mem (area + 0x1000 + o)) ∧
    (∀ n, n < 32 → vget y.flags n = BitVec.ofNat 16 (rd (0xA0 + 2 * n) 2)) ∧
    y.a.fflags = BitVec.ofNat 7 (rd 16 8) ∧ y.ovf = BitVec.ofNat 32 (rd 32 4) ∧ y.coll = BitVec.ofNat 32 (rd 36 4) ∧
    y.stall = BitVec.ofNat 32 (rd 40 4) ∧ y.wdog = BitVec.ofNat 29 (rd 44 4 % 2 ^ 28) ∧ y.a.pend = x.a.pend ∧
    y.cSph = x.cSph ∧ y.cByte = x.cByte ∧ y.cPump = x.cPump ∧ y.cDrn = x.cDrn ∧ y.cAtom = x.cAtom

/-- `exit` (R178, R285, R95): with no bag open it completes: the end-of-cycle effects of the bundle are settled and committed as by a
mark (`m`), and in what that leaves the context has exited with its pending writes, its ranges and its bag gone; its step counts it
and takes its FFLAGS in; the last context of the step sends the step's exit on its way to the board, behind the operations of all
its contexts; memory is as before. With a bag open `exit` takes the matrix trap with detail 3. -/
def Sys2Proof.Claims.ExitLeaves : Prop :=
  ∀ (g : Nat) (s : State), On s g →
    let m := (s.setCtx s.cur s.me.endSlots).mark s.cur s.me.pc
    (s.me.bagAtIssue = none → ∃ t, exec (.exit g) s = .next t ∧
      t.me = { m.me with a := { m.me.a with pend := [], ranges := [], bag := none }, cond := .exited, inIssue := false } ∧
      (∀ c, c % 384 ≠ s.cur % 384 → t.ctx c = m.ctx c) ∧ t.mem = s.mem ∧ t.posts = m.posts ∧ t.records = s.records ∧
      (s.stepOf s.cur = none → t.stageQ = m.stageQ) ∧
      ∀ k, s.stepOf s.cur = some k → let all := ∀ d ∈ k.nums, d ∈ k.exited ++ [s.cur]
        (¬ all → t.stageQ = m.stageQ) ∧
        (all → t.stageQ = m.stageQ ++ [{
          gi := t.me.gi, seq := t.me.opSeq, task := t.me.task, step := t.me.step, kind := .exit, n := 0
          waits := k.nums.map fun d => (d, (t.ctx d).opSeq)
          fences := k.nums.flatMap fun d => ((t.ctx d).a.fencesFor 4).map fun f => (d, f) }]) ∧
        ∃ j, t.stepOf s.cur = some j ∧ j.exited = k.exited ++ [s.cur] ∧ j.fflags = k.fflags ||| t.me.a.fflags ∧
          (all → j.exiting = true) ∧ (¬ all → j.exiting = k.exiting)) ∧
    (s.me.bagAtIssue ≠ none →
      exec (.exit g) s = .next (takeTrap { cause := 0x10, slot := some 0, pc := s.me.pc, detail := 3 } s))

/-- The instructions that commit and stop: trap, sysc, brk and exit (R142, R177, R178, R285). Of `exit` the context, the other contexts,
memory, posts, records, the stage effects and the step are given; what the mark puts on its way is the matter of `MarkCommits`. -/
def Obligations.CommitTrapsAndExit : Prop :=
  CommitTrapParks ∧ CommitTraps ∧ ExitLeaves

namespace Sys2Proof.Claims

/-- The counts posted to flag f of context c. -/
def postedCounts (l : List PostEff) (c f : Nat) : Nat := ((l.filter fun p => p.c == c && p.f == f).map PostEff.n).sum

/-- A gated post as it is released by context c, whose count of operations is n (R50, R83, R216). -/
def releasedPost (c n : Nat) : GateEff → Option PostEff
  | .post d f k scope seq fences =>
    some { src := some (c, if scope = 0 then 0 else seq, fences), c := d, f := f, n := k, seq := some seq, since := 2 * n }
  | _ => none

/-- A gated stage effect as it is released: it waits for the context's operations before it, and for those of the step's other
contexts before their last marks (R93). -/
def releasedStage (s : State) : GateEff → Option StageEff
  | .stage isSet n seq fences => some {
      gi := s.me.gi, seq := seq, task := s.me.task, step := s.me.step, kind := if isSet then .set else .adv, n := n
      waits := match s.stepOf s.cur with
        | none => [(s.cur, seq)]
        | some k => k.nums.map fun d => (d, if d = s.cur then seq else (s.ctx d).markSeq)
      fences := fences.map fun f => (s.cur, f) }
  | _ => none

/-- A held siphon command whose gate entry is released: committed, the bytes of its skipped entries off its share of `c.byte`. -/
def releasedCmd (gate : List GateEff) (r : SphCmd) : SphCmd :=
  if .sph r.idx ∈ gate then { r with st := .committed, left := r.left - r.atCommit } else r

end Sys2Proof.Claims

/-- A mark (R142): the gate and the array hold are empty and all they held is on its way: stores stand in the write-out queue in
program order behind what was there, spilled bytes in the spill store; every posted count is released to its flag, two posts of the
mark to one flag with one count where they take effect together; stage effects wait for the board behind what they follow (R93); siphon
commands are committed, the bytes of skipped entries leaving `c.byte` (R271); array operations are the matrix engine's, the names of
the spout follow them (R184) and the queues of feeds are attached (R215). The state is recorded with its restart PC, and consumption
counts and the request record are cleared. No byte of memory, no register, mode, flag or stream register and no other context changes.
Which posts of one mark are summed rests on R22, R216 and R232. -/
def Obligations.MarkCommits : Prop :=
  ∀ (s : State) (n : Nat),
    let t := s.mark s.cur n
    t.mem = s.mem ∧ t.me.gate = [] ∧ t.me.hold = [] ∧ t.me.sh = t.me.a ∧ t.me.restart = n ∧ t.me.req = none ∧
    t.me.consumed = Vector.replicate 32 0 ∧ t.me.flags = s.me.flags ∧ { t.me.a with qs := s.me.a.qs } = s.me.a ∧
    (∀ q, vget t.me.a.qs q = if s.me.hold.any fun o => match o.kind with
        | .feed f => f.q.any fun k => k % 16 == q % 16
        | _ => false
      then { vget s.me.a.qs q with arr := true } else vget s.me.a.qs q) ∧
    t.me.mx = s.me.mx ++ s.me.hold.map (fun o => { o with rel := s.me.opSeq }) ∧
    (t.me.spoutV, t.me.spoutW, t.me.spoutBag) = s.me.hold.foldl (fun x o => match o.kind with
      | .opn b _ => (b.vn, b.wn, some b.id)
      | .close => (none, none, none)
      | _ => x) (s.me.spoutV, s.me.spoutW, s.me.spoutBag) ∧
    t.me.woq = s.me.woq ++ s.me.gate.filterMap (fun e => match e with
      | .store cells seq fences => some { cells := cells, seq := seq, fences := fences }
      | _ => none) ∧
    t.me.spill = s.me.gate.foldl (fun m e => match e with
      | .spill cells => memWrites m cells
      | _ => m) s.me.spill ∧
    (let new := s.me.gate.filterMap (releasedPost s.cur s.me.opSeq)
     (∀ c f, postedCounts t.posts c f = postedCounts s.posts c f + postedCounts new c f) ∧
     (∀ p ∈ t.posts, p ∈ s.posts ∨ ∃ q ∈ new, ∃ r ∈ s.posts ++ new, p = { q with n := p.n, seq := r.seq }) ∧
     ((∀ p ∈ s.posts, ∀ k, p.seq = some k → k < s.me.markSeq) → new.Pairwise (fun p q => ¬ (p.c = q.c ∧ p.f = q.f)) →
       t.posts = s.posts ++ new)) ∧
    t.stageQ = s.stageQ ++ s.me.gate.filterMap (releasedStage s) ∧
    t.me.records.map (fun r => { r with checked := false }) =
      s.me.records.map (fun r => { releasedCmd s.me.gate r with checked := false }) ∧
    t.me.cByte.toNat = s.me.cByte.toNat -
      ((s.me.records.filter fun r => .sph r.idx ∈ s.me.gate).map SphCmd.atCommit).sum ∧
    (∀ c, c % 384 ≠ s.cur % 384 → t.ctx c = s.ctx c) ∧
    t = { s with ctxs := t.ctxs, posts := t.posts, stageQ := t.stageQ }

/-- Rollback (R145): every shadowed item is as at the mark, the pending-write list too, execution restarts at the restart PC, gate
and array hold are gone, consumed counts return to their flags, clipped, and the spill store and the write-out queue stay. -/
def Obligations.RollbackRestores : Prop :=
  ∀ (x : Ctx) (n : Nat), n < 32 →
    let y := x.rollback none
    y.a = x.sh ∧ y.sh = x.sh ∧ y.pc = x.restart ∧ y.gate = [] ∧ y.hold = [] ∧ y.consumed = Vector.replicate 32 0 ∧
    y.spill = x.spill ∧ y.woq = x.woq ∧ y.mx = x.mx ∧ y.cAtom = x.cAtom ∧
    (vget y.flags n).toNat = min ((vget x.flags n).toNat + vget x.consumed n) 0xFFFF ∧
    ∀ r ∈ x.records, (r ∈ y.records ↔ r.st ≠ .held)

/-! ### TID entries, task requests and stages -/

namespace Sys2Proof.Claims

/-- The checks of a TID entry image in order (R310, items 2 and 3), field by field as R309 lays them out: detail 0x08 for a reserved
bit, IM = 3, a stride or a table address that is not a multiple of 8, and an unset entry with another field set; then 0x07 for block
scales of a type wider than 16 bits, and a COMPOSE modulus outside 1 to ROWSB; 0 where none fails. -/
def tidDetail (x : BitVec 256) : Nat :=
  let f := fun (lo n : Nat) => x.toNat / 2 ^ lo % 2 ^ n
  if f 184 24 ≠ 0 ∨ f 64 20 ≠ 0 ∨ f 56 2 ≠ 0 ∨ f 58 2 = 3 ∨ f 84 20 % 8 ≠ 0 ∨ f 0 56 % 8 ≠ 0 ∨ f 128 56 % 8 ≠ 0 ∨
    (f 61 3 = 7 ∧ [(232, 24), (208, 24), (128, 56), (104, 24), (84, 20), (60, 1), (58, 2), (0, 56)].any fun e => f e.1 e.2 ≠ 0)
  then 8
  else if (f 60 1 = 1 ∧ f 61 3 < 2) ∨ (f 58 2 = 2 ∧ ¬ (1 ≤ f 232 24 ∧ f 232 24 ≤ f 208 24)) then 7
  else 0

end Sys2Proof.Claims

/-- `tid.set` and `tid.get` (R310, R311, R281): a number above 31 while the table is split takes the matrix trap with detail 0x0A; a
good image of four s-registers goes into the entry the number names, with the old entry remembered for rollback; a bad one takes the
matrix trap with the detail of the first check that fails and writes nothing; `tid.get` delivers a 64-bit word of it. -/
def Obligations.TidEntries : Prop :=
  ∀ (g t a d x w : Nat) (s : State), On s g →
    let split := ∀ k, s.taskOf s.cur = some k → (opbField 42 1 k.opb).testBit 3 = false
    (split → 32 ≤ t →
      exec (.tidSet g t a x) s = .next (takeTrap { cause := 0x10, slot := some 0, pc := s.me.pc, detail := 0x0A } s) ∧
      exec (.tidGet g t d x w) s = .next (takeTrap { cause := 0x10, slot := some 0, pc := s.me.pc, detail := 0x0A } s)) ∧
    ∀ n, (n = t ∧ ¬ split ∨ n = 32 * (s.cur % 2) + t ∧ split ∧ t < 32) →
    let old := vget (s.tile (tileOf s.cur)).tids n
    let r := s.me.a.bS x a
    let img := BitVec.ofNat 256 ((s.me.a.rS (r % 32)).toNat + (s.me.a.rS ((r + 1) % 32)).toNat * 2 ^ 64 +
      (s.me.a.rS ((r + 2) % 32)).toNat * 2 ^ 128 + (s.me.a.rS ((r + 3) % 32)).toNat * 2 ^ 192)
    (tidDetail img = 0 → exec (.tidSet g t a x) s =
      .next ((s.updTile (tileOf s.cur) fun u => { u with tids := vput u.tids n { old with img := img } }).updMe fun y =>
        { y with tidUndo := (n, old) :: y.tidUndo })) ∧
    (tidDetail img ≠ 0 → exec (.tidSet g t a x) s =
      .next (takeTrap { cause := 0x10, slot := some 0, pc := s.me.pc, detail := tidDetail img } s)) ∧
    (w < 4 → exec (.tidGet g t d x w) s = .next (s.landS 0 (s.me.a.bS x d) (old.img.extractLsb' (64 * w) 64) 1))

/-- Task n is task r, or was launched or forked by a task below r (R358). -/
inductive Sys2Proof.Claims.Below (l : List Task) (r : Nat) : Nat → Prop where
  | here : Below l r r
  | child (t : Task) : t ∈ l → Below l r t.parent → Below l r t.num

/-- A task request whose answer stands lands it in d after one issue cycle, or has nothing to deliver (R360, step 5). -/
def Sys2Proof.Claims.RequestsDeliver : Prop :=
  ∀ (g d a x v : Nat) (s : State), On s g → s.me.reqAns = some v →
    exec (.tlaunch g d a x) s = .next (s.landS 0 (s.me.a.bS x d) (BitVec.ofNat 64 v) 1) ∧
    exec (.tfork g d a x) s = .next (s.landS 0 (s.me.a.bS x d) (BitVec.ofNat 64 v) 1) ∧
    exec (.tjoin g d a x) s = .next (s.landS 0 (s.me.a.bS x d) (BitVec.ofNat 64 v) 1) ∧
    exec (.tjoinAll g) s = .next s ∧ exec (.tkill g a x) s = .next s ∧ exec (.rgnSet g a x) s = .next s

/-- The first two steps of a request (R360): the context acts as at a mark before the bundle, whose PC becomes its restart PC and whose
request record stands; it stalls while what it has released is not performed, nor what an `xf` to task names, nor a stage effect of its
own, for the task path keeps program order (R88); then the request reaches the engine, which reads its tables free of single-bit errors
(R391). -/
def Sys2Proof.Claims.RequestsRelease : Prop :=
  ∀ (g d a x : Nat) (s : State), On s g → s.me.reqAns = none →
    let all := fun (t : State) => exec (.tlaunch g d a x) s = .next t ∧ exec (.tfork g d a x) s = .next t ∧
      exec (.tjoin g d a x) s = .next t ∧ exec (.tjoinAll g) s = .next t ∧ exec (.tkill g a x) s = .next t ∧
      exec (.rgnSet g a x) s = .next t
    let own := ∀ e ∈ s.stageQ, e.task = s.me.task → e.step = s.me.step → e.gi = s.me.gi → s.me.opSeq ≤ e.seq
    let done := s.opsDone s.cur s.me.opSeq = true ∧ own ∧ s.fencesDone s.cur (s.me.a.fencesFor 4) = true
    (s.me.reqStage = .none → all (State.updMe (s.mark s.cur s.me.pc) fun x => { x with
      req := s.me.req.filter fun r => r.1 == s.me.pc, reqStage := .released }).stallNow) ∧
    (s.me.reqStage = .released → done → all (s.correctTables.stallNow.updMe fun x => { x with reqStage := .asked })) ∧
    (s.me.reqStage = .released → ¬ done → all s.stallNow)

/-- A pre-emption honoured in a closure wait (R366, R149, R276): the context stops, the join's own PC its restart PC, and the child is kept
for it, as unjoined as it was, till its request is executed again (log 131, DEDUCED). -/
def Sys2Proof.Claims.ClosureStops : Prop :=
  ∀ (b : Bundle) (s : State) (r : TaskReq) (j : PendJoin), b.1.request (s.landedView (hdrOf b)) = some r → s.me.reqAns = none →
    s.me.reqStage = .closure → s.joins = [j] → j.c = some s.cur → j.pages = none → s.lockOn s.cur = false →
    let may := s.me.preempt = true ∧ s.me.a.pend = [] ∧ s.drained = true ∧ s.me.gate = [] ∧ s.me.hold = [] ∧ s.me.a.bag = none ∧
      s.me.a.ranges = []
    (may → ∃ t, requestWait b s = .error t ∧ t.me.cond = .stopped ∧ t.me.pc = s.me.pc ∧ t.me.restart = s.me.pc ∧ t.mem = s.mem ∧
      t.tasks = s.tasks ∧
      t.joins = [{ j with c := none, hold := true, stopped := some (s.me.task, s.me.step, s.me.gi) }]) ∧
    (¬ may → requestWait b s = .error (requestTurn r s))

/-- What the task engine does with a request that has reached it (R363 to R368): a launch takes the next number and answers it; a
fork joins the forks under way; a join of a live child closes in on it, and so does one re-executed after a pre-emption had stopped it
on its child, which another context waits for meanwhile (R366; log 131, DEDUCED); with no unjoined child `tjoin.all` answers 0; a kill
reaches the task named; a region goes into the caller's table. -/
def Sys2Proof.Claims.RequestsAct : Prop :=
  ∀ (g d a x : Nat) (s : State), On s g → s.me.reqAns = none → s.me.reqStage = .asked → s.me.req = none →
    let va := (s.sReg x a).toNat % 2 ^ 56
    let n := (s.sReg x a).toNat % 2 ^ 32
    (∀ o, s.readOpb va = some o → s.liveTasks < 16384 → ∃ t, exec (.tlaunch g d a x) s = .next t ∧
      t.me.reqAns = some s.nextTask ∧ t.me.req = some (s.me.pc, s.nextTask) ∧ t.nextTask = s.nextTask + 1 ∧
      ∃ k, t.tasks = s.tasks ++ [k] ∧ k.num = s.nextTask ∧ k.parent = s.me.task ∧ k.opb = o ∧ k.kind = .launched) ∧
    (∀ o, s.readOpb va = some o → s.forks = [] → s.myRev.depth < 16 → s.liveTasks < 16384 → s.revs.length < 4096 →
      ∃ t f, exec (.tfork g d a x) s = .next t ∧ t.forks = [f] ∧ f.c = s.cur ∧ f.opbVa = va ∧
        f.key = s.me.step * 2 ^ 32 + s.me.gi * 2 ^ 28 + s.me.forks ∧ t.me.stall = s.me.stall + 1) ∧
    (∀ k, s.joins = [] → s.childOf s.me.task n = some k → k.join = .unjoined → ∃ t j, exec (.tjoin g d a x) s = .next t ∧
      t.joins = [j] ∧ j.c = some s.cur ∧ j.child = n ∧ j.parent = s.me.task ∧ t.me.reqStage = .closure) ∧
    (∀ k j, s.joins = [j] → j.child = n → j.c = none → s.childOf s.me.task n = some k → k.num = n → k.join = .joining →
      (j.stopped = some (s.me.task, s.me.step, s.me.gi) → ∃ t, exec (.tjoin g d a x) s = .next t ∧ t.me.reqStage = .closure ∧
        t.joins = [{ j with c := some s.cur, hold := false, stopped := none }]) ∧
      (j.stopped ≠ some (s.me.task, s.me.step, s.me.gi) → exec (.tjoin g d a x) s = .next s.stallNow)) ∧
    (s.joins = [] → s.stepChildren = [] → ∃ t, exec (.tjoinAll g) s = .next t ∧ t.me.reqAns = some 0 ∧
      t.me.req = some (s.me.pc, 0)) ∧
    (∀ k, s.findTask n = some k → s.isSvc s.cur = true ∨ Below s.tasks s.me.task n →
      (k.recorded = false →
        exec (.tkill g a x) s = .next ((s.killTask n).updMe fun y => { y with reqStage := .killing }).stallNow) ∧
      (k.recorded = true → exec (.tkill g a x) s = .next (s.answered 0).stallNow)) ∧
    (∀ bs r k l, taskRead s s.myRev.table va 24 = .ok bs → parseRegion bs = some r → s.taskOf s.cur = some k →
      putRegion k.regions r = some l → ∃ t, exec (.rgnSet g a x) s = .next t ∧ t.me.reqAns = some 0 ∧
        ∀ u, t.findTask k.num = some u → u.regions = l)

/-- A kill that has been asked answers once every step of the tasks it reaches has taken it, and waits till then (R367). -/
def Sys2Proof.Claims.KillAnswers : Prop :=
  ∀ (g a x : Nat) (s : State) (k : Task), On s g → s.me.reqAns = none → s.me.reqStage = .killing → s.me.req = none →
    let n := (s.sReg x a).toNat % 2 ^ 32
    s.findTask n = some k → s.isSvc s.cur = true ∨ Below s.tasks s.me.task n →
      exec (.tkill g a x) s = .next (if s.killDone n then s.answered 0 else s).stallNow

/-- A request the engine cannot serve takes the task trap with its detail (R358). That `tkill` of a number no task has takes detail 4
is the model's reading (log 64, DEDUCED). -/
def Sys2Proof.Claims.RequestsTrap : Prop :=
  ∀ (g d a x : Nat) (s : State), On s g → s.me.reqAns = none → s.me.reqStage = .asked → s.me.req = none →
    let traps := fun (i : Instr) (k : Nat) =>
      exec i s = .next (takeTrap { cause := 0x0E, slot := some 0, pc := s.me.pc, detail := k } s)
    (s.readOpb ((s.sReg x a).toNat % 2 ^ 56) = none → traps (.tlaunch g d a x) 6 ∧
      ((∀ f ∈ s.forks, f.c ≠ s.cur) → traps (.tfork g d a x) 6)) ∧
    (s.joins = [] → s.childOf s.me.task ((s.sReg x a).toNat % 2 ^ 32) = none → traps (.tjoin g d a x) 3) ∧
    (s.findTask ((s.sReg x a).toNat % 2 ^ 32) = none → traps (.tkill g a x) 4) ∧
    (s.isSvc s.cur = false → ¬ Below s.tasks s.me.task ((s.sReg x a).toNat % 2 ^ 32) → traps (.tkill g a x) 4) ∧
    ((∀ bs r k, taskRead s s.myRev.table ((s.sReg x a).toNat % 2 ^ 56) 24 = .ok bs → parseRegion bs = some r →
      s.taskOf s.cur = some k → putRegion k.regions r = none) → traps (.rgnSet g a x) 5) ∧
    (s.readOpb ((s.sReg x a).toNat % 2 ^ 56) ≠ none → (∀ f ∈ s.forks, f.c ≠ s.cur) → 16 ≤ s.myRev.depth →
      traps (.tfork g d a x) 8)

/-- Task requests: what they wait for, what the engine does, what the bundle delivers, where a pre-emption stops a join, and where they
trap (R88, R358, R360 to R368). That a child is kept for a join that a pre-emption has stopped is the model's reading of R366 (log 131,
DEDUCED), and so is that `tkill` of a number no task has takes detail 4 (log 64, DEDUCED). -/
def Obligations.TaskRequests : Prop :=
  RequestsDeliver ∧ RequestsRelease ∧ RequestsAct ∧ ClosureStops ∧ KillAnswers ∧ RequestsTrap

/-- The stage instructions (R369 to R371): an advance or a setting changes the context's view at once and is gated; past STAGES, or
back, it traps; a wait that is over writes p15 with "the step was killed", by the value that ended it, which is kept until the bundle
issues; `stg.rd` lands the counter, with k = 0 the board's, read free of single-bit errors (R391). -/
def Obligations.StageInstructions : Prop :=
  ∀ (g i a x d k : Nat) (s : State), On s g →
    let r := (s.sReg x a).toNat
    let moved := fun (isSet : Bool) (n v : Nat) =>
      let t := s.updArch fun y => { y with stageView := v }
      t.gateAdd (.stage isSet n s.me.opSeq (s.me.a.fencesFor 4))
    let traps := fun (i : Instr) (k : Nat) =>
      exec i s = .next (takeTrap { cause := 0x0E, slot := some 0, pc := s.me.pc, detail := k } s)
    (i ≤ s.stages → exec (.stgAdvImm g i) s = .next (moved false i (min (s.me.a.stageView + i) s.stages))) ∧
    (r ≤ s.stages → exec (.stgAdvReg g a x) s = .next (moved false r (min (s.me.a.stageView + r) s.stages))) ∧
    (s.me.a.stageView ≤ i → i ≤ s.stages → exec (.stgSetImm g i) s = .next (moved true i i)) ∧
    (s.me.a.stageView ≤ r → r ≤ s.stages → exec (.stgSetReg g a x) s = .next (moved true r r)) ∧
    (s.stages < i → traps (.stgAdvImm g i) 2 ∧ traps (.stgSetImm g i) 2 ∧ traps (.stgWlImm g d i) 2) ∧
    (s.stages < r → traps (.stgAdvReg g a x) 2 ∧ traps (.stgSetReg g a x) 2 ∧ traps (.stgWlReg g d a x) 2) ∧
    (i ≤ s.stages → i < s.me.a.stageView → traps (.stgSetImm g i) 1) ∧
    (r ≤ s.stages → r < s.me.a.stageView → traps (.stgSetReg g a x) 1) ∧
    (∀ v, s.me.wlPassed = some v →
      (i ≤ s.stages → exec (.stgWlImm g d i) s =
        .next ((s.updMe fun y => { y with wlPassed := none }).landBit 0 15 (v == 0xFFFE) 1)) ∧
      (r ≤ s.stages → exec (.stgWlReg g d a x) s =
        .next ((s.updMe fun y => { y with wlPassed := none }).landBit 0 15 (v == 0xFFFE) 1))) ∧
    (∀ v, s.me.wlPassed = none → s.stageSeen d = some v →
      (i ≤ s.stages → i ≤ v → exec (.stgWlImm g d i) s =
        .next ((s.updMe fun y => { y with wlPassed := none }).landBit 0 15 (v == 0xFFFE) 1)) ∧
      (r ≤ s.stages → r ≤ v → exec (.stgWlReg g d a x) s =
        .next ((s.updMe fun y => { y with wlPassed := none }).landBit 0 15 (v == 0xFFFE) 1)) ∧
      (i ≤ s.stages → v < i → exec (.stgWlImm g d i) s = .next s.stallNow) ∧
      (r ≤ s.stages → v < r → exec (.stgWlReg g d a x) s = .next s.stallNow)) ∧
    (s.me.wlPassed = none → s.stageSeen d = none → i ≤ s.stages → r ≤ s.stages → i ≤ 0xFFFF → r ≤ 0xFFFF →
      exec (.stgWlImm g d i) s = .next ((s.updMe fun y => { y with wlPassed := none }).landBit 0 15 false 1) ∧
      exec (.stgWlReg g d a x) s = .next ((s.updMe fun y => { y with wlPassed := none }).landBit 0 15 false 1)) ∧
    (s.isDet s.cur = false → s.me.step < k → exec (.stgRd g d k x) s = .next (s.landS 0 (s.me.a.bS x d) 0xFFFF 2)) ∧
    (s.isDet s.cur = false → 0 < k → k ≤ s.me.step → exec (.stgRd g d k x) s = .next (s.landS 0 (s.me.a.bS x d)
      (BitVec.ofNat 64 (countIn (s.cis (cisOf s.cur)).cache s.me.task (s.me.step - k))) 2)) ∧
    (s.isDet s.cur = false → exec (.stgRd g d 0 x) s = .next (s.correctTables.landS 0 (s.me.a.bS x d)
      (BitVec.ofNat 64 (countIn s.board s.me.task s.me.step)) 2)) ∧
    (s.isDet s.cur = true → traps (.stgRd g d k x) 7)

/-! ### Waits, fences and sets -/

/-- The trap of an M-slot instruction at issue. -/
def Sys2Proof.Claims.coreTrap (s : State) (cause detail : Nat) : State :=
  takeTrap { cause := cause, slot := some 1, pc := s.me.pc, detail := detail } s

/-- `waitc` (R86, R236, R72): it passes at once when the counter is at or below its bound, takes a deferred trap due on that counter,
and otherwise stalls. -/
def Sys2Proof.Claims.CounterWaits : Prop :=
  ∀ (g k i a x : Nat) (s : State), On s g →
    let r := (s.aReg x a).toNat % 2 ^ 32
    ((s.me.counter k).toNat ≤ i → s.me.seenBy k = none → exec (.waitcImm g k i) s = .next s) ∧
    ((s.me.counter k).toNat ≤ r → s.me.seenBy k = none → exec (.waitcReg g k a x) s = .next s) ∧
    (∀ d, (s.me.counter k).toNat ≤ i → s.me.seenBy k = some d →
      exec (.waitcImm g k i) s = .next (takeTrap d.trap s)) ∧
    (∀ d, (s.me.counter k).toNat ≤ r → s.me.seenBy k = some d →
      exec (.waitcReg g k a x) s = .next (takeTrap d.trap s)) ∧
    (i < (s.me.counter k).toNat → exec (.waitcImm g k i) s = .next s.stallNow) ∧
    (r < (s.me.counter k).toNat → exec (.waitcReg g k a x) s = .next s.stallNow)

/-- `xf`, `rws.r`, `rws.w` and `phase` (R87, R97, R98, R238, R239): an `xf` of a path to itself sets no marker; a declared range joins
the sets of the next phase, an empty one joins nothing, nor does one that re-executed code declares for a phase that has opened
(log 24, DEDUCED); a phase that all have reached moves the declared sets into force at the end of its cycle, one passed before a
rollback passes at once (log 24, DEDUCED), one with a held effect traps, whose detail is the model's choice (`Config.heldAtPhase`,
log 10, DESIGN CHOICE), and sets that overlap fault in every context that has arrived, of which overlap the detail names is the
model's choice (`overlapDetail`, logs 11 and 94, DESIGN CHOICE). -/
def Sys2Proof.Claims.FencesAndSets : Prop :=
  ∀ (g p a l x : Nat) (s : State), On s g →
    exec (.xf g p p) s = .next s ∧
    (p ≠ a → ∃ t, exec (.xf g p a) s = .next t ∧ t = s.setCtx s.cur t.me ∧
      { pa := p, pb := a, seq := s.me.opSeq : XMark } ∈ t.me.a.marks ∧
      ∀ m ∈ s.me.a.marks, ¬ (m.pa = p ∧ m.pb = a) → m ∈ t.me.a.marks) ∧
    (let lsa := (s.aReg x a).toNat % 2 ^ 24
     let n := (s.aReg x l).toNat % 2 ^ 24
     let range := fun (wr : Bool) =>
       { path := p, wr := wr, first := lsa / 128, len := (lsa % 128 + n + 127) / 128 : SetRange }
     let joins := fun (wr : Bool) => s.updMe fun y => { y with setsNext := y.setsNext ++ [range wr] }
     let room := fun (wr : Bool) => (s.me.setsNext.filter fun q => q.path == p && q.wr == wr).length < 8
     (n = 0 → exec (.rwsR g p a l x) s = .next s ∧ exec (.rwsW g p a l x) s = .next s) ∧
     (0 < n → s.resolve s.cur lsa n 1 ≠ none → s.me.phaseTop ≤ s.me.a.phases →
       (range false ∉ s.me.setsNext → room false → exec (.rwsR g p a l x) s = .next (joins false)) ∧
       (range true ∉ s.me.setsNext → room true → exec (.rwsW g p a l x) s = .next (joins true)) ∧
       (range false ∉ s.me.setsNext → ¬ room false →
         exec (.rwsR g p a l x) s = .next (coreTrap s 4 (p * 2 ^ 61 + lsa))) ∧
       (range true ∉ s.me.setsNext → ¬ room true →
         exec (.rwsW g p a l x) s = .next (coreTrap s 4 (p * 2 ^ 61 + lsa)))) ∧
     (0 < n → s.resolve s.cur lsa n 1 ≠ none → s.me.a.phases < s.me.phaseTop →
       exec (.rwsR g p a l x) s = .next s ∧ exec (.rwsW g p a l x) s = .next s) ∧
     (0 < n → s.resolve s.cur lsa n 1 = none →
       exec (.rwsR g p a l x) s = .next (coreTrap s 3 lsa) ∧ exec (.rwsW g p a l x) s = .next (coreTrap s 3 lsa))) ∧
    (s.me.gate = [] → s.me.phaseTop ≤ s.me.a.phases → phaseReady s = true →
      (s.isDet s.cur = false ∨ overlapDetail s = none → ∃ t, exec (.phase g) s = .next t ∧ t = s.setCtx s.cur t.me ∧
        t.me.a.phases = s.me.a.phases + 1 ∧ t.me.phaseTop = s.me.a.phases + 1 ∧ t.me.atPhase = false ∧
        (s.me.inIssue = false → t.me.setsNow = s.me.setsNext ∧ t.me.setsNext = []) ∧
        (s.me.inIssue = true → t.me.eoc = s.me.eoc ++ [.openSets] ∧ t.me.setsNow = s.me.setsNow)) ∧
      (∀ d, s.isDet s.cur = true → overlapDetail s = some d → exec (.phase g) s = .next (s.overlapAll d))) ∧
    (∀ y : Ctx, y.applyEoc .openSets = { y with setsNow := y.setsNext, setsNext := [] }) ∧
    (s.me.gate = [] → s.me.a.phases < s.me.phaseTop →
      exec (.phase g) s = .next (s.updArch fun y => { y with phases := y.phases + 1 })) ∧
    (s.me.gate ≠ [] → exec (.phase g) s = .next (coreTrap s 5 Config.heldAtPhase.toNat)) ∧
    (phaseReady s = false → exec (.phase g) s = .next (s.stallNow.updMe fun y => { y with atPhase := true }))

namespace Sys2Proof.Claims

/-- No flag post of context c before `seq` is on its way, and no stage effect of it. -/
def postsOver (s : State) (c seq : Nat) : Prop := ∀ p ∈ s.posts, ∀ q k, p.src = some (c, q) → p.seq = some k → ¬ k < seq
def stagesOver (s : State) (c seq : Nat) : Prop := ∀ e ∈ s.stageQ,
  e.task = (s.ctx c).task → e.step = (s.ctx c).step → e.gi = (s.ctx c).gi → ¬ e.seq < seq

/-- What a fence waits for (R87, R18): every access of the context on its path with a lower number, held or released: stores, atomics and
flag posts on the core path, siphon commands, pump and array operations, stage effects. -/
def PathsDone : Prop :=
  ∀ (s : State) (c seq : Nat), let x := s.ctx c
    let array := fun (pump : Bool) => (∀ o ∈ x.hold ++ x.mx, o.kind.isPump = pump → ¬ o.seq < seq) ∧
      ∀ b, x.bagRun = some b → ∀ f ∈ b.feeds, f.f.pump = pump → f.seq < seq → ∀ e ∈ f.rows, e.fate.settled = true
    (∀ l, s.fencesDone c l = true ↔ ∀ f ∈ l, s.pathDone c f.path f.seq = true) ∧
    (s.pathDone c 0 seq = true ↔ (∀ e ∈ x.woq, ¬ e.seq < seq) ∧ (∀ a ∈ (s.cis (cisOf c)).atoms, a.c = c → ¬ a.seq < seq) ∧
      postsOver s c seq ∧ (∀ cells k f, .store cells k f ∈ x.gate → ¬ k < seq) ∧
      ∀ d n k m q f, .post d n k m q f ∈ x.gate → ¬ q < seq) ∧
    (s.pathDone c 1 seq = true ↔ ∀ r ∈ x.records, ¬ r.seq < seq) ∧
    (s.pathDone c 2 seq = true ↔ array true) ∧ (s.pathDone c 3 seq = true ↔ array false) ∧
    (s.pathDone c 4 seq = true ↔ stagesOver s c seq ∧ ∀ b n k f, .stage b n k f ∈ x.gate → ¬ k < seq)

/-- The wait of a `phase` (R98, R178): with an empty gate, and a phase not passed before, it is over when every context of the gang stands
at that phase, is past it or has exited, and every access those not past it released before their last mark is performed: stores, flag
posts, atomics, siphon commands, array operations, stage effects. -/
def BarrierWaits : Prop :=
  ∀ (s : State) (k : Step), s.stepOf s.cur = some k → s.me.gate = [] → s.me.phaseTop ≤ s.me.a.phases →
    (phaseReady s = true ↔ ∀ d ∈ k.nums, let x := s.ctx d
      (d = s.cur ∨ x.cond = .exited ∨ s.me.a.phases < x.phaseTop ∨ x.a.phases = s.me.a.phases ∧ x.atPhase = true) ∧
      (x.phaseTop ≤ s.me.a.phases →
        (∀ e ∈ x.woq, ¬ e.seq < x.markSeq) ∧ (∀ a ∈ (s.cis (cisOf d)).atoms, a.c ≠ d) ∧ postsOver s d x.markSeq ∧
        (∀ r ∈ x.records, r.st ≠ .held → ¬ r.seq < x.markSeq) ∧ (∀ o ∈ x.mx ++ x.latching, ¬ o.seq < x.markSeq) ∧
        (∀ b, x.bagRun = some b → ∀ f ∈ b.feeds, f.seq < x.markSeq → ∀ e ∈ f.rows, e.fate.settled = true) ∧
        stagesOver s d x.markSeq))

end Sys2Proof.Claims

/-- Counter waits, access fences and declared sets (R86, R87, R97, R98). The passes of a phase re-executed after a rollback rest on
log 24, the details of the two traps at `phase` on logs 10, 11 and 94. -/
def Obligations.WaitsFencesAndSets : Prop :=
  CounterWaits ∧ FencesAndSets ∧ PathsDone ∧ BarrierWaits

/-! ### Core loads and stores -/

namespace Sys2Proof.Claims

/-- The checks of a core access pass: it lies in one allocation at place `p`, and in a DET task inside the declared sets. -/
def Reaches (s : State) (wr : Bool) (lsa n al p : Nat) : Prop :=
  s.resolve s.cur lsa n al = some p ∧ s.inSets s.cur 0 wr lsa n = true

/-- A scalar load of `n` bytes: sign- or zero-extended to 64 bits; single-bit errors of the bytes it takes are corrected. It waits for
what an `xf` to core names, then takes the bounds trap, or the set trap, where its check fails. -/
def LoadForm (mk : Nat → Nat → Nat → Nat → Nat → Nat → Instr) (n : Nat) (signed : Bool) : Prop :=
  ∀ g f d b x o s, On s g →
    (coreReady s = false → exec (mk g f d b x o) s = .next s.stallNow) ∧
    (coreReady s = true → ∀ p, s.resolve s.cur (loadLsa s b x o n) n n = some p →
      s.inSets s.cur 0 false (loadLsa s b x o n) n = false →
      exec (mk g f d b x o) s = .next (coreTrap s 4 (loadLsa s b x o n))) ∧
    (coreReady s = true → ∀ p, Reaches s false (loadLsa s b x o n) n n p →
      let v := natOfBytes ((upTo n).map fun i => s.coreByte s.cur (p + i))
      let y := if signed then (BitVec.ofNat (8 * n) v).signExtend 64 else BitVec.ofNat 64 v
      ∃ bad, exec (mk g f d b x o) s = .next ((s.coreCorrect s.cur p n).landP {
        file := if f = 1 then .s else .a, reg := if f = 1 then s.me.a.bS x d else s.me.a.bA x d, val := .word y
        left := if placeTile p = tileOf s.cur then 5 else 7, slot := 1, seq := 0, pc := 0, bad := bad }) ∧
        (s.badMem = [] → bad = none)) ∧
    (coreReady s = true → s.resolve s.cur (loadLsa s b x o n) n n = none →
      exec (mk g f d b x o) s = .next (coreTrap s 3 (loadLsa s b x o n)))

/-- A scalar store of `n` bytes: the bytes stand in the gate with their places; nothing is in memory yet. It takes the bounds trap, or
the set trap, where its check fails. -/
def StoreForm (mk : Nat → Nat → Nat → Nat → Nat → Nat → Instr) (n : Nat) : Prop :=
  ∀ g f r b x o s, On s g →
    let v := if f = 1 then s.me.a.rS (s.me.a.bS x r) else s.me.a.rA (s.me.a.bA x r)
    (∀ p, Reaches s true (storeLsa s b x o n) n n p →
      exec (mk g f r b x o) s = .next (s.gateAdd (.store
        ((upTo n).map fun i => (p + i, BitVec.ofNat 8 (v.toNat / 2 ^ (8 * i)))) s.me.opSeq (s.me.a.fencesFor 0)))) ∧
    (∀ p, s.resolve s.cur (storeLsa s b x o n) n n = some p → s.inSets s.cur 0 true (storeLsa s b x o n) n = false →
      exec (mk g f r b x o) s = .next (coreTrap s 4 (storeLsa s b x o n))) ∧
    (s.resolve s.cur (storeLsa s b x o n) n n = none → exec (mk g f r b x o) s = .next (coreTrap s 3 (storeLsa s b x o n)))

end Sys2Proof.Claims

/-- The effective address of R221: the offset, with a borrowed LB above it (R36), counts elements, or rows of 256 bytes, and the sum
wraps in 24 bits; loads have 9 bits of offset, stores 10, vector accesses 6. -/
def Sys2Proof.Claims.EffectiveAddress : Prop :=
  ∀ (s : State) (b x o n : Nat),
    let goes := fun (w : Nat) (u : Nat) (k : BitVec w) => ((s.aReg x b).toNat + u * (2 ^ 24 + k.toInt).toNat) % 2 ^ 24
    (s.me.lt ≠ 1 → (o < 512 → loadLsa s b x o n = goes 9 n (BitVec.ofNat 9 o)) ∧
      (o < 1024 → storeLsa s b x o n = goes 10 n (BitVec.ofNat 10 o)) ∧
      (o < 64 → vecLsa s b x o = goes 6 256 (BitVec.ofNat 6 o))) ∧
    (s.me.lt = 1 → s.me.lb < 2048 → (o < 512 → loadLsa s b x o n = goes 20 n (BitVec.ofNat 20 (s.me.lb * 512 + o))) ∧
      (o < 1024 → storeLsa s b x o n = goes 21 n (BitVec.ofNat 21 (s.me.lb * 1024 + o))) ∧
      (o < 64 → vecLsa s b x o = goes 17 256 (BitVec.ofNat 17 (s.me.lb * 64 + o))))

/-- The declared sets (R97, R99, R100): without DET every access lies in them; in a DET task one does when the bank row of 128 bytes of
each of its bytes lies in a range in force for its path, a written range for a write. -/
def Sys2Proof.Claims.SetsAreRows : Prop :=
  ∀ (s : State) (c path lsa n : Nat) (wr : Bool), 0 < n →
    (s.inSets c path wr lsa n = true ↔ (s.isDet c = true → ∀ i, i < n → ∃ q ∈ (s.ctx c).setsNow,
      q.path = path ∧ (wr = true → q.wr = true) ∧ q.first ≤ (lsa + i) / 128 ∧ (lsa + i) / 128 < q.first + q.len))

/-- A load corrects the single-bit errors of the bytes it takes from their bank (R219, R391, R393): their granules, of 8 bytes in a well
and of 64 in HBM, are clean afterwards and stand in the error log, and nothing else changes. Other memory than wells and HBM is taken
like HBM (log 34, DEDUCED). -/
def Sys2Proof.Claims.SingleBitErrors : Prop :=
  ∀ (s : State) (c p n : Nat), let t := s.coreCorrect c p n
    let meets := fun (g : Nat) => ∃ i, i < n ∧ youngest (s.ctx c).ownStores (p + i) = none ∧ g ≤ p + i ∧
      p + i < g + if zoneOf g = .well then 8 else 64
    (s.softMem = [] → t = s) ∧
    { t with softMem := s.softMem, ciss := s.ciss, mgmt := s.mgmt } = s ∧
    { t.mgmt with log := s.mgmt.log } = s.mgmt ∧ (∀ k, { t.cis k with log := (s.cis k).log } = s.cis k) ∧
    (∀ g, g ∈ t.softMem ↔ g ∈ s.softMem ∧ ¬ meets g) ∧
    ∀ g, g ∈ s.softMem → meets g →
      ∃ e ∈ (if zoneOf g = .well then (t.cis (placeTile g / 8)).log else t.mgmt.log), e.idx = g ∧ e.corrected = true

/-- `t` is `s` after reads of these ranges, each a place and a length (R391, R393): the single-bit errors they met are corrected and
logged, the uncorrectable granules logged, and nothing else changes. -/
def Sys2Proof.Claims.ReadsCorrected (s t : State) (l : List (Nat × Nat)) : Prop :=
  let meets := fun (g : Nat) => ∃ r ∈ l, r.1 < g + (if zoneOf g = .well then 8 else 64) ∧ g < r.1 + r.2
  let logged := fun (g : Nat) (b : Bool) =>
    ∃ e ∈ (if zoneOf g = .well then (t.cis (placeTile g / 8)).log else t.mgmt.log), e.idx = g ∧ e.corrected = b
  { t with softMem := s.softMem, ciss := s.ciss, mgmt := s.mgmt } = s ∧ { t.mgmt with log := s.mgmt.log } = s.mgmt ∧
    (∀ k, { t.cis k with log := (s.cis k).log } = s.cis k) ∧ (∀ g, g ∈ t.softMem ↔ g ∈ s.softMem ∧ ¬ meets g) ∧
    (∀ g ∈ s.softMem, meets g → logged g true) ∧ ∀ g ∈ s.badMem, meets g → logged g false

/-- The scalar loads (R223): each byte as the youngest value the context itself wrote, else as memory holds it; 5 issue cycles from
the context's own tile, 7 from another; an access outside the allocation or misaligned takes the bounds trap, one outside the declared
sets of a DET task the set trap (R99). -/
def Sys2Proof.Claims.ScalarLoads : Prop :=
  LoadForm .lb 1 true ∧ LoadForm .lbn 1 false ∧ LoadForm .lh 2 true ∧ LoadForm .lhn 2 false ∧ LoadForm .lw 4 true ∧
  LoadForm .lwn 4 false ∧ LoadForm .ld 8 false

/-- The scalar stores (R223, R50): checked at issue and held in the gate, least significant byte at the lowest place. -/
def Sys2Proof.Claims.ScalarStores : Prop :=
  StoreForm .sb 1 ∧ StoreForm .sh 2 ∧ StoreForm .sw 4 ∧ StoreForm .sd 8

/-- Scalar loads and stores with their effective address, their bounds and set traps, and the single-bit errors a load corrects (R99,
R219, R221, R223). Before its first `phase` a DET task's sets are empty, so every access of it traps (log 93, DEDUCED). -/
def Obligations.ScalarAccess : Prop :=
  EffectiveAddress ∧ SetsAreRows ∧ SingleBitErrors ∧ ScalarLoads ∧ ScalarStores

/-- `vld`, `vst` and `vldb` (R224, R99): a 256-byte row, or one element into every lane; lanes that are not active keep their value, and
their bytes are not stored; the bounds trap, then the set trap, which `vst` checks over the whole row (log 119, DESIGN CHOICE). -/
def Sys2Proof.Claims.VectorAccess : Prop :=
  ∀ (g f d b m x o p : Nat) (s : State), On s g →
    let lsa := vecLsa s b x o
    let w := 8 * 2 ^ esOf (s.aReg x b)
    let file : RFile := if f = 1 then .w else .v
    let reg := if f = 1 then s.me.a.bW x d else s.me.a.bV x d
    let lands := fun (n : Nat) (x en : Vec) => (s.coreCorrect s.cur p n).landP {
      file := file, reg := reg, val := .lanes x en, left := if placeTile p = tileOf s.cur then 5 else 7, slot := 1
      seq := 0, pc := 0 }
    (coreReady s = true → s.badMem = [] → Reaches s false lsa 256 256 p →
      exec (.vld g f d b m x o) s = .next (lands 256
        (BitVec.ofNat 2048 (natOfBytes ((upTo 256).map fun i => s.coreByte s.cur (p + i)))) (s.me.a.enable m w))) ∧
    (coreReady s = true → s.badMem = [] → Reaches s false lsa (w / 8) (w / 8) p →
      exec (.vldb g f d b m x o) s = .next (lands (w / 8)
        (packVec w (List.replicate (2048 / w) (natOfBytes ((upTo (w / 8)).map fun i => s.coreByte s.cur (p + i)))))
        (s.me.a.enable m w))) ∧
    (coreReady s = false → exec (.vld g f d b m x o) s = .next s.stallNow ∧ exec (.vldb g f d b m x o) s = .next s.stallNow) ∧
    (s.resolve s.cur lsa 256 256 = none → exec (.vst g f d b m x o) s = .next (coreTrap s 3 lsa) ∧
      (coreReady s = true → exec (.vld g f d b m x o) s = .next (coreTrap s 3 lsa))) ∧
    (coreReady s = true → s.resolve s.cur lsa (w / 8) (w / 8) = none →
      exec (.vldb g f d b m x o) s = .next (coreTrap s 3 lsa)) ∧
    (s.resolve s.cur lsa 256 256 = some p →
      (s.inSets s.cur 0 true lsa 256 = false → exec (.vst g f d b m x o) s = .next (coreTrap s 4 lsa)) ∧
      (s.inSets s.cur 0 false lsa 256 = false → coreReady s = true →
        exec (.vld g f d b m x o) s = .next (coreTrap s 4 lsa))) ∧
    (coreReady s = true → s.resolve s.cur lsa (w / 8) (w / 8) = some p → s.inSets s.cur 0 false lsa (w / 8) = false →
      exec (.vldb g f d b m x o) s = .next (coreTrap s 4 lsa)) ∧
    (Reaches s true lsa 256 256 p → ∃ cells, exec (.vst g f d b m x o) s = .next (s.gateStore cells) ∧
      (∀ a v, (a, v) ∈ cells ↔ ∃ i, i < 256 ∧ a = p + i ∧ s.me.a.active m (i / (w / 8)) w = true ∧
        v = ((s.me.a.rVec (file, reg)).extractLsb' (8 * i) 8)))

/-- Gathers and scatters (R225, R220, R99): each active lane goes to the base plus its index times the element size, in 24 bits; an
address register whose element size is one byte takes the bounds trap; so does the lowest lane out of bounds, and, none being so, the
lowest one outside the declared sets takes the set trap; a gather from the own tile alone lands after 5 issue cycles, else after 7; a
scatter is one gate entry. -/
def Sys2Proof.Claims.IndexedAccess : Prop :=
  ∀ (g f d b m x i : Nat) (s : State), On s g →
    let w := esWidth (s.aReg x b)
    let ls := idxLanes s b m x i
    (w = 8 → exec (.vstx g f d b m x i) s = .next (coreTrap s 3 (lsaOf (s.aReg x b))) ∧
      (coreReady s = true → exec (.vldx g f d b m x i) s = .next (coreTrap s 3 (lsaOf (s.aReg x b))))) ∧
    (∀ k a, (k, a) ∈ ls ↔ k < 2048 / w ∧ s.me.a.active m k w = true ∧
      a = ((s.aReg x b).toNat + lane w (s.me.a.rV (s.me.a.bV x i)) k * (w / 8)) % 2 ^ 24) ∧
    (coreReady s = false → exec (.vldx g f d b m x i) s = .next s.stallNow) ∧
    (w ≠ 8 → let at' := fun (l : Nat × Nat) => s.resolve s.cur l.2 (w / 8) (w / 8)
      let within := fun (wr : Bool) (l : Nat × Nat) => s.inSets s.cur 0 wr l.2 (w / 8)
      let ps := ls.map fun l => (l.1, (at' l).getD 0)
      (∀ l, ls.find? (fun l => (at' l).isNone) = some l → exec (.vstx g f d b m x i) s = .next (coreTrap s 3 l.2) ∧
        (coreReady s = true → exec (.vldx g f d b m x i) s = .next (coreTrap s 3 l.2))) ∧
      ((∀ l ∈ ls, at' l ≠ none) →
        (∀ l, ls.find? (fun l => !within true l) = some l → exec (.vstx g f d b m x i) s = .next (coreTrap s 4 l.2)) ∧
        (∀ l, ls.find? (fun l => !within false l) = some l → coreReady s = true →
          exec (.vldx g f d b m x i) s = .next (coreTrap s 4 l.2)) ∧
        ((∀ l ∈ ls, within false l = true) → coreReady s = true → s.badMem = [] → ∃ v, exec (.vldx g f d b m x i) s =
            .next ((ps.foldl (fun t p => t.coreCorrect t.cur p.2 (w / 8)) s).landP {
          file := if f = 1 then .w else .v, reg := if f = 1 then s.me.a.bW x d else s.me.a.bV x d
          val := .lanes v (s.me.a.enable m w), left := if ps.all fun p => placeTile p.2 == tileOf s.cur then 5 else 7, slot := 1
          seq := 0, pc := 0 }) ∧
          ∀ p ∈ ps, lane w v p.1 = natOfBytes ((upTo (w / 8)).map fun j => s.coreByte s.cur (p.2 + j))) ∧
        ((∀ l ∈ ls, within true l = true) → exec (.vstx g f d b m x i) s =
          .next (s.gateStore (ps.flatMap fun p => cellsAt p.2 (bytesOfNat (w / 8)
            (lane w (s.me.a.rVec (s.me.a.dataVW f x d)) p.1)))))))

/-- Vector, gather and scatter accesses, with their bounds and set traps (R99, R220, R224, R225). That the set check of a masked `vst`
covers the whole row is the model's choice (log 119). -/
def Obligations.VectorAndIndexedAccess : Prop :=
  VectorAccess ∧ IndexedAccess

/-- The spill store and address arithmetic (R226, R227): `sps` is gated and `spl` reads the youngest value, 8 bytes of an s- or
a-register, 256 of a vector; the address forms move the LSA modulo 2^24 and keep every other bit. -/
def Obligations.SpillAndAddresses : Prop :=
  ∀ (g a b d e k o r x i : Nat) (s : State), On s g →
    let keep := fun (y : Word) (n : Nat) => BitVec.ofNat 64 (y.toNat / 2 ^ 24 * 2 ^ 24 + (y.toNat + n) % 2 ^ 24)
    let spilt := fun (n : Nat) => natOfBytes ((upTo n).map fun j => spillByte s.me (o + j))
    exec (.spl g 0 r x o) s = .next (s.landS 1 (s.me.a.bS x r) (BitVec.ofNat 64 (spilt 8)) 1) ∧
    exec (.spl g 1 r x o) s = .next (s.landA 1 (s.me.a.bA x r) (BitVec.ofNat 64 (spilt 8)) 1) ∧
    exec (.spl g 2 r x o) s = .next (s.land 1 .v (s.me.a.bV x r)
      (.lanes (BitVec.ofNat 2048 (spilt 256)) (BitVec.allOnes 2048)) 1) ∧
    exec (.spl g 3 r x o) s = .next (s.land 1 .w (s.me.a.bW x r)
      (.lanes (BitVec.ofNat 2048 (spilt 256)) (BitVec.allOnes 2048)) 1) ∧
    exec (.sps g 0 r x o) s =
      .next (s.gateAdd (.spill (cellsAt o (bytesOfNat 8 (s.me.a.rS (s.me.a.bS x r)).toNat)))) ∧
    exec (.sps g 1 r x o) s =
      .next (s.gateAdd (.spill (cellsAt o (bytesOfNat 8 (s.me.a.rA (s.me.a.bA x r)).toNat)))) ∧
    exec (.sps g 2 r x o) s =
      .next (s.gateAdd (.spill (cellsAt o (bytesOfNat 256 (s.me.a.rV (s.me.a.bV x r)).toNat)))) ∧
    exec (.sps g 3 r x o) s =
      .next (s.gateAdd (.spill (cellsAt o (bytesOfNat 256 (s.me.a.rW (s.me.a.bW x r)).toNat)))) ∧
    exec (.aadd g d a x b) s = .next (s.landA 1 (s.me.a.bA x d) (keep (s.aReg x a) (s.aReg x b).toNat) 1) ∧
    exec (.ashl g d a x b k) s =
      .next (s.landA 1 (s.me.a.bA x d) (keep (s.aReg x a) ((s.aReg x b).toNat * 2 ^ k)) 1) ∧
    (s.me.lt ≠ 1 → i < 2048 → exec (.aaddi g d a x i) s = .next (s.landA 1 (s.me.a.bA x d)
      (keep (s.aReg x a) ((BitVec.ofNat 11 i).signExtend 24).toNat) 1)) ∧
    (s.me.lt = 1 → s.me.lb < 2048 → i < 2048 → exec (.aaddi g d a x i) s = .next (s.landA 1 (s.me.a.bA x d)
      (keep (s.aReg x a) ((BitVec.ofNat 22 (s.me.lb * 2048 + i)).signExtend 24).toNat) 1)) ∧
    exec (.amov g d a x e 0) s = .next (s.landA 1 (s.me.a.bA x d) (s.aReg x a) 1) ∧
    (e < 4 → exec (.amov g d a x e 1) s = .next (s.landA 1 (s.me.a.bA x d)
      ((s.aReg x a &&& ~~~(3#64 <<< 24)) ||| (BitVec.ofNat 64 e <<< 24)) 1))

/-- The checks of the queue forms (R213, R228 to R231): what a binding must hold, field by field, and what it then is; a slot of a bound
handle that is not attached, below NSL, with the access within it; an advance by 1 to NSL slots of a handle of its role; a `qstat` of at
most NSL slots; and when an acquire can take its counts (R214). A BASE which is no multiple of the slot size fails: the model's reading
(log 98, DEDUCED). -/
def Sys2Proof.Claims.QueueChecks : Prop :=
  ∀ (s : State) (a b : Word) (h : QBind) (y : Ctx) (f k o n q role : Nat),
    (let x := fun (lo n : Nat) => a.toNat / 2 ^ lo % 2 ^ n
     let nsl := b.toNat % 2 ^ 16
     let slot := 2 ^ (x 35 4 + 3)
     newBinding s a b = if x 24 11 = 0 ∧ x 56 8 = 0 ∧ x 41 1 = 0 ∧ x 39 2 ≠ 3 ∧ x 35 4 < 14 ∧ 1 ≤ nsl ∧ nsl ≤ 4096 ∧
         x 0 24 % slot = 0 ∧ s.resolve s.cur (x 0 24) (nsl * slot) 1 ≠ none
       then some { base := x 0 24, sz := x 35 4, role := x 39 2, wflag := x 42 5, peer := x 47 4, pflag := x 51 5, nsl := nsl }
       else none) ∧
    (slotOk h f k o = true ↔ h.role ≠ 0 ∧ h.arr = false ∧ k < h.nsl ∧ (o + 1) * (if f < 2 then 8 else 256) ≤ 2 ^ (h.sz + 3)) ∧
    (advOk h role n = true ↔ h.role = role ∧ h.arr = false ∧ 1 ≤ n ∧ n ≤ h.nsl) ∧
    (statOk h k = true ↔ h.role ≠ 0 ∧ h.arr = false ∧ k ≤ h.nsl) ∧
    (y.canAcquire q n = true ↔ n ≤ (vget y.a.qs q).held + (vget y.flags (vget y.a.qs q).wflag).toNat)

/-- Queue forms and flags (R228 to R233, R214, R99): a binding governs from the next bundle; an access reads or gates the slot its handle
names once its count is taken; an advance moves the pointer at the end of its issue cycle (R51) and gates the post to the peer;
`qstat` reports; a form waits till its count can be taken; where a check fails it takes the bounds trap with detail BASE, for a slot
outside the allocation or the sets the trap of a core access, for a peer not in the gang that of a post; `fpost` is gated, `fset` acts
at once. That a BASE which is no multiple of the slot size is a bounds fault is the model's reading (log 98), and that the fault of a
`qbind` of an attached handle names the BASE of the new binding is its choice (log 113). -/
def Obligations.QueuesAndFlags : Prop :=
  QueueChecks ∧ ∀ (g q f d k o n a b x c p : Nat) (s : State), On s g →
    let h := s.handle q
    let traps := fun (i : Instr) => exec i s = .next (coreTrap s 3 h.base)
    let lsa := h.slotLsa k + o * queueBytes f
    (newBinding s (s.me.a.rA a) (s.me.a.rA b) = none →
      exec (.qbind g q a b) s = .next (coreTrap s 3 (bits (s.me.a.rA a).toNat 0 24))) ∧
    (slotOk h f k o = true → s.me.canAcquire q (k + 1) = false →
      exec (.qst g q f d k o) s = .next s.stallNow ∧ exec (.qld g q f d k o) s = .next s.stallNow) ∧
    (coreReady s = false → exec (.qld g q f d k o) s = .next s.stallNow) ∧
    (slotOk h f k o = true → s.me.canAcquire q (k + 1) = true →
      (s.resolve s.cur lsa (queueBytes f) (queueBytes f) = none → exec (.qst g q f d k o) s = .next (coreTrap s 3 lsa) ∧
        (coreReady s = true → exec (.qld g q f d k o) s = .next (coreTrap s 3 lsa))) ∧
      (s.resolve s.cur lsa (queueBytes f) (queueBytes f) = some p →
        (s.inSets s.cur 0 true lsa (queueBytes f) = false → exec (.qst g q f d k o) s = .next (coreTrap s 4 lsa)) ∧
        (s.inSets s.cur 0 false lsa (queueBytes f) = false → coreReady s = true →
          exec (.qld g q f d k o) s = .next (coreTrap s 4 lsa)))) ∧
    (advOk h 1 n = false → traps (.qadvP g q n)) ∧ (advOk h 2 n = false → traps (.qadvC g q n)) ∧
    (statOk h k = false → traps (.qstat g q d k)) ∧
    (∀ i, (i = .qadvP g q n ∧ advOk h 1 n = true) ∨ (i = .qadvC g q n ∧ advOk h 2 n = true) →
      (s.me.canAcquire q n = false → exec i s = .next s.stallNow) ∧
      ∀ e, s.me.canAcquire q n = true → postTarget s h.peer = .error e → exec i s = .next (coreTrap s 3 e)) ∧
    (statOk h k = true → s.me.canAcquire q k = false → exec (.qstat g q d k) s = .next s.stallNow) ∧
    (∀ y, h.arr = false → newBinding s (s.me.a.rA a) (s.me.a.rA b) = some y →
      exec (.qbind g q a b) s = .next (s.atEnd (.bind q y))) ∧
    (h.arr = true → exec (.qbind g q a b) s = .next (coreTrap s 3 (bits (s.me.a.rA a).toNat 0 24))) ∧
    (slotOk h f k o = true → s.me.canAcquire q (k + 1) = true →
      Reaches s true (h.slotLsa k + o * queueBytes f) (queueBytes f) (queueBytes f) p →
      exec (.qst g q f d k o) s = .next ((s.updMe fun y => y.acquire q (k + 1)).gateStore
        (cellsAt p (queueSource s.me.a f d)))) ∧
    (slotOk h f k o = true → s.me.canAcquire q (k + 1) = true → coreReady s = true → f < 4 →
      Reaches s false (h.slotLsa k + o * queueBytes f) (queueBytes f) (queueBytes f) p →
      ∃ v bad, exec (.qld g q f d k o) s =
          .next (((s.updMe fun y => y.acquire q (k + 1)).coreCorrect s.cur p (queueBytes f)).landP {
        file := if f = 0 then .a else if f = 1 then .s else if f = 2 then .v else .w, reg := d, val := v
        left := if placeTile p = tileOf s.cur then 5 else 7, slot := 1, seq := 0, pc := 0, bad := bad }) ∧
        let r := natOfBytes ((upTo (queueBytes f)).map fun i => s.coreByte s.cur (p + i))
        v = if f < 2 then .word (BitVec.ofNat 64 r) else .lanes (BitVec.ofNat 2048 r) (BitVec.allOnes 2048)) ∧
    (slotOk h f k o = false → traps (.qst g q f d k o) ∧ (coreReady s = true → traps (.qld g q f d k o))) ∧
    (∀ y : Ctx, let k := vget y.a.qs q
      (n ≤ k.held → y.acquire q n = y) ∧
      (k.held < n → y.canAcquire q n = true → vget (y.acquire q n).a.qs q = { k with held := n } ∧
        (vget (y.acquire q n).flags k.wflag).toNat = (vget y.flags k.wflag).toNat - (n - k.held))) ∧
    (∀ i, (i = .qadvP g q n ∧ advOk h 1 n = true) ∨ (i = .qadvC g q n ∧ advOk h 2 n = true) →
      s.me.canAcquire q n = true → postTarget s h.peer = .ok c →
      let t := s.updMe fun y => y.acquire q n
      let k := { h with ptr := (h.ptr + n) % h.nsl, held := max h.held n - n }
      exec i s = .next ((t.atEnd (.bind q k)).gateAdd
        (.post c h.pflag n s.me.scope s.me.opSeq (s.me.a.fencesFor 0)))) ∧
    (statOk h k = true → s.me.canAcquire q k = true →
      ∃ t, exec (.qstat g q d k) s = .next t ∧ t = (s.updMe fun y => y.acquire q k).landA 1 d
        (BitVec.ofNat 64 (h.slotLsa 0 % 2 ^ 24 + max k h.held * 2 ^ 32 + h.ptr * 2 ^ 48)) 1) ∧
    (postTarget s a = .ok c → exec (.fpost g a f n) s = .next (s.gateAdd
      (.post c f (n + 1) s.me.scope s.me.opSeq (s.me.a.fencesFor 0)))) ∧
    (∀ e, postTarget s a = .error e → exec (.fpost g a f n) s = .next (coreTrap s 3 e)) ∧
    exec (.fset g f a x) s = .next (s.updMe fun y => { y with
      flags := vput y.flags f (BitVec.ofNat 16 (s.aReg x a).toNat) })

/-- Atomics and route counters at issue (R217, R234, R235): each is sent to its cistern's unit with its operands cut to the word's
size, `c.atom` rises, and the old value is to land after twelve issue cycles; words of less than 4 bytes, words and snapshots outside
one allocation or misaligned, and counters past 63, or not granted, take the bounds trap. -/
def Obligations.AtomicsAreSent : Prop :=
  ∀ (g d a b c n x m : Nat) (s : State), On s g → atomReady s = true →
    let r := s.aReg x a
    let w := 2 ^ esOf r
    let y := (s.aReg x b).toNat % 2 ^ (8 * w)
    let z := (s.aReg x c).toNat % 2 ^ (8 * w)
    let sent := fun (k : AtomKind) (p y z : Nat) =>
      (s.sendAtom k p w y z (lsaOf r)).land 1 .a (s.me.a.bA x d) (.atomic s.me.opSeq 0) 12
    let z0 := (s.aReg x 0).toNat % 2 ^ (8 * w)
    (∀ p, 2 ≤ esOf r → Reaches s true (lsaOf r) w w p →
      exec (.atomAdd g d a b x) s = .next (sent .add p y z0) ∧
      exec (.atomMin g d a b 0 x) s = .next (sent .minS p y z0) ∧ exec (.atomMin g d a b 1 x) s = .next (sent .minU p y z0) ∧
      exec (.atomMax g d a b 0 x) s = .next (sent .maxS p y z0) ∧ exec (.atomMax g d a b 1 x) s = .next (sent .maxU p y z0) ∧
      exec (.atomXchg g d a b x) s = .next (sent .xchg p y z0) ∧ exec (.atomCas g d a b c x) s = .next (sent .cas p y z) ∧
      exec (.atomIncb g d a n c x) s = .next (((sent .incb p ((s.aReg x 0).toNat % 2 ^ (8 * w)) z).land 1 .p n
        (.atomic s.me.opSeq 1) 12).land 1 .p (n + 1) (.atomic s.me.opSeq 2) 12)) ∧
    (esOf r < 2 ∨ s.resolve s.cur (lsaOf r) w w = none → ∀ i ∈ [Instr.atomAdd g d a b x, .atomMin g d a b m x,
        .atomMax g d a b m x, .atomXchg g d a b x, .atomCas g d a b c x, .atomIncb g d a n c x],
      exec i s = .next (coreTrap s 3 (lsaOf r))) ∧
    (let k := (s.aReg x c).toNat
     (k < 64 → hasGrant s = true →
       exec (.rcIncReg g c b x) s = .next (s.sendAtom (.rcInc k) 0 4 ((s.aReg x b).toNat % 2 ^ 32) 0 0) ∧
       exec (.rcIncImm g c x m) s = .next (s.sendAtom (.rcInc k) 0 4 m 0 0)) ∧
     (64 ≤ k → exec (.rcIncReg g c b x) s = .next (coreTrap s 3 k) ∧ exec (.rcIncImm g c x m) s = .next (coreTrap s 3 k)) ∧
     (k < 64 → hasGrant s = false →
       exec (.rcIncReg g c b x) s = .next (coreTrap s 3 0) ∧ exec (.rcIncImm g c x m) s = .next (coreTrap s 3 0))) ∧
    (∀ p, Reaches s true (lsaOf r) 256 256 p →
      (hasGrant s = true → exec (.rcSnap g a x) s = .next (s.sendAtom .rcSnap p 256 0 0 (lsaOf r))) ∧
      (hasGrant s = false → exec (.rcSnap g a x) s = .next (coreTrap s 3 0))) ∧
    (s.resolve s.cur (lsaOf r) 256 256 = none → exec (.rcSnap g a x) s = .next (coreTrap s 3 (lsaOf r)))

/-- What the atomic unit does (R88, R217, R218, R234): it takes the oldest atomic and keeps the others, once the released posts which the
atomic's context issued before it have taken effect; it replaces the word by the new value, but for a failed `incb`, and answers the old
value to the context's pending writes; the counters of a cistern saturate, and a snapshot stores all 64 and clears them. The model's
readings: that posts hold back later atomics (log 88, DEDUCED), and that a word whose granule is uncorrectable is replaced as it was
read (log 118, DESIGN CHOICE). -/
def Obligations.AtomicUnitPerforms : Prop :=
  (∀ (w old y z : Nat), 0 < w → old < 2 ^ w → y < 2 ^ w →
    atomNew .add w old y z = ((BitVec.ofNat w old + BitVec.ofNat w y).toNat, true) ∧
    atomNew .minS w old y z = (if (BitVec.ofNat w y).slt (BitVec.ofNat w old) then y else old, true) ∧
    atomNew .maxS w old y z = (if (BitVec.ofNat w old).slt (BitVec.ofNat w y) then y else old, true) ∧
    atomNew .minU w old y z = (min old y, true) ∧ atomNew .maxU w old y z = (max old y, true) ∧
    atomNew .xchg w old y z = (y, true) ∧ atomNew .cas w old y z = (if old = z then y else old, true) ∧
    atomNew .incb w old y z = if old < z then (old + 1, true) else (old, false)) ∧
  (∀ (x : Ctx) (id old : Nat) (ok : Bool) (bad : Option Nat), let y := x.answerAtom id old ok bad
    y.cAtom = minusSat x.cAtom 1 ∧ y.a.pend = x.a.pend.map (fun p => p.answer id old ok bad) ∧
    y.sh.pend = x.sh.pend.map (fun p => p.answer id old ok bad) ∧
    { y with a := { y.a with pend := x.a.pend }, sh := { y.sh with pend := x.sh.pend }, cAtom := x.cAtom } = x ∧
    ∀ p : Pend, (∀ i w, p.val = .atomic i w → p.answer id old ok bad = if i ≠ id then p else { p with
        val := if w = 0 then .word (BitVec.ofNat 64 old) else .bit (if w = 1 then ok else !ok), bad := bad }) ∧
      ((∀ i w, p.val ≠ .atomic i w) → p.answer id old ok bad = p)) ∧
  (∀ (s : State), (s.cis s.arg.n).atoms = [] → exec .atomicPerform s = .next s) ∧
  (∀ (s : State) (a : Atom) (r : List Atom), (s.cis s.arg.n).atoms = a :: r → ¬ postsOver s a.c a.seq →
    exec .atomicPerform s = .next s) ∧
  ∀ (s : State) (a : Atom) (r : List Atom), (s.cis s.arg.n).atoms = a :: r → postsOver s a.c a.seq → ∃ t,
    exec .atomicPerform s = .next t ∧
    (t.cis s.arg.n).atoms = r.filter (fun b => !(b.c == a.c && b.id == a.id)) ∧
    (∀ c, c % 384 ≠ a.c % 384 → t.ctx c = s.ctx c) ∧
    (let rcBytes := (s.cis s.arg.n).rc.toList.flatMap fun v => bytesOfNat 4 v.toNat
     (∀ n, a.kind = .rcInc n → t.mem = s.mem ∧ t.ctx a.c = (s.ctx a.c).answerAtom a.id 0 true none ∧
       (vget (t.cis s.arg.n).rc n).toNat = min ((vget (s.cis s.arg.n).rc n).toNat + a.y) (2 ^ 32 - 1) ∧
       ∀ k, k % 64 ≠ n % 64 → vget (t.cis s.arg.n).rc k = vget (s.cis s.arg.n).rc k) ∧
     (a.kind = .rcSnap → (∀ n, vget (t.cis s.arg.n).rc n = 0) ∧ t.ctx a.c = (s.ctx a.c).answerAtom a.id 0 true none ∧
       t.mem = memWrites s.mem (cellsAt a.place rcBytes))) ∧
    ((∀ n, a.kind ≠ .rcInc n) → a.kind ≠ .rcSnap →
      let old := s.readNat a.place a.size
      let new := atomNew a.kind (8 * a.size) old a.y a.z
      t.ctx a.c = (s.ctx a.c).answerAtom a.id old new.2 (if s.badIn a.place a.size then some a.lsa else none) ∧
      t.mem = if a.kind = .incb ∧ new.2 = false then s.mem
        else memWrites s.mem (cellsAt a.place (bytesOfNat a.size new.1)))

/-! ### Siphon commands -/

namespace Sys2Proof.Claims

/-- A command form is accepted when its operands are good, its local sides lie in an allocation and in the sets, its target is in the
gang, a pending record is free and its sides translate; it is turned away with the siphon trap, cause 5, when its operands are bad,
with the bounds trap when a local side or its target is, with the set trap when a local side lies outside the sets, with the siphon
trap when a side does not translate; with no free record it stalls. The index list of a gather or scatter is read before that, as a
core-path load reads: after what an `xf` to core names (R87, R271), correcting its single-bit errors (R219). -/
def SiphonForm (g : Nat) (i : Instr) (form : Nat) (dr : State → Option Draft) : Prop :=
  ∀ s, On s g → s.me.draft = none →
    (dr s = none → exec i s =
      .next (takeTrap { cause := 6, slot := some 1, pc := s.me.pc, detail := 5 * 2 ^ 56 } s)) ∧
    ∀ d, dr s = some d → let ready := d.list = none ∨ coreReady s = true
      d.cmd.form = form ∧
      (¬ ready → exec i s = .next s.stallNow) ∧
      (∀ lsa, ready → d.badSide s = some lsa → exec i s = .next (coreTrap s 3 lsa)) ∧
      (∀ k, ready → d.badSide s = none → d.cmd.badTarget s = some k → exec i s = .next (coreTrap s 3 k)) ∧
      (ready → d.badSide s = none → d.cmd.badTarget s = none →
        (∀ lsa, d.outside s = some lsa → exec i s = .next (coreTrap s 4 (2 ^ 61 + lsa))) ∧
        (d.outside s = none →
          (32 ≤ s.me.records.length → exec i s = .next (d.readList s).stallNow) ∧
          (s.me.records.length < 32 →
            (∀ sp dp t, (d.finish s).places true s.cur (d.readList s) = .ok sp dp t →
              exec i s = .next (t.takeIn { d.finish s with sPlaces := sp, dPlaces := dp })) ∧
            ∀ k va t, (d.finish s).places true s.cur (d.readList s) = .fail k va t → exec i s = .next (
              if k = 6 then coreTrap t 0x0A (mcDetail 3 t.me.freeIndex) else coreTrap t 6 (k * 2 ^ 56 + va)))))

end Sys2Proof.Claims

/-- The local sides the checks of an acceptance run over, in their order (R242, steps 3 and 4, R99): source before destination, an
indexed form's rows, its list, its skip word; the bounds check fails at the first that lies in no allocation or is misaligned, the
set check at the first that is outside the sets of the siphon path. The pieces of a side with virtual addresses are translated in turn;
the first that fails ends the side, and its walk, where no TLB entry served, has corrected the single-bit errors it met (R391). That a
misaligned index list takes the bounds trap is the model's reading (log 36, DEDUCED). -/
def Sys2Proof.Claims.SiphonSides : Prop :=
  (∀ (c o n va k : Nat) (rev : Revision) (wr noHost : Bool) (r : List (Nat × Nat × Nat)) (s : State),
    s.xlate false c rev va wr = .error k → xlSide c rev wr noHost ((o, n, va) :: r) s = .error (k, va,
      if ((s.tile (tileOf c)).siphonTlb ++ (s.cis (cisOf c)).tlb2).any fun e => e.maps rev.id va && e.serves wr then s
      else s.correctWalk rev.table va)) ∧
  (∀ (s : State) (k : Draft),
    k.badSide s = (k.lsas.find? fun l => (s.resolve s.cur l.1 l.2.1 l.2.2.1).isNone).map Prod.fst ∧
    k.outside s = (k.lsas.find? fun l => !s.inSets s.cur 1 l.2.2.2 l.1 l.2.1).map Prod.fst) ∧
  ∀ (s : State) (d src c x u v o form : Nat) (add : Bool) (k : Draft),
    let n := ((s.sphReg x c 0).extractLsb' 0 27).toNat
    let side := fun (a v : Nat) (wr : Bool) =>
      if v = 1 then ([] : List (Nat × Nat × Nat × Bool)) else [((s.sphReg x a 0).toNat % 2 ^ 24, n, 1, wr)]
    (draftCp s d src c x u v = some k ∨ draftRed s d src c x u v = some k →
      k.lsas = side src u false ++ side d v true ∧ k.list = none) ∧
    (draftFill s d src c x v = some k ∨ draftImm s d src c x v = some k → k.lsas = side d v true ∧ k.list = none) ∧
    (draftPre s src c x = some k → k.lsas = [] ∧ k.list = none) ∧
    (draftAtom s d src c x o = some k → k.lsas = side d 0 true ∧ k.list = none) ∧
    (draftRows s form add src d c x = some k →
      let ix := s.sphReg x c 1
      let count := (ix.extractLsb' 24 13).toNat
      let list := (ix.extractLsb' 0 24).toNat
      let size := if (ix.extractLsb' 37 2).toNat = 2 then 4 else 8
      k.lsas = ((s.sphReg x d 0).toNat % 2 ^ 24, count * n, 1, form == 1) :: (list, count * size, size, false) ::
        (if ix.getLsbD 39 then [((list + count * size) % 2 ^ 24, 4, 1, true)] else []) ∧
      k.list = some (list, count, size, (ix.extractLsb' 40 24).toNat))

/-- Acceptance of the nine command forms (R242, R265 to R272): the operand checks, the index list that waits for what an `xf` names
(R87, R223, R271), the bounds and set checks of each local side in their order (R99), the target of a posted flag, a free record, the
translation. The model's readings: a misaligned index list takes the bounds trap (log 36, DEDUCED), the skip word of a list that ends at
byte 2^24 lies at LSA 0 (log 151, DESIGN CHOICE), and a walk that meets an uncorrectable entry gives a machine check (log 32, DEDUCED). -/
def Obligations.SiphonAcceptance : Prop :=
  SiphonSides ∧ ∀ g d src c x u v t o p,
    SiphonForm g (.sphCp g d src c x u v) 0 (fun s => draftCp s d src c x u v) ∧
    SiphonForm g (.sphGth g d t c x) 1 (fun s => draftRows s 1 false t d c x) ∧
    SiphonForm g (.sphSct g t src c x) 2 (fun s => draftRows s 2 false t src c x) ∧
    SiphonForm g (.sphSctAdd g t src c x) 2 (fun s => draftRows s 2 true t src c x) ∧
    SiphonForm g (.sphRed g d src c x u v) 3 (fun s => draftRed s d src c x u v) ∧
    SiphonForm g (.sphFill g d p c x v) 4 (fun s => draftFill s d p c x v) ∧
    SiphonForm g (.sphAtom g d t c x o) 5 (fun s => draftAtom s d t c x o) ∧
    SiphonForm g (.sphPre g src c x) 7 (fun s => draftPre s src c x) ∧
    SiphonForm g (.sphImm g d p c x v) 9 (fun s => draftImm s d p c x v)

/-- Operands of contiguous commands (R266, R268): a copy needs a zero reserved part of its control word and a length of 1 to 2^26; an
exact add a multiple of 40 of at least 40 and sides of one kind that do not meet; an immediate 1 to 8 bytes. -/
def Sys2Proof.Claims.SiphonOperands : Prop :=
  ∀ (s : State) (d src c x u v : Nat),
    let cw := s.sphReg x c 0
    let n := (cw.extractLsb' 0 27).toNat
    let good := cw.extractLsb' 46 18 = 0 ∧ cw.extractLsb' 27 5 = 0
    let a := sideAddr u (s.sphReg x src 0)
    let b := sideAddr v (s.sphReg x d 0)
    ((draftCp s d src c x u v).isSome ↔ good ∧ 1 ≤ n ∧ n ≤ 2 ^ 26) ∧
    ((draftFill s d src c x v).isSome ↔ good ∧ 1 ≤ n ∧ n ≤ 2 ^ 26) ∧
    ((draftPre s src c x).isSome ↔ good ∧ 1 ≤ n ∧ n ≤ 2 ^ 26) ∧
    ((draftImm s d src c x v).isSome ↔ good ∧ 1 ≤ n ∧ n ≤ 8) ∧
    ((draftRed s d src c x u v).isSome ↔ good ∧ 40 ≤ n ∧ n ≤ 2 ^ 26 ∧ n % 40 = 0 ∧ a % 8 = 0 ∧ b % 8 = 0 ∧
      ¬ (u = v ∧ a < b + n ∧ b < a + n)) ∧
    ∀ k, (draftCp s d src c x u v) = some k → k.cmd.len = n ∧ k.cmd.left = n ∧ k.cmd.total = n ∧ k.cmd.stream = n

/-- Operands of the indexed forms and of the atomic (R270, R272): LEN a multiple of 8 from 8 to 65,536, of 40 too for an adding scatter,
ROWS and N not 0, N at most 4,096 (log 44, DEDUCED), the index size 32 or 64 bits, at most 2^26 bytes, table and rows 8-byte aligned; an
atomic of 4 or 8 bytes, both words aligned to their size. That the reserved bits of the control word are zero is asked of every form
(R266). -/
def Sys2Proof.Claims.IndexedOperands : Prop :=
  ∀ (s : State) (form d t c x o : Nat) (add : Bool),
    let cw := s.sphReg x c 0
    let ix := s.sphReg x c 1
    let n := (cw.extractLsb' 0 27).toNat
    let good := cw.extractLsb' 46 18 = 0 ∧ cw.extractLsb' 27 5 = 0
    let rows := (ix.extractLsb' 40 24).toNat
    let count := (ix.extractLsb' 24 13).toNat
    ((draftRows s form add t d c x).isSome ↔ good ∧ n % 8 = 0 ∧ 8 ≤ n ∧ n ≤ 65536 ∧ (add = true → n % 40 = 0) ∧
      rows ≠ 0 ∧ 1 ≤ count ∧ count ≤ 4096 ∧ 2 ≤ (ix.extractLsb' 37 2).toNat ∧ count * n ≤ 2 ^ 26 ∧
      (s.sphReg x t 0).toNat % 2 ^ 56 % 8 = 0 ∧ (s.sphReg x d 0).toNat % 2 ^ 24 % 8 = 0) ∧
    ((draftAtom s d t c x o).isSome ↔ good ∧ (n = 4 ∨ n = 8) ∧ (s.sphReg x t 0).toNat % 2 ^ 56 % n = 0 ∧
      (s.sphReg x d 0).toNat % 2 ^ 24 % n = 0) ∧
    ∀ k, draftAtom s d t c x o = some k → k.cmd.op = o ∧ k.cmd.opnd = (s.sphReg x c 1).toNat % 2 ^ (8 * n) ∧
      k.cmd.opnd2 = (s.sphReg x c 2).toNat % 2 ^ (8 * n) ∧ k.cmd.total = n

/-- The kind-2 record of a cancelled command whose reads met errors, where it has not been offered (R253, R259): cause 2, the form, the
context, the index, the first address, the count of bytes, step and task. -/
def Sys2Proof.Claims.cancelRecord (s : State) (c : Nat) (r : SphCmd) : Option FRec :=
  match r.errFirst, r.offered with
  | some a, false => some {
      engine := 1 + tileOf c
      bytes := bytesOfNat 1 2 ++ bytesOfNat 1 2 ++ bytesOfNat 2 r.form ++ bytesOfNat 2 c ++ bytesOfNat 2 r.idx ++ bytesOfNat 8 a ++
        bytesOfNat 4 r.errCount ++ bytesOfNat 4 (s.ctx c).step ++ bytesOfNat 4 (s.ctx c).task ++ bytesOfNat 4 0 }
  | _, _ => none

/-- Step 9 of an acceptance, and the two forms that move nothing (R85, R242, R273, R274): a record is taken, `c.sph` rises by one and
`c.byte` by the bytes, the command waits in the gate; `sph.cnl` drops the named committed restartable commands that are not complete,
with their counts: `c.sph` falls by one for each and `c.byte` by what each had left, and the reads of them that met errors are
reported (R259, log 130); a command is complete when its last byte is performed, unless a fault record of it has been refused and is
still to be written (R252, log 121, DEDUCED); `sph.stat` lands its bits after two issue cycles. -/
def Sys2Proof.Claims.SiphonRecords : Prop :=
  (∀ (s : State) (c : Nat) (r : SphCmd), s.sphComplete c r = true ↔ r.stream ≤ r.done ∧ r.left = 0 ∧
    ∀ q ∈ s.records, q.c = some c → q.cmd = some r.order → q.tries = 0) ∧
  (∀ (s : State) (r : SphCmd), let t := s.takeIn r
    t.me.cSph = s.me.cSph + 1 ∧ t.me.cByte = s.me.cByte + BitVec.ofNat 32 r.total ∧
    t.me.records.length = s.me.records.length + 1 ∧ t.me.gate = s.me.gate ++ [.sph s.me.freeIndex] ∧
    t.me.a.lastRec = some s.me.freeIndex ∧ t.mem = s.mem ∧ t = s.setCtx s.cur t.me) ∧
  ∀ (g a l d k x : Nat) (s : State), On s g →
    (∃ t, exec (.sphCnl g a l x) s = .next t ∧
      let goes := fun (r : SphCmd) =>
        (l == 1 || (s.aReg x a).toNat.testBit r.idx) && r.st != .held && r.restartable && !s.sphComplete s.cur r
      let gone := s.me.records.filter goes
      t = { s.setCtx s.cur t.me with records := s.records ++ gone.filterMap (cancelRecord s s.cur) } ∧
      t.me.records = s.me.records.filter (fun r => !goes r) ∧ t.me.cSph.toNat = s.me.cSph.toNat - gone.length ∧
      t.me.cByte.toNat = s.me.cByte.toNat - (gone.map (·.left)).sum ∧
      { t.me with records := s.me.records, cSph := s.me.cSph, cByte := s.me.cByte } = s.me) ∧
    exec (.sphStat g d k x) s = .next (s.landA 1 (s.me.a.bA x d) (BitVec.ofNat 64 (
      if k = 0 then (if s.isDet s.cur then 0 else s.me.recordBits fun r => r.st != .held)
      else if k = 1 then s.me.recordBits fun r => r.st == .held
      else match s.me.a.lastRec with
        | some i => 32 + i % 32
        | none => 0)) 2)

/-- Operand checks of siphon commands, and what an accepted one leaves (R242, R266, R268, R270, R272 to R274). The overlap here is one of
addresses of one kind; that sides which meet only once they are translated are turned away too is the model's reading (log 43). That an
indexed form with N above 4,096 fails its operand check with cause 5 is its reading too (log 44, DEDUCED). When a command is complete,
and what a cancelled one reports, rests on logs 121 and 130. -/
def Obligations.SiphonOperandsAndRecords : Prop :=
  SiphonOperands ∧ IndexedOperands ∧ SiphonRecords

/-! ### Vector instructions -/

namespace Sys2Proof.Claims

/-- Lane results over the active lanes of width `w` into the register of a slot. -/
def lanesLand (s : State) (sl d m w lat : Nat) (f : Nat → Nat × BitVec 7) : State :=
  s.landLanes sl (if sl = 3 then (.w, d) else (.v, d)) w
    ((List.range (2048 / w)).map fun i => if s.me.a.active m i w then some (f i) else none) lat

/-- A source of the V slot (2) or X slot (3), the latch where the field names it. -/
def src (s : State) (sl n : Nat) : Vec := s.srcVec (if sl = 3 then (.w, n) else (.v, n))

/-- An element of a lane as a float operation reads it, inputs flushed as the mode says. -/
def fin (s : State) (t : Nat) (v : Vec) (i : Nat) : FVal :=
  readVal s.env (FTy.ofCode t) (lane (FTy.ofCode t).width v i)

/-- A three-source float form. -/
def FloatForm (sl lat : Nat) (mk : Nat → Nat → Nat → Nat → Nat → Nat → Nat → Instr)
    (f : FEnv → FTy → RMode → FVal → FVal → FVal → Nat × BitVec 7) : Prop :=
  ∀ g d a b m t r s, On s g → exec (mk g d a b m t r) s =
    .next (lanesLand s sl d m (FTy.ofCode t).width lat fun i => f s.env (FTy.ofCode t) (RMode.ofCode s.env.rm r)
      (fin s t (src s sl a) i) (fin s t (src s sl b) i) (fin s t (src s sl d) i))

/-- A one-source float form. -/
def FloatOne (mk : Nat → Nat → Nat → Nat → Nat → Nat → Instr) (f : FEnv → FTy → RMode → FVal → Nat × BitVec 7) : Prop :=
  ∀ g d a m t r s, On s g → exec (mk g d a m t r) s =
    .next (lanesLand s 2 d m (FTy.ofCode t).width 12 fun i => f s.env (FTy.ofCode t) (RMode.ofCode s.env.rm r)
      (fin s t (src s 2 a) i))

/-- A two-source float form on patterns. -/
def PatternForm (sl : Nat) (mk : Nat → Nat → Nat → Nat → Nat → Nat → Instr)
    (f : FEnv → FTy → Nat → Nat → Nat × BitVec 7) : Prop :=
  ∀ g d a b m t s, On s g → exec (mk g d a b m t) s =
    .next (lanesLand s sl d m (FTy.ofCode t).width 4 fun i => f s.env (FTy.ofCode t)
      (lane (FTy.ofCode t).width (src s sl a) i) (lane (FTy.ofCode t).width (src s sl b) i))

/-- A form that changes the sign bit of a pattern of `w` bits only, raising no flag. -/
def SignForm (sl : Nat) (mk : Nat → Nat → Nat → Nat → Nat → Instr) (f : (w : Nat) → BitVec w → BitVec w) : Prop :=
  ∀ g d a m t s, On s g → let w := (FTy.ofCode t).width
    exec (mk g d a m t) s =
      .next (lanesLand s sl d m w 4 fun i => ((f w (BitVec.ofNat w (lane w (src s sl a) i))).toNat, 0))

/-- An integer lane form on lanes of 8, 16, 32 or 64 bits; `sg` is the signed order. -/
def LaneForm (sl lat : Nat) (mk : Nat → Nat → Nat → Nat → Nat → Nat → Nat → Instr)
    (f : (w : Nat) → Bool → BitVec w → BitVec w → BitVec w) : Prop :=
  ∀ g d a b m n k s, On s g → k < 4 → let w := 2 ^ (k + 3)
    exec (mk g d a b m n k) s = .next (lanesLand s sl d m w lat fun i =>
      ((f w (n == 0) (BitVec.ofNat w (lane w (src s sl a) i)) (BitVec.ofNat w (lane w (src s sl b) i))).toNat, 0))

/-- The order a lane form uses. -/
def below (w : Nat) (sg : Bool) (x y : BitVec w) : Bool := if sg then x.slt y else x.ult y

/-- The eleven integer forms of a slot. -/
def IntegerLanes (sl : Nat) (add sub mul min max and or xor shl shr sha :
    Nat → Nat → Nat → Nat → Nat → Nat → Nat → Instr) : Prop :=
  LaneForm sl 2 add (fun _ _ x y => x + y) ∧ LaneForm sl 2 sub (fun _ _ x y => x - y) ∧
  LaneForm sl 4 mul (fun _ _ x y => x * y) ∧ LaneForm sl 2 min (fun w sg x y => if below w sg x y then x else y) ∧
  LaneForm sl 2 max (fun w sg x y => if below w sg x y then y else x) ∧ LaneForm sl 2 and (fun _ _ x y => x &&& y) ∧
  LaneForm sl 2 or (fun _ _ x y => x ||| y) ∧ LaneForm sl 2 xor (fun _ _ x y => x ^^^ y) ∧
  LaneForm sl 2 shl (fun w _ x y => x <<< (y.toNat % w)) ∧ LaneForm sl 2 shr (fun w _ x y => x >>> (y.toNat % w)) ∧
  LaneForm sl 2 sha (fun w _ x y => x.sshiftRight (y.toNat % w))

end Sys2Proof.Claims

/-- Float arithmetic of both vector slots (R186 to R188): each active lane's sources, flushed as the mode says, go to one rounded
operation; results land with their flags after 4 issue cycles, division and the one-source functions after 12. -/
def Sys2Proof.Claims.FloatArithmetic : Prop :=
  FloatForm 2 4 .ffma (fun v t r x y z => fopFma v t r false x y z) ∧
  FloatForm 2 4 .ffms (fun v t r x y z => fopFma v t r false x y z.neg) ∧
  FloatForm 2 4 .fnma (fun v t r x y z => fopFma v t r true x y z) ∧
  FloatForm 2 4 .fadd (fun v t r x y _ => fopAdd v t r x y) ∧
  FloatForm 2 4 .fsub (fun v t r x y _ => fopAdd v t r x y.neg) ∧
  FloatForm 2 4 .fmul (fun v t r x y _ => fopMul v t r x y) ∧
  FloatForm 2 12 .fdiv (fun v t r x y _ => fopDiv v t r x y) ∧
  FloatForm 3 4 .ffmaW (fun v t r x y z => fopFma v t r false x y z) ∧
  FloatForm 3 4 .ffmsW (fun v t r x y z => fopFma v t r false x y z.neg) ∧
  FloatForm 3 4 .fnmaW (fun v t r x y z => fopFma v t r true x y z) ∧
  FloatForm 3 4 .faddW (fun v t r x y _ => fopAdd v t r x y) ∧
  FloatForm 3 4 .fsubW (fun v t r x y _ => fopAdd v t r x y.neg) ∧
  FloatForm 3 4 .fmulW (fun v t r x y _ => fopMul v t r x y) ∧
  FloatOne .fsqrt fopSqrt ∧ FloatOne .frcp fopRcp ∧ FloatOne .frsq fopRsq ∧ FloatOne .fexp2 fopExp2 ∧
  FloatOne .flog2 fopLog2

/-- Minimum, maximum, scaling and sign forms of both vector slots (R189 to R191): `fabs` clears and `fneg` flips the sign bit of any
pattern, NaN or not. -/
def Sys2Proof.Claims.FloatPatterns : Prop :=
  PatternForm 2 .fmin (fun v t a b => fopMinMax v t false a b) ∧
  PatternForm 2 .fmax (fun v t a b => fopMinMax v t true a b) ∧
  PatternForm 2 .fscl (fun v t a b => fopScl v t v.rm (readVal v t a) (BitVec.ofNat t.width b).toInt) ∧
  PatternForm 3 .fminW (fun v t a b => fopMinMax v t false a b) ∧
  PatternForm 3 .fmaxW (fun v t a b => fopMinMax v t true a b) ∧
  PatternForm 3 .fsclW (fun v t a b => fopScl v t v.rm (readVal v t a) (BitVec.ofNat t.width b).toInt) ∧
  SignForm 2 .fabs (fun w x => x &&& ~~~BitVec.twoPow w (w - 1)) ∧
  SignForm 2 .fneg (fun w x => x ^^^ BitVec.twoPow w (w - 1)) ∧
  SignForm 3 .fabsW (fun w x => x &&& ~~~BitVec.twoPow w (w - 1)) ∧
  SignForm 3 .fnegW (fun w x => x ^^^ BitVec.twoPow w (w - 1))

/-- Float lanes of both vector slots (R186 to R191). -/
def Obligations.FloatLanes : Prop :=
  FloatArithmetic ∧ FloatPatterns

/-- Integer lanes of both vector slots (R194, R186): modulo 2^w, with shifts by y mod w. -/
def Obligations.IntegerLaneForms : Prop :=
  IntegerLanes 2 .iadd .isub .imul .imin .imax .iand .ior .ixor .ishl .ishr .isha ∧
  IntegerLanes 3 .iaddW .isubW .imulW .iminW .imaxW .iandW .iorW .ixorW .ishlW .ishrW .ishaW

namespace Sys2Proof.Claims

/-- What a condition of R193 says of two ordered values: eq, ne, lt, le, gt, ge, un, ord. -/
def condOf (c : Nat) (o : Ordering) : Bool :=
  match c with
  | 0 => o == .eq
  | 1 => o != .eq
  | 2 => o == .lt
  | 3 => o != .gt
  | 4 => o == .gt
  | 5 => o != .lt
  | 6 => false
  | _ => true

/-- The float conditions (R193): numbers and infinities by their order, −0 equal to +0, without a flag; with a NaN only ne and un are
true, and NV is raised for any NaN by lt, le, gt and ge, for a signalling one by all. -/
def FloatConditions : Prop :=
  ∀ (c : Nat) (x y : FVal) (n k : Bool) (m l : Nat) (e f : Int), c < 8 →
    (x.isNan = true ∨ y.isNan = true → condF c x y =
      (c == 1 || c == 6, if (2 ≤ c ∧ c ≤ 5) ∨ x = .nan true ∨ y = .nan true then fNV else 0)) ∧
    condF c (.fin n m e) (.fin k l f) = (condOf c (compare (unitsOf n m e (min e f)) (unitsOf k l f (min e f))), 0) ∧
    condF c (.inf n) (.fin k l f) = (condOf c (if n then .lt else .gt), 0) ∧
    condF c (.fin k l f) (.inf n) = (condOf c (if n then .gt else .lt), 0) ∧
    condF c (.inf n) (.inf k) = (condOf c (if n = k then .eq else if n then .lt else .gt), 0)

end Sys2Proof.Claims

/-- Conversions and compares (R192, R193): lane i of a conversion comes from lane i, zero past the source's lanes; a compare delivers
a mask in which a unit of two 8-bit lanes is set when both hold, and lanes that are not active give 0 and no flag. That the type code of
`icmp` names signed and unsigned types as R43 lists them is the model's reading (log 18). -/
def Obligations.ConversionsAndCompares : Prop :=
  FloatConditions ∧ ∀ (g d a b e k m r t c : Nat) (s : State), On s g →
    let dt := ETy.ofCode e
    let st := ETy.ofCode k
    let cvt := fun (sl i : Nat) => if i < 2048 / st.width
      then convert s.env dt st (lane st.width (src s sl a) i) (RMode.ofCode s.env.rm r) else (0, 0)
    exec (.fcvt g d a e k m r) s = .next (lanesLand s 2 d m dt.width 3 (cvt 2)) ∧
    exec (.fcvtW g d a e k m r) s = .next (lanesLand s 3 d m dt.width 3 (cvt 3)) ∧
    (t < 8 → c < 6 → let w := 2 ^ (t % 4 + 3)
      ∃ z, exec (.icmp g e a b m t c) s =
          .next (s.landP { file := .m, reg := e, val := .mask z, left := 2, slot := 2, seq := 0, pc := 0 }) ∧
        let holds := fun (i : Nat) => s.me.a.active m i w &&
          let x := BitVec.ofNat w (lane w (src s 2 a) i)
          let y := BitVec.ofNat w (lane w (src s 2 b) i)
          if c = 0 then x == y else if c = 1 then x != y else if c = 2 then below w (t < 4) x y
          else if c = 3 then !below w (t < 4) y x else if c = 4 then below w (t < 4) y x else !below w (t < 4) x y
        ∀ i, i < 128 → z.getLsbD i =
          if w = 8 then holds (2 * i) && holds (2 * i + 1) else decide (i < 2048 / w) && holds i) ∧
    ∃ z fl exc ln, exec (.fcmp g e a b m t c) s = .next (s.landP {
        file := .m, reg := e, val := .mask z, left := 2, slot := 2, seq := 0, pc := 0, flags := fl, exc := exc, lane := ln }) ∧
      let w := (FTy.ofCode t).width
      let res := fun (i : Nat) => condF c (fin s t (src s 2 a) i) (fin s t (src s 2 b) i)
      let holds := fun (i : Nat) => s.me.a.active m i w && (res i).1
      (∀ i, i < 128 → z.getLsbD i =
        if w = 8 then holds (2 * i) && holds (2 * i + 1) else decide (i < 2048 / w) && holds i) ∧
      (∀ j, j < 7 → fl.getLsbD j =
        (List.range (2048 / w)).any fun i => s.me.a.active m i w && (res i).2.getLsbD j) ∧
      exc = enabledExc s.me.a.nmr fl

/-- The class codes (R203): an infinity 0 or 7, a normal number 1 or 6, a subnormal one 2 or 5, a zero 3 or 4, a NaN 8 or 9, the lower
code of the first four pairs for a negative sign; no e4m3 pattern is an infinity or signalling. -/
def Sys2Proof.Claims.ClassCodes : Prop :=
  (∀ (t : FTy) (x m : Nat) (n : Bool) (e : Int), x < 2 ^ t.width →
    (t.val x = .nan n → classOf t x = if n then 8 else 9) ∧ (t.val x = .inf n → classOf t x = if n then 0 else 7) ∧
    (t.val x = .fin n 0 e → classOf t x = if n then 3 else 4) ∧
    (t.val x = .fin n m e → m ≠ 0 → classOf t x = if cmpDyadic m e 1 t.emin = .lt then (if n then 2 else 5)
      else if n then 1 else 6)) ∧
  classOf .e4m3 0x7F = 9 ∧ classOf .e4m3 0xFF = 9 ∧ ∀ x, x < 256 → classOf .e4m3 x ∉ [0, 7, 8]

/-- Moving lanes (R196 to R198, R201 to R203): select, permute, broadcast, move, the positions of nonzero lanes, packing, classes. -/
def Sys2Proof.Claims.LaneMoves : Prop :=
  ∀ (g d a b m k l i e f t : Nat) (s : State), On s g → k < 4 →
    let w := 2 ^ (k + 3)
    let x := src s 2 a
    let y := src s 2 b
    let whole := fun (v : Vec) (lat : Nat) => s.land 2 .v d (.lanes v (BitVec.allOnes 2048)) lat
    exec (.vsel g d a m k) s = .next (s.land 2 .v d (.lanes x (s.me.a.enable m w)) 2) ∧
    exec (.vmov g d a m k) s = .next (whole (x &&& s.me.a.enable m w) 1) ∧
    (∃ v, exec (.vperm g d a b k) s = .next (whole v 3) ∧ ∀ j, j < 2048 / w →
      lane w v j = if lane w y j < 2048 / w then lane w x (lane w y j) else 0) ∧
    (∃ v, exec (.vbcLane g d k a l) s = .next (whole v 2) ∧ ∀ j, j < 2048 / w → lane w v j = lane w x l) ∧
    (s.me.lt ≠ 2 → i < 1024 → ∃ v, exec (.vbcImm g d k 0 i) s = .next (whole v 2) ∧
      ∀ j, j < 2048 / w → lane w v j = ((BitVec.ofNat 10 i).signExtend 64).toNat % 2 ^ w) ∧
    (s.me.lt ≠ 2 → i < 1024 → 1 ≤ k → ∃ v, exec (.vbcImm g d k 1 i) s = .next (whole v 2) ∧
      ∀ j, j < 2048 / w → lane w v j = ((BitVec.ofNat 10 i).signExtend 16).toNat * 2 ^ (w - 16)) ∧
    (s.me.lt = 2 → s.me.lb < 2048 → i < 1024 → ∃ v, exec (.vbcImm g d k 0 i) s = .next (whole v 2) ∧
      ∀ j, j < 2048 / w → lane w v j = ((BitVec.ofNat 21 (s.me.lb * 1024 + i)).signExtend 64).toNat % 2 ^ w) ∧
    (s.me.lt = 2 → s.me.lb < 2048 → i < 1024 → 1 ≤ k → ∃ v, exec (.vbcImm g d k 1 i) s = .next (whole v 2) ∧
      ∀ j, j < 2048 / w → lane w v j = (s.me.lb * 1024 + i) % 2 ^ 16 * 2 ^ (w - 16)) ∧
    (let idx := (List.range (2048 / w)).filter fun j => s.me.a.active m j w &&
       (if f = 1 then lane w x j % 2 ^ (w - 1) != 0 else lane w x j != 0)
     ∃ v, exec (.vnzs g d a m e k f) s = .next ((whole v 6).land 2 .m e (.mask (BitVec.ofNat 128 (2 ^ idx.length - 1))) 6) ∧
       ∀ j, j < 128 → lane 16 v j = idx.getD j 0) ∧
    (let u := if k = 0 then 16 else w
     let us := (List.range (2048 / u)).filter fun j => m == 0 || (s.me.a.rM m).getLsbD j
     ∃ v, exec (.vcmpk g d a m e k) s = .next ((whole v 6).land 2 .m e (.mask (BitVec.ofNat 128 (2 ^ us.length - 1))) 6) ∧
       ∀ j, j < 2048 / u → lane u v j = (us[j]?.map fun n => lane u x n).getD 0) ∧
    exec (.fcls g d a m t) s = .next (lanesLand s 2 d m (FTy.ofCode t).width 2 fun j =>
      (classOf (FTy.ofCode t) (lane (FTy.ofCode t).width x j), 0))

namespace Sys2Proof.Claims

/-- The fixed pairwise order of R199 as a tree over the lanes: `n` levels above lane `i`; an absent side gives the other. -/
def pairwise (op : Nat → Nat → Nat × BitVec 7) (leaf : Nat → Option Nat × BitVec 7) : Nat → Nat → Option Nat × BitVec 7
  | 0, i => leaf i
  | n + 1, i =>
    let x := pairwise op leaf n (2 * i)
    let y := pairwise op leaf n (2 * i + 1)
    match x.1, y.1 with
    | some u, some z => (some (op u z).1, x.2 ||| y.2 ||| (op u z).2)
    | some u, none => (some u, x.2 ||| y.2)
    | none, z => (z, x.2 ||| y.2)

/-- A lane as a float reduction reads it: absent when inactive; a signalling NaN raises NV and is then quiet. -/
def redLeaf (s : State) (t : FTy) (m : Nat) (v : Vec) (i : Nat) : Option Nat × BitVec 7 :=
  if s.me.a.active m i t.width then
    if readVal s.env t (lane t.width v i) = .nan true then (some t.cnan, fNV)
    else (some (flushBits s.env t (lane t.width v i)), 0)
  else (none, 0)

/-- What a float reduction delivers: the tree's value, a NaN as the canonical one, or the identity. -/
def redFloat (s : State) (t : FTy) (m : Nat) (v : Vec) (op : Nat → Nat → Nat × BitVec 7) (identity : Nat) : Nat × BitVec 7 :=
  let x := pairwise op (redLeaf s t m v) (Nat.log2 (2048 / t.width)) 0
  (match x.1 with
    | some y => if (t.val y).isNan then t.cnan else y
    | none => identity, x.2)

end Sys2Proof.Claims

/-- The reductions (R199, R200): one result in lane 0, zeros elsewhere, after 8 issue cycles (`vexpmax` after 6). Over integer types
`vsum` is the sum of the active lanes modulo 2^w, and `vmaxr` and `vminr` the greatest and least of them in the type's order; over
float types the active lanes are combined pairwise in the fixed order; with no active lane the result is the identity. `vexpmax`
gives the greatest exponent of the finite nonzero lanes, and which classes it met. -/
def Obligations.Reductions : Prop :=
  ∀ (g d a m t : Nat) (s : State), On s g →
    let w := (ETy.ofCode t).width
    let x := src s 2 a
    let act := (List.range (2048 / w)).filter fun i => s.me.a.active m i w
    let vals := act.map fun i => lane w x i
    let gives := fun (i : Instr) (ok : Nat → BitVec 7 → Prop) => ∃ r fl, r < 2 ^ w ∧ ok r fl ∧ exec i s = .next (s.landP {
      file := .v, reg := d, val := .lanes (BitVec.ofNat 2048 r) (BitVec.allOnes 2048), left := 8, slot := 2, seq := 0, pc := 0
      flags := fl, exc := enabledExc s.me.a.nmr fl })
    let lo := fun (sg : Bool) => if sg then 2 ^ (w - 1) else 0
    let hi := fun (sg : Bool) => if sg then 2 ^ (w - 1) - 1 else 2 ^ w - 1
    let flt := fun (r : Nat) (fl : BitVec 7) (op : FTy → Nat → Nat → Nat × BitVec 7) (idn : FTy → Nat) =>
      ∀ f, ETy.ofCode t = .flt f → ((redFloat s f m x (op f) (idn f)).1 % 2 ^ w, (redFloat s f m x (op f) (idn f)).2) = (r, fl)
    gives (.vsum g d a m t) (fun r fl => (∀ sg n, ETy.ofCode t = .int sg n → fl = 0 ∧ r = vals.sum % 2 ^ w) ∧
      flt r fl (fun f y z => fopAdd s.env f s.env.rm (f.val y) (f.val z)) (fun _ => 0)) ∧
    gives (.vmaxr g d a m t) (fun r fl => (∀ sg n, ETy.ofCode t = .int sg n → fl = 0 ∧ (vals = [] → r = lo sg) ∧
        (vals ≠ [] → r ∈ vals ∧ ∀ y ∈ vals, intVal sg w y ≤ intVal sg w r)) ∧
      flt r fl (fun f => fopMinMax s.env f true) (fun f => f.infBits true)) ∧
    gives (.vminr g d a m t) (fun r fl => (∀ sg n, ETy.ofCode t = .int sg n → fl = 0 ∧ (vals = [] → r = hi sg) ∧
        (vals ≠ [] → r ∈ vals ∧ ∀ y ∈ vals, intVal sg w r ≤ intVal sg w y)) ∧
      flt r fl (fun f => fopMinMax s.env f false) (fun f => f.infBits false)) ∧
    let f := FTy.ofCode t
    let fs := ((List.range (2048 / f.width)).filter fun i => s.me.a.active m i f.width).map fun i => f.val (lane f.width x i)
    ∃ v, exec (.vexpmax g d a m t) s = .next (s.land 2 .v d (.lanes v (BitVec.allOnes 2048)) 6) ∧
      ((∀ n k e, .fin n k e ∈ fs → k = 0) → lane 64 v 0 = 2 ^ 63) ∧
      (∀ n k e, .fin n k e ∈ fs → k ≠ 0 → (∀ (n' : Bool) (k' : Nat) (e' : Int), .fin n' k' e' ∈ fs → k' ≠ 0 → e' + (Nat.log2 k' : Int) ≤ e + (Nat.log2 k : Int)) →
        lane 64 v 0 = (BitVec.ofInt 64 (e + (Nat.log2 k : Int))).toNat) ∧
      (lane 64 v 1).testBit 0 = fs.any FVal.isInf ∧ (lane 64 v 1).testBit 1 = fs.any FVal.isNan ∧
      ((lane 64 v 1).testBit 2 = true ↔ ∃ n k e, .fin n k e ∈ fs ∧ k ≠ 0) ∧ lane 64 v 1 < 8 ∧
      ∀ j, 2 ≤ j → j < 32 → lane 64 v j = 0

/-- Masks and the spout (R204, R205): the mask functions; `mpop` counts and finds the lowest set bit, 128 when there is none; `vsp`
says whether the context has a row in the latch, and its tag. -/
def Sys2Proof.Claims.MasksAndSpout : Prop :=
  ∀ (g d e a b p : Nat) (s : State), On s g →
    exec (.mand g e a b) s = .next (s.land 2 .m e (.mask (s.me.a.rM a &&& s.me.a.rM b)) 1) ∧
    exec (.mor g e a b) s = .next (s.land 2 .m e (.mask (s.me.a.rM a ||| s.me.a.rM b)) 1) ∧
    exec (.mnot g e a) s = .next (s.land 2 .m e (.mask (~~~s.me.a.rM a)) 1) ∧
    (∃ v, exec (.mpop g d a) s = .next (s.land 2 .v d (.lanes v (BitVec.allOnes 2048)) 1) ∧
      lane 64 v 0 = (List.range 128).countP (fun k => (s.me.a.rM a).getLsbD k) ∧
      (∀ k, k < 128 → (lane 64 v 1 = k ↔ (s.me.a.rM a).getLsbD k = true ∧ ∀ j, j < k → (s.me.a.rM a).getLsbD j = false)) ∧
      (s.me.a.rM a = 0 → lane 64 v 1 = 128) ∧ ∀ j, 2 ≤ j → j < 32 → lane 64 v j = 0) ∧
    (s.latchRow = none → exec (.vsp g d p) s = .next
      (((s.landBit 2 p false 1).landBit 2 (p + 1) true 1).land 2 .v d (.lanes 0 (BitVec.allOnes 2048)) 1)) ∧
    ∀ r, s.latchRow = some r → exec (.vsp g d p) s = .next (((s.landBit 2 p true 1).landBit 2 (p + 1) false 1).land 2 .v d
      (.lanes (BitVec.ofNat 2048 (r.tag % 2 ^ 64)) (BitVec.allOnes 2048)) 1)

/-- Moving lanes, class codes, masks and the spout (R196 to R198, R201 to R205). -/
def Obligations.LanesMasksAndSpout : Prop :=
  LaneMoves ∧ ClassCodes ∧ MasksAndSpout

/-! ### Matrix and stream instructions -/

namespace Sys2Proof.Claims

/-- An array operation joins the hold. -/
def held (s : State) (k : ArrKind) (path : Nat) : State := s.updMe fun x => { x with
  hold := x.hold ++ [{ kind := k, seq := x.opSeq, pc := x.pc, fences := x.a.fencesFor path }], opSeq := x.opSeq + 1 }

/-- The checks of an array operation's well side pass: one allocation, alignment, and in a DET task the sets of the array path. -/
def SideOk (s : State) (wr : Bool) (lsa n al p : Nat) : Prop :=
  s.resolve s.cur lsa n al = some p ∧ s.inSets s.cur 3 wr lsa n = true

/-- The matrix trap. -/
def matrixTrap (s : State) (detail : Nat) : State :=
  takeTrap { cause := 0x10, slot := some 3, pc := s.me.pc, detail := detail } s

end Sys2Proof.Claims

/-- The bounds trap and the set trap of an array operation's well side (R308). -/
def Sys2Proof.Claims.sideTrap (s : State) (cause detail : Nat) : State :=
  takeTrap { cause := cause, slot := some 3, pc := s.me.pc, detail := detail } s

/-- Tiles, codebooks and scale tables (R312, R313): checked, then held with the place of their bytes; `mld` sets the slot record at
issue; a number above 31 while the table is split traps with detail 0x0A, an entry that is not set with detail 7, a misplaced side
with the bounds trap, one outside the sets with the set trap. -/
def Sys2Proof.Claims.TileLoads : Prop :=
  ∀ (g t a x o : Nat) (s : State), On s g →
    let lsa := ea (s.aReg x a) (s.me.simm 3 8 o) 256
    let at' := (s.aReg x a).toNat % 2 ^ 24
    (∀ e p, s.tidEntry t = some e → e.fmt ≠ 7 → SideOk s false lsa (tileBytes e) 1 p → exec (.mld g t a x o) s =
      .next (held (s.updArch fun y => { y with slotTid := some (t, e.img) }) (.mld t e p (tileBytes e)) 3)) ∧
    (∀ e, s.tidEntry t = some e → e.fmt = 7 → exec (.mld g t a x o) s = .next (matrixTrap s 7)) ∧
    (∀ n p, s.physTid t = some n → SideOk s false at' 32 32 p →
      exec (.mcb g t a x) s = .next (held s (.mcb n t p) 3)) ∧
    (∀ p, SideOk s false at' 64 64 p → exec (.msc g a x) s = .next (held s (.msc p) 3)) ∧
    (s.tidEntry t = none → exec (.mld g t a x o) s = .next (matrixTrap s 0x0A)) ∧
    (s.physTid t = none → exec (.mcb g t a x) s = .next (matrixTrap s 0x0A)) ∧
    (∀ e, s.tidEntry t = some e → e.fmt ≠ 7 →
      (s.resolve s.cur lsa (tileBytes e) 1 = none → exec (.mld g t a x o) s = .next (sideTrap s 3 lsa)) ∧
      (∀ p, s.resolve s.cur lsa (tileBytes e) 1 = some p → s.inSets s.cur 3 false lsa (tileBytes e) = false →
        exec (.mld g t a x o) s = .next (sideTrap s 4 (3 * 2 ^ 61 + lsa)))) ∧
    (∀ n, s.physTid t = some n → s.resolve s.cur at' 32 32 = none → exec (.mcb g t a x) s = .next (sideTrap s 3 at')) ∧
    (s.resolve s.cur at' 64 64 = none → exec (.msc g a x) s = .next (sideTrap s 3 at')) ∧
    (∀ p, s.resolve s.cur at' 32 32 = some p → s.inSets s.cur 3 false at' 32 = false → s.physTid t ≠ none →
      exec (.mcb g t a x) s = .next (sideTrap s 4 (3 * 2 ^ 61 + at'))) ∧
    (∀ p, s.resolve s.cur at' 64 64 = some p → s.inSets s.cur 3 false at' 64 = false →
      exec (.msc g a x) s = .next (sideTrap s 4 (3 * 2 ^ 61 + at')))

/-- The range checks of a bag in ACC or SRA (R289), in order: the range ends within the sump (0x05); a range the context owns and
names again keeps its exponent (0x06); a new one finds room among the eight (0x09) and meets no range owned or being released
(0x04). -/
def Sys2Proof.Claims.RangeChecks : Prop :=
  ∀ (s : State) (base len : Nat) (e : Int),
    let same := fun (r : SumpRange) => r.first == base && r.len == len
    let meets := fun (r : SumpRange) => r.first < base + len ∧ base < r.first + r.len
    let other := s.ctx (otherCtx s.cur)
    (16384 < base + len → claimRange s base len e = .error 5) ∧
    (base + len ≤ 16384 →
      (∀ r, s.me.a.ranges.find? same = some r → claimRange s base len e = if r.e = e then .ok false else .error 6) ∧
      (s.me.a.ranges.find? same = none →
        (8 ≤ s.me.a.ranges.length → claimRange s base len e = .error 9) ∧
        (s.me.a.ranges.length < 8 →
          ((∃ r ∈ s.me.a.ranges ++ other.a.ranges ++ other.releasing, meets r) → claimRange s base len e = .error 4) ∧
          ((∀ r ∈ s.me.a.ranges ++ other.a.ranges ++ other.releasing, ¬ meets r) →
            claimRange s base len e = .ok true))))

/-- Opening and closing a bag, and its report (R314, R315, R319, R320, R289): the checks of R315 in order, an open bag (1), a bad field (8):
MODE 3, a reserved bit, SEG outside SRA, OT outside STEER or 6 or 7 in it, BASE in STEER, COUNT above 1,024, e outside ±2048; a number above
31 while the table is split (0x0A), an entry that is not set (7), too many sump entries (8), in ACC and STEER an empty slot (0x0B) or one of
another format (7), the report's range (bounds, sets), the range checks; an opened GEMM or SRA bag claims its range in the sump once;
`bag.close` ends it at issue; without a bag `bag.close` and `bag.rep` trap with detail 2, and a misplaced report with the bounds trap. -/
def Sys2Proof.Claims.Bags : Prop :=
  ∀ (g c x e a p : Nat) (s : State), On s g →
    let n := s.me.a.bA x c
    let x0 := (s.me.a.rA n).toNat
    let x1 := (s.me.a.rA (n + 1)).toNat
    let E := s.me.simm 3 14 e
    let field := fun (y lo n : Nat) => y / 2 ^ lo % 2 ^ n
    let mode := field x0 62 2
    (bagFieldsBad x0 x1 E = true ↔ mode = 3 ∨ field x0 25 7 ≠ 0 ∨ field x1 24 8 ≠ 0 ∨ (mode ≠ 2 ∧ field x0 53 3 ≠ 0) ∨
      (mode ≠ 1 ∧ field x0 48 4 ≠ 0) ∨ (mode = 1 ∧ (field x0 48 4 = 6 ∨ field x0 48 4 = 7 ∨ field x0 11 14 ≠ 0)) ∨
      1024 < field x0 0 11 + 1 ∨ E < -2048 ∨ 2047 < E) ∧
    (s.me.a.bag.isSome → exec (.bagOpen g c x e) s = .next (matrixTrap s 1)) ∧
    (s.me.a.bag = none → bagFieldsBad x0 x1 E = true → exec (.bagOpen g c x e) s = .next (matrixTrap s 8)) ∧
    (s.me.a.bag = none → bagFieldsBad x0 x1 E = false →
      (s.tidEntry (bits x0 56 6) = none → exec (.bagOpen g c x e) s = .next (matrixTrap s 0x0A)) ∧
      ∀ ent, s.tidEntry (bits x0 56 6) = some ent →
        (ent.fmt = 7 → exec (.bagOpen g c x e) s = .next (matrixTrap s 7)) ∧
        (ent.fmt ≠ 7 → let b := bagOf s x0 x1 E ent 0
          let lsa := bits x1 0 24
          let fits := b.mode = 2 ∨ ∃ k, s.me.a.slotTid = some k ∧ ({ img := k.2 : TidEntry }).fmt = ent.fmt ∧
            ({ img := k.2 : TidEntry }).bs = ent.bs
          (16384 < b.count * b.w → exec (.bagOpen g c x e) s = .next (matrixTrap s 8)) ∧
          (b.count * b.w ≤ 16384 → b.mode ≠ 2 → s.me.a.slotTid = none →
            exec (.bagOpen g c x e) s = .next (matrixTrap s 0x0B)) ∧
          (b.count * b.w ≤ 16384 → b.mode ≠ 2 → s.me.a.slotTid ≠ none → ¬ fits →
            exec (.bagOpen g c x e) s = .next (matrixTrap s 7)) ∧
          (b.count * b.w ≤ 16384 → fits →
            (s.resolve s.cur lsa (reportBytes b) 8 = none → exec (.bagOpen g c x e) s = .next (sideTrap s 3 lsa)) ∧
            (∀ q, s.resolve s.cur lsa (reportBytes b) 8 = some q → s.inSets s.cur 3 true lsa (reportBytes b) = false →
              exec (.bagOpen g c x e) s = .next (sideTrap s 4 (3 * 2 ^ 61 + lsa))) ∧
            (∀ q d, SideOk s true lsa (reportBytes b) 8 q → b.mode ≠ 1 → claimRange s b.base (b.count * b.w) E = .error d →
              exec (.bagOpen g c x e) s = .next (matrixTrap s d))))) ∧
    (∀ ent, s.me.a.bag = none → bagFieldsBad x0 x1 E = false → s.tidEntry (bits x0 56 6) = some ent → ent.fmt ≠ 7 →
      let b := { bagOf s x0 x1 E ent 0 with rep := p }
      b.count * b.w ≤ 16384 → slotCheck s.me.a b.mode ent = none → SideOk s true (bits x1 0 24) (reportBytes b) 8 p →
      (b.mode = 1 → exec (.bagOpen g c x e) s =
        .next (held (s.updArch fun y => { y with bag := some b }) (.opn b false) 3)) ∧
      (∀ claim, b.mode ≠ 1 → claimRange s b.base (b.count * b.w) E = .ok claim → exec (.bagOpen g c x e) s =
        .next (held (s.updArch fun y => { y with
          bag := some b
          ranges := if claim then y.ranges ++ [{ first := b.base, len := b.count * b.w, e := E }] else y.ranges })
          (.opn b claim) 3))) ∧
    (s.me.a.bag.isSome → exec (.bagClose g) s = .next ((held s .close 3).updArch fun y => { y with bag := none })) ∧
    (s.me.a.bag = none → exec (.bagClose g) s = .next (matrixTrap s 2) ∧ exec (.bagRep g a x) s = .next (matrixTrap s 2)) ∧
    (s.me.a.bag.isSome → SideOk s true ((s.aReg x a).toNat % 2 ^ 24) 16 8 p →
      exec (.bagRep g a x) s = .next (held s (.rep p) 3)) ∧
    (s.me.a.bag.isSome → let lsa := (s.aReg x a).toNat % 2 ^ 24
      (s.resolve s.cur lsa 16 8 = none → exec (.bagRep g a x) s = .next (sideTrap s 3 lsa)) ∧
      (s.resolve s.cur lsa 16 8 = some p → s.inSets s.cur 3 true lsa 16 = false →
        exec (.bagRep g a x) s = .next (sideTrap s 4 (3 * 2 ^ 61 + lsa))))

/-- Tile loads, codebooks, scale tables and bags at issue (R312 to R315, R319, R320). -/
def Obligations.TilesAndBags : Prop :=
  TileLoads ∧ Bags ∧ RangeChecks

namespace Sys2Proof.Claims

/-- A trap of the X slot of the present bundle. -/
def xTrap (s : State) (cause detail : Nat) : Trap := { cause := cause, slot := some 3, pc := s.me.pc, detail := detail }

/-- The checks common to both feeds (R316, items 1 to 3), in order: no bag open (detail 2), the bag's 256th feed (8), a reserved bit or a
weight list outside SRA (8), in ACC and STEER an empty slot (0x0B) or one of another FMT or BS than the bag's TID (7). -/
def FeedStarts : Prop :=
  ∀ (s : State) (reserved : Bool) (x1 : Nat), (s.me.a.bag = none → feedStart s reserved x1 = .error (xTrap s 0x10 2)) ∧
    ∀ b, s.me.a.bag = some b →
      let field := reserved = true ∨ bits x1 48 16 ≠ 0 ∨ (b.mode ≠ 2 ∧ bits x1 0 24 ≠ 0)
      let same := fun (k : Nat × BitVec 256) => ({ img := k.2 : TidEntry }).fmt = b.ent.fmt ∧ ({ img := k.2 : TidEntry }).bs = b.ent.bs
      (255 ≤ b.feeds ∨ field → feedStart s reserved x1 = .error (xTrap s 0x10 8)) ∧
      (b.feeds < 255 → ¬ field →
        (b.mode = 2 → feedStart s reserved x1 = .ok b) ∧
        (b.mode ≠ 2 → s.me.a.slotTid = none → feedStart s reserved x1 = .error (xTrap s 0x10 0x0B)) ∧
        ∀ k, b.mode ≠ 2 → s.me.a.slotTid = some k → feedStart s reserved x1 = if same k then .ok b else .error (xTrap s 0x10 7))

/-- The lists of a feed (R316, item 4): index, tag and weight list, each within one allocation and aligned, else the bounds trap of the
first that is not; then in a DET task each within the sets of its path, else the set trap of the first that is not. Of no entry there is no
list. -/
def FeedListChecks : Prop :=
  ∀ (s : State) (b : Bag) (path n size x0 x1 : Nat),
    let wb := if b.ent.fmt = 0 then 8 else 4
    let lists := (if size = 0 then [] else [(bits x0 0 24, n * size, size)]) ++ [(bits x1 24 24, 2 * n, 2)] ++
      if b.mode = 2 then [(bits x1 0 24, n * wb, wb)] else []
    let misplaced := lists.find? fun e => (s.resolve s.cur e.1 e.2.1 e.2.2).isNone
    let outside := lists.find? fun e => !s.inSets s.cur path false e.1 e.2.1
    (n = 0 → feedLists s b path n size x0 x1 = .ok (0, 0, 0)) ∧
    (n ≠ 0 →
      (∀ e, misplaced = some e → feedLists s b path n size x0 x1 = .error (xTrap s 3 e.1)) ∧
      (∀ e, misplaced = none → outside = some e → feedLists s b path n size x0 x1 = .error (xTrap s 4 (path * 2 ^ 61 + e.1))) ∧
      (misplaced = none → outside = none → ∃ r, feedLists s b path n size x0 x1 = .ok r ∧
        (size ≠ 0 → s.resolve s.cur (bits x0 0 24) (n * size) size = some r.1) ∧
        s.resolve s.cur (bits x1 24 24) (2 * n) 2 = some r.2.1 ∧
        (b.mode = 2 → s.resolve s.cur (bits x1 0 24) (n * wb) wb = some r.2.2)))

/-- Where the feeds trap (R316 to R318, R99), in the order of their checks: the common checks and the lists; `bag.rows` with a stride below
the row bytes (detail 8), with Q = 0 rows that lie in no allocation or, in a DET task, outside the sets, with Q = 1 a handle that does not
serve (the bounds fault, detail BASE) or stages that do not fit (8); `bag.pump` with a TID above 31 while the table is split (0x0A), an
entry not set, without rows, of another FMT or BS (7), or with a stride below the row bytes (8). -/
def FeedsTrap : Prop :=
  ∀ (g c x q n : Nat) (s : State), On s g →
    let k := s.me.a.bA x c
    let x0 := (s.me.a.rA k).toNat
    let x1 := (s.me.a.rA (k + 1)).toNat
    let count := bits x0 48 16
    let stg := bits x0 40 8
    let stride := bits x0 24 16
    let lsa := bits x0 0 24
    let rows := fun (t : State) => exec (.bagRows g c x q n) s = .next t
    let pump := fun (t : State) => exec (.bagPump g c x) s = .next t
    (∀ r : Bool, (r = true ↔ stride % 8 ≠ 0 ∨ (q = 1 ∧ (stg = 0 ∨ lsa ≠ 0)) ∨ (q ≠ 1 ∧ stg ≠ 0)) →
      (∀ e, feedStart s r x1 = .error e → rows (takeTrap e s)) ∧
      ∀ b, feedStart s r x1 = .ok b →
        (∀ e, feedLists s b 3 count 0 x0 x1 = .error e → rows (takeTrap e s)) ∧
        ∀ l, feedLists s b 3 count 0 x0 x1 = .ok l →
          let size := (count - 1) * stride + rowBytes b
          let h := s.handle n
          let serves := h.role = 2 ∧ (h.arr = true → n ∈ b.qs)
          (stride < rowBytes b → rows (matrixTrap s 8)) ∧
          (rowBytes b ≤ stride → q ≠ 1 → count ≠ 0 →
            (s.resolve s.cur lsa size 1 = none → rows (sideTrap s 3 lsa)) ∧
            ∀ p, s.resolve s.cur lsa size 1 = some p → s.inSets s.cur 3 false lsa size = false →
              rows (sideTrap s 4 (3 * 2 ^ 61 + lsa))) ∧
          (rowBytes b ≤ stride → q = 1 →
            (¬ serves → rows (sideTrap s 3 h.base)) ∧
            (serves → stg * h.slotBytes % stride ≠ 0 ∨ count % (stg * h.slotBytes / stride) ≠ 0 → rows (matrixTrap s 8)))) ∧
    ∀ r : Bool, (r = true ↔ bits x0 24 17 ≠ 0) →
      (∀ e, feedStart s r x1 = .error e → pump (takeTrap e s)) ∧
      ∀ b, feedStart s r x1 = .ok b →
        let size := if bitAt x0 41 then 8 else 4
        (∀ e, feedLists s b 2 count size x0 x1 = .error e → pump (takeTrap e s)) ∧
        ∀ l, feedLists s b 2 count size x0 x1 = .ok l →
          (s.tidEntry (bits x0 42 6) = none → pump (matrixTrap s 0x0A)) ∧
          ∀ e, s.tidEntry (bits x0 42 6) = some e →
            let fits := e.fmt ≠ 7 ∧ e.rows ≠ 0 ∧ e.fmt = b.ent.fmt ∧ e.bs = b.ent.bs
            (¬ fits → pump (matrixTrap s 7)) ∧ (fits → e.stride < rowBytes b → pump (matrixTrap s 8))

/-- The range a drain or a clear names (R321, item 2): within one range of the context's table and not within the range of the bag open
now, with FREE equal to the table's; else detail 4. -/
def NamedRange : Prop :=
  ∀ (s : State) (first len : Nat) (free : Bool),
    let held := s.me.a.ranges.find? fun r => decide (r.first ≤ first ∧ first + len ≤ r.first + r.len)
    let inBag := ∃ b, s.me.a.bag = some b ∧ b.mode ≠ 1 ∧ b.base ≤ first ∧ first + len ≤ b.base + b.count * b.w
    let fault := Except.error (xTrap s 0x10 4)
    (held = none → tableRange s first len free = fault) ∧
    ∀ r, held = some r → let other := free = true ∧ (r.first ≠ first ∨ r.len ≠ len)
      (inBag ∨ other → tableRange s first len free = fault) ∧ (¬ inBag → ¬ other → tableRange s first len free = .ok r)

/-- Where drains and clears trap (R321, R322, R99), in the order of their checks: a reserved value (detail 8), the range, and of a drain to
the well its output. -/
def DrainsTrap : Prop :=
  ∀ (g fc c x t r f dst : Nat) (s : State), On s g →
    let y0 := (s.aReg x c).toNat
    let first := bits y0 50 14
    let len := bits y0 35 15
    let group := bits y0 24 11
    let lsa := bits y0 0 24
    let size := len * drainBytes t
    let align := if t = 6 then 8 else drainBytes t
    let wrong := len = 0 ∨ 16384 < len ∨ group = 0 ∨ 1024 < group ∨ len % group ≠ 0 ∨ (2 ≤ dst ∧ 256 < group * drainBytes t) ∨
      (t = 6 ∧ (dst ≠ 1 ∨ r ≠ 0)) ∨ (dst % 2 ≠ 1 ∧ lsa ≠ 0)
    let drain := fun (u : State) => exec (.sumpDr g c x t r f dst) s = .next u
    let clear := fun (u : State) => exec (.sumpClr g fc c x f) s = .next u
    (wrong → drain (matrixTrap s 8)) ∧
    (¬ wrong → (∀ e, tableRange s first len (f == 1) = .error e → drain (takeTrap e s)) ∧
      ∀ z, tableRange s first len (f == 1) = .ok z → dst % 2 = 1 →
        (s.resolve s.cur lsa size align = none → drain (sideTrap s 3 lsa)) ∧
        ∀ p, s.resolve s.cur lsa size align = some p → s.inSets s.cur 3 true lsa size = false →
          drain (sideTrap s 4 (3 * 2 ^ 61 + lsa))) ∧
    (len = 0 ∨ 16384 < len ∨ bits y0 0 35 ≠ 0 → clear (matrixTrap s 8)) ∧
    ∀ e, len ≠ 0 → len ≤ 16384 → bits y0 0 35 = 0 → tableRange s first len (f == 1) = .error e → clear (takeTrap e s)

end Sys2Proof.Claims

/-- Feeds, drains and clears that pass their checks (R316 to R318, R321, R322, R85): a feed of an open bag, one of no rows among them, and a
drain of a claimed range are held, the drain with its type, rounding mode, destination and the NMR of its issue, `c.pump` rising by the
entries and `c.drn` by one; a feed by a queue passes where the handle has ROLE 2, is detached or attached to this bag, and the rows per
stage are an integer that divides N; in a DET task the ring slots of a queue feed lie in
the sets, or the feed traps; with FREE the range leaves the table at issue. -/
def Sys2Proof.Claims.FeedsAndDrainsIssue : Prop :=
  ∀ (g c x q n t r dst p : Nat) (s : State), On s g →
    let k := s.me.a.bA x c
    let x0 := (s.me.a.rA k).toNat
    let x1 := (s.me.a.rA (k + 1)).toNat
    let y0 := (s.aReg x c).toNat
    let first := bits y0 50 14
    let len := bits y0 35 15
    let group := bits y0 24 11
    (s.me.a.bag = none → exec (.bagRows g c x q n) s = .next (matrixTrap s 2) ∧
      exec (.bagPump g c x) s = .next (matrixTrap s 2)) ∧
    (∀ b l, q = 0 → bits x0 24 16 % 8 = 0 → bits x0 40 8 = 0 → feedStart s false x1 = .ok b →
      feedLists s b 3 (bits x0 48 16) 0 x0 x1 = .ok l → rowBytes b ≤ bits x0 24 16 → bits x0 48 16 ≠ 0 →
      SideOk s false (bits x0 0 24) ((bits x0 48 16 - 1) * bits x0 24 16 + rowBytes b) 1 p →
      ∃ f u, exec (.bagRows g c x q n) s = .next u ∧ f.n = bits x0 48 16 ∧ f.rows = p ∧ f.stride = bits x0 24 16 ∧
        f.tags = l.2.1 ∧ f.wgts = l.2.2 ∧ u.mem = s.mem ∧ u.me.a.bag = some { b with feeds := b.feeds + 1 } ∧
        u.me.hold = s.me.hold ++ [{ kind := .feed f, seq := s.me.opSeq, pc := s.me.pc, fences := s.me.a.fencesFor 3 }]) ∧
    (∀ b, q = 0 → bits x0 24 16 % 8 = 0 → bits x0 40 8 = 0 → feedStart s false x1 = .ok b → rowBytes b ≤ bits x0 24 16 →
      bits x0 48 16 = 0 → ∃ f u, exec (.bagRows g c x q n) s = .next u ∧ f.n = 0 ∧ f.q = none ∧ f.pump = false ∧ u.mem = s.mem ∧
        u.me.a.bag = some { b with feeds := b.feeds + 1 } ∧
        u.me.hold = s.me.hold ++ [{ kind := .feed f, seq := s.me.opSeq, pc := s.me.pc, fences := s.me.a.fencesFor 3 }]) ∧
    (∀ b l e, bits x0 24 17 = 0 → feedStart s false x1 = .ok b →
      feedLists s b 2 (bits x0 48 16) (if bitAt x0 41 then 8 else 4) x0 x1 = .ok l → s.tidEntry (bits x0 42 6) = some e →
      e.fmt ≠ 7 → e.rows ≠ 0 → e.fmt = b.ent.fmt → e.bs = b.ent.bs → rowBytes b ≤ e.stride →
      ∃ f u, exec (.bagPump g c x) s = .next u ∧ f.n = bits x0 48 16 ∧ f.idx = l.1 ∧ f.ent = e ∧ u.mem = s.mem ∧
        u.me.cPump = s.me.cPump + BitVec.ofNat 32 (bits x0 48 16) ∧ u.me.gate = s.me.gate ++ [.pump s.me.opSeq] ∧
        (u.me.hold.map ArrOp.kind) = (s.me.hold.map ArrOp.kind) ++ [.feed f]) ∧
    (∀ b l, q = 1 → bits x0 24 16 % 8 = 0 → bits x0 40 8 ≠ 0 → bits x0 0 24 = 0 → feedStart s false x1 = .ok b →
      feedLists s b 3 (bits x0 48 16) 0 x0 x1 = .ok l → rowBytes b ≤ bits x0 24 16 →
      (s.handle n).role = 2 → ((s.handle n).arr = true → n ∈ b.qs) → bits x0 40 8 * (s.handle n).slotBytes % bits x0 24 16 = 0 →
      bits x0 48 16 % (bits x0 40 8 * (s.handle n).slotBytes / bits x0 24 16) = 0 →
      (∀ l, queueSets s n (bits x0 48 16) (bits x0 24 16) (rowBytes b) = .error l →
        exec (.bagRows g c x q n) s = .next (takeTrap l s)) ∧
      (queueSets s n (bits x0 48 16) (bits x0 24 16) (rowBytes b) = .ok () → ∃ f u,
        exec (.bagRows g c x q n) s = .next u ∧ f.n = bits x0 48 16 ∧ f.q = some n ∧ f.stg = bits x0 40 8 ∧ u.mem = s.mem ∧ u.me.a.bag = some { b with feeds := b.feeds + 1, qs := n :: b.qs } ∧
        (u.me.hold.map ArrOp.kind) = (s.me.hold.map ArrOp.kind) ++ [.feed f])) ∧
    (queueSets s n p x q = .ok () ↔ ∀ k, k < p → ∀ e ∈ (s.handle n).ringParts
      ((s.handle n).ptr * (s.handle n).slotBytes + s.me.queueAhead n + k * x) q, s.inSets s.cur 3 false e.1 e.2 = true) ∧
    (∀ range (free : Bool), len ≠ 0 → len ≤ 16384 → group ≠ 0 → group ≤ 1024 → len % group = 0 →
      (dst % 2 ≠ 1 → bits y0 0 24 = 0) → (t = 6 → dst = 1 ∧ r = 0) → (2 ≤ dst → group * drainBytes t ≤ 256) →
      (dst % 2 = 1 → SideOk s true (bits y0 0 24) (len * drainBytes t) (if t = 6 then 8 else drainBytes t) p) →
      tableRange s first len free = .ok range →
      ∃ d u, exec (.sumpDr g c x t r (if free then 1 else 0) dst) s = .next u ∧ u.me.cDrn = s.me.cDrn + 1 ∧ u.mem = s.mem ∧
        (u.me.hold.map ArrOp.kind) = (s.me.hold.map ArrOp.kind) ++ [.drain d] ∧ d.first = first ∧ d.len = len ∧
        d.group = group ∧ d.e = range.e ∧ (dst % 2 = 1 → d.out = p) ∧ d.ty = t ∧ d.rm = r ∧ d.dst = dst ∧ d.free = free ∧
        d.nmr = s.me.a.nmr ∧
        (∀ z ∈ u.me.a.ranges, free = true → ¬ (z.first = first ∧ z.len = len))) ∧
    (∀ range fc (free : Bool), len ≠ 0 → len ≤ 16384 → bits y0 0 35 = 0 → tableRange s first len free = .ok range →
      ∃ u, exec (.sumpClr g fc c x (if free then 1 else 0)) s = .next u ∧ u.mem = s.mem ∧
        (u.me.hold.map ArrOp.kind) = (s.me.hold.map ArrOp.kind) ++ [.clr first len free] ∧
        (fc ≠ 1 → u.me.a.fflags = s.me.a.fflags) ∧
        (fc = 1 → s.me.inIssue = true → u.me.eoc = s.me.eoc ++ [.clear 0x60#7]))

/-- Feeds, drains and clears at issue, and where each of their checks traps (R85, R99, R316 to R318, R321, R322). The model's readings: an
empty list has no bounds and no alignment to break (log 46), a STRIDE that is not a multiple of 8 takes detail 0x08 (log 47), and so do STG and
the LSA of a feed that do not go with its Q (log 145, DEDUCED), a misaligned list takes the bounds trap, and of several failing lists the
index list names it, then the tag list, then the weight list (log 146, DESIGN CHOICE), a misaligned drain takes the bounds trap (log 48), and
the set check of `bag.rows` covers the gaps between strided rows (log 129, DESIGN CHOICE). -/
def Obligations.FeedsAndDrains : Prop :=
  FeedsAndDrainsIssue ∧ FeedStarts ∧ FeedListChecks ∧ FeedsTrap ∧ NamedRange ∧ DrainsTrap

/-- The stream instructions once the unit has served them (R323 to R327): `zld` reads pairs whose keys must ascend, as memory holds them in
its issue cycle (log 127, DESIGN CHOICE), and lands a machine check where a granule of them is uncorrectable (log 140, DEDUCED); `zst`
stores a register's pairs (its bytes reach memory at once, log 57; of no pair its address is checked all the same, log 46); in a DET task
both take the set trap where their pairs lie outside the array sets (log 58, DEDUCED); the merges land after 4 issue cycles, `zma` the dot
product after 12, `zlen` the length after one. -/
def Sys2Proof.Claims.StreamInstructions : Prop :=
  ∀ (g z a b x o d p : Nat) (s : State), On s g → s.me.strWait = some 0 →
    let u := s.updMe fun y => { y with strWait := none }
    let n := (s.aReg x b).toNat
    let lsa := (s.aReg x a).toNat % 2 ^ 24
    let l := (upTo n).map fun k => BitVec.ofNat 64 (s.readNat (p + 8 * k) 8)
    let bounds := takeTrap { cause := 3, slot := some 3, pc := s.me.pc, detail := lsa } s
    (0 < n → n ≤ 4096 → SideOk s false lsa (8 * n) 8 p → keysAscend l = true →
      exec (.zld g z a b x) s = .next ((u.correct p (8 * n)).landP {
        file := .z, reg := z, val := .pairs l, left := 8, slot := 3, seq := 0, pc := 0
        bad := if s.badIn p (8 * n) then some lsa else none })) ∧
    (0 < n → n ≤ 4096 → s.resolve s.cur lsa (8 * n) 8 = none → exec (.zld g z a b x) s = .next bounds) ∧
    (n = 0 → exec (.zld g z a b x) s = .next (u.land 3 .z z (.pairs []) 8)) ∧
    (4096 < n → exec (.zld g z a b x) s = .next (matrixTrap s 8)) ∧
    (0 < n → n ≤ 4096 → SideOk s false lsa (8 * n) 8 p → keysAscend l = false →
      exec (.zld g z a b x) s = .next (matrixTrap s 0x0C)) ∧
    (s.zReg z = [] → (s.resolve s.cur lsa 0 8 ≠ none → exec (.zst g z a x) s = .next (u.store [])) ∧
      (s.resolve s.cur lsa 0 8 = none → exec (.zst g z a x) s = .next bounds)) ∧
    (0 < (s.zReg z).length → s.resolve s.cur lsa (8 * (s.zReg z).length) 8 = none →
      exec (.zst g z a x) s = .next bounds) ∧
    (∀ q, 0 < n → n ≤ 4096 → s.resolve s.cur lsa (8 * n) 8 = some q → s.inSets s.cur 3 false lsa (8 * n) = false →
      exec (.zld g z a b x) s = .next (sideTrap s 4 (3 * 2 ^ 61 + lsa))) ∧
    (∀ q, 0 < (s.zReg z).length → s.resolve s.cur lsa (8 * (s.zReg z).length) 8 = some q →
      s.inSets s.cur 3 true lsa (8 * (s.zReg z).length) = false →
      exec (.zst g z a x) s = .next (sideTrap s 4 (3 * 2 ^ 61 + lsa))) ∧
    (0 < (s.zReg z).length → SideOk s true lsa (8 * (s.zReg z).length) 8 p → exec (.zst g z a x) s =
      .next (u.store (cellsAt p ((s.zReg z).flatMap fun w => bytesOfNat 8 w.toNat)))) ∧
    exec (.zis g z a b o) s = .next (landPairs u z (zInter s.env o (s.zReg a) (s.zReg b))) ∧
    (bothLen a b s ≤ 4096 → exec (.zun g z a b o) s = .next (landPairs u z (zUnion s.env o (s.zReg a) (s.zReg b)))) ∧
    (4096 < bothLen a b s → exec (.zun g z a b o) s = .next (matrixTrap s 8)) ∧
    exec (.zsb g z a b) s = .next (landPairs u z (zDiff (s.zReg a) (s.zReg b))) ∧
    (∃ r fl, exec (.zma g d a b) s = .next (u.landP {
      file := .w, reg := d, val := .lanes (BitVec.ofNat 2048 r) (BitVec.allOnes 2048), left := 12, slot := 3, seq := 0, pc := 0
      flags := fl, exc := enabledExc s.me.a.nmr fl }) ∧ (r, fl) = (dotOf s.env (s.zReg a) (s.zReg b)).result s.env) ∧
    exec (.zlen g d z) s =
      .next (u.land 3 .w d (.lanes (BitVec.ofNat 2048 (s.zReg z).length) (BitVec.allOnes 2048)) 1)

/-- What the merges deliver (R325): from registers whose keys ascend, the keys of the result ascend; they are the keys of both, of
either, or of the first only. -/
def Sys2Proof.Claims.MergesKeepKeyOrder : Prop :=
  ∀ (v : FEnv) (o : Nat) (a b : List Word), keysAscend a = true → keysAscend b = true →
    let keys := fun (l : List Word) => l.map pairKey
    let outs := fun (l : List (Nat × Nat × BitVec 7)) => l.map Prod.fst
    (outs (zInter v o a b)).Pairwise (· < ·) ∧ (outs (zUnion v o a b)).Pairwise (· < ·) ∧ (outs (zDiff a b)).Pairwise (· < ·) ∧
    ∀ k, (k ∈ outs (zInter v o a b) ↔ k ∈ keys a ∧ k ∈ keys b) ∧
      (k ∈ outs (zUnion v o a b) ↔ k ∈ keys a ∨ k ∈ keys b) ∧ (k ∈ outs (zDiff a b) ↔ k ∈ keys a ∧ k ∉ keys b)

/-- The values of a merge (R325): a key in both operands takes the value VO names, by copy, as a sum modulo 2^32, or as one f32 sum with
its flags; a key of one operand keeps that operand's value and raises nothing. -/
def Sys2Proof.Claims.MergedValues : Prop :=
  ∀ (v : FEnv) (o : Nat) (a b : List Word), keysAscend a = true → keysAscend b = true →
    let both := fun (e : Nat × Nat × BitVec 7) => ∃ x ∈ a, ∃ y ∈ b, pairKey x = e.1 ∧ pairKey y = e.1 ∧
      e.2 = if o = 0 then (pairVal x, 0) else if o = 1 then (pairVal y, 0)
        else if o = 2 then ((pairVal x + pairVal y) % 2 ^ 32, 0)
        else fopAdd v .f32 v.rm (readVal v .f32 (pairVal x)) (readVal v .f32 (pairVal y))
    let only := fun (l m : List Word) (e : Nat × Nat × BitVec 7) =>
      ∃ x ∈ l, pairKey x = e.1 ∧ (∀ y ∈ m, pairKey y ≠ e.1) ∧ e.2 = (pairVal x, 0)
    (∀ e ∈ zInter v o a b, both e) ∧ (∀ e ∈ zUnion v o a b, both e ∨ only a b e ∨ only b a e) ∧ ∀ e ∈ zDiff a b, only a b e

/-- The dot product of `zma` (R326): over the keys of both operands the products are summed exactly and rounded once to f32; an exact
zero, or no common key, gives +0; a NaN among the products, or infinities of both signs, give the canonical NaN, with NV where one of
the NaNs is signalling or infinities of both signs are there, and an infinity of one sign itself. How those of both signs act beside a quiet
NaN is the model's reading, as for the window (log 100, DEDUCED). -/
def Sys2Proof.Claims.DotProduct : Prop :=
  ∀ (v : FEnv) (a b : List Word), let r := (dotOf v a b).result v
    let ps := a.filterMap fun x => (b.find? fun y => pairKey y == pairKey x).map fun y =>
      prod (readVal v .f32 (pairVal x)) (readVal v .f32 (pairVal y))
    (∀ l : List (Bool × Nat × Int), ps = l.map (fun x => FVal.fin x.1 x.2.1 x.2.2) → (∀ x ∈ l, -298 ≤ x.2.2) ∧
      DeliversInt v .f32 v.rm false (l.map fun x => unitsOf x.1 x.2.1 x.2.2 (-298)).sum (-298) r) ∧
    (let both := .inf true ∈ ps ∧ .inf false ∈ ps
     (∃ p ∈ ps, p.isNan = true) ∨ both → r.1 = FTy.f32.cnan ∧ (.nan true ∈ ps ∨ both → r.2 = fNV) ∧
      (.nan true ∉ ps → ¬ both → r.2 = 0)) ∧
    ∀ n, (∀ p ∈ ps, p.isNan = false) → .inf n ∈ ps → .inf (!n) ∉ ps → r = (FTy.f32.infBits n, 0)

/-- The stream instructions and what the merges deliver (R323 to R327). The model's readings: that in a DET task `zld` and `zst` are checked
against the array sets and take the set trap (log 58, DEDUCED), that a misaligned `zld` takes the bounds trap (log 154, DEDUCED), that `zld`
takes its pairs as they stand in its issue cycle (log 127, DESIGN CHOICE), and logs 46, 57, 100 and 140. -/
def Obligations.StreamsAndMerges : Prop :=
  StreamInstructions ∧ MergesKeepKeyOrder ∧ MergedValues ∧ DotProduct

/-! ### Events of the core path and of the siphon -/

namespace Sys2Proof.Claims

/-- The watchdog (R154): a running context whose count has reached 2^28 takes the trap with cause 9, rolled back and parked with its
count 0; below that, or not running, nothing happens. -/
def WatchdogBound : Prop :=
  ∀ s : State,
    (s.me.cond = .running → 2 ^ 28 ≤ s.me.wdog.toNat → let t := watched s
      t.me.cond = .parked ∧ t.me.pc = s.me.restart ∧ t.me.wdog = 0 ∧ t.records = s.records ++ [{
        engine := 385 + s.cur, c := some s.cur
        bytes := t.me.trapRecord s.cur { cause := 9, pc := s.me.pc, detail := 2 ^ 28 } }]) ∧
    (s.me.cond ≠ .running ∨ s.me.wdog.toNat < 2 ^ 28 → watched s = s)

/-- A bubble cycle (R48, R49): `v` is the state with the clock cycle opened, `h` with the atomics performed whose results land in it.
What is due lands and the count of the watchdog rises; where that brings it to 2^28 the trap follows (R154). -/
def BubbleCycle : Prop :=
  ∀ s : State, let v := (s.openTurn s.cur).fetchSecond (otherCtx s.cur)
    let h := v.hurryAtoms s.cur
    s.cur = s.arg.c → s.me.bubbles ≠ 0 → s.me.cond = .running → s.killDue s.cur = false → s.me.yieldHold = false →
    s.mustYield s.cur = false → h.me.mcDue = none → h.me.fpDue = none →
    (s.me.wdog.toNat + 1 < 2 ^ 28 → ∃ t, exec .resultLand s = .next t ∧ t.me.a = h.me.startCycle.a ∧
      t.me.coll = h.me.startCycle.coll ∧ t.me.bubbles = s.me.bubbles - 1 ∧ t.me.wdog = s.me.wdog + 1 ∧ t.me.pc = s.me.pc ∧
      t.me.gate = s.me.gate ∧ t.mem = h.mem ∧
      ((∀ p ∈ s.me.a.pend, ∀ i w, p.val ≠ .atomic i w) → t.mem = s.mem ∧ t.me.a = s.me.startCycle.a ∧
        ∀ c, c % 384 ≠ s.cur % 384 → { t.ctx c with fetched := (s.ctx c).fetched } = s.ctx c)) ∧
    (s.me.wdog.toNat + 1 = 2 ^ 28 → ∃ t, exec .watchdogTrap s = .next t ∧ exec .resultLand s = .next t ∧
      t.me.cond = .parked ∧ t.me.pc = s.me.restart ∧ t.me.wdog = 0 ∧ t.records = s.records ++ [{
        engine := 385 + s.cur, c := some s.cur
        bytes := t.me.trapRecord s.cur { cause := 9, pc := s.me.pc, detail := 2 ^ 28 } }])

/-- Released posts (R83, R87, R88, R216). One without a source context waits for nothing; one of context c waits till every store of c
before its number is performed, the number being 0 at `scope=ctx` and the post's own at a wider scope (`releasedPost`), if it is of c's
core path till every atomic that c sent before it is performed, and till what an `xf` to core names is done. It may take effect then,
unless an earlier post of c's core path holds it back: one does so, but
for a later one at `scope=ctx` while the earlier waits for stores, and for a later one that stays on the tile which the earlier
leaves when the counts of both run from one clock cycle. A post's count runs from its release, or from the store that was the last
it waited for. A load of the core path is performed after the atomics its context sent and the posts it released before it: with no
store or atomic on its way and its fences done, every such post takes effect before it, and nothing else changes (log 88, DEDUCED). -/
def PostsInOrder : Prop :=
  (∀ (s : State) (p : PostEff) (k : Nat), s.posts[k]? = some p →
    (s.postDue k = true ↔ s.postReady p = true ∧ ∀ q ∈ s.posts.take k, s.postHolds q p = false)) ∧
  (∀ (s : State) (p : PostEff), p.src = none → s.postReady p = true) ∧
  (∀ (s : State) (p : PostEff) (c n : Nat) (f : List Fence), p.src = some (c, n, f) →
    let stores := ∀ e ∈ (s.ctx c).woq, ¬ e.seq < n
    let atoms := ∀ i, p.seq = some i → ∀ a ∈ (s.cis (cisOf c)).atoms, a.c = c → ¬ a.seq < i
    (s.storesDone p = true ↔ stores) ∧ (s.postReady p = true ↔ stores ∧ atoms ∧ s.fencesDone c f = true)) ∧
  (∀ (s : State) (p q : PostEff) (c n m i j : Nat) (f g : List Fence), q.src = some (c, n, f) → p.src = some (c, m, g) →
    q.seq = some i → p.seq = some j →
      (s.postHolds q p = true ↔ ¬ (m = 0 ∧ s.storesDone q = false) ∧
        ¬ (q.since = p.since ∧ tileOf q.c ≠ tileOf c ∧ tileOf p.c = tileOf c))) ∧
  (∀ (s : State) (p q : PostEff), (p.src = none ∨ q.src = none ∨ p.seq = none ∨ q.seq = none ∨
    p.src.map Prod.fst ≠ q.src.map Prod.fst) → s.postHolds q p = false) ∧
  (∀ (s : State) (e : StoreEnt), s.headStore s.arg.c = some e → ∃ t, exec .storePerform s = .next t ∧
    t.posts = s.posts.map fun p => if t.storesDone p = true ∧ s.storesDone p = false then { p with since := 2 * e.seq + 1 } else p) ∧
  (∀ (s : State) (p : PostEff), s.posts[s.arg.k]? = some p → s.postDue s.arg.k = true →
    ∃ t, exec .flagPostEffect s = .next t ∧ t.posts = s.posts.eraseIdx s.arg.k ∧ t.mem = s.mem ∧
      t.ctx p.c = (s.ctx p.c).post p.f p.n ∧ ∀ c, c % 384 ≠ p.c % 384 → t.ctx c = s.ctx c) ∧
  (∀ (s : State), s.postDue s.arg.k = false → exec .flagPostEffect s = .next s) ∧
  (∀ (b : Bundle) (s : State), b.2.1.loads = false → loadOrder b s = s) ∧
  ∀ (b : Bundle) (s : State), b.2.1.loads = true → s.me.woq = [] → (∀ a ∈ (s.cis (cisOf s.cur)).atoms, a.c ≠ s.cur) →
    (∀ p ∈ s.posts, ∀ n f, p.src = some (s.cur, n, f) → s.fencesDone s.cur f = true ∧ ∀ i, p.seq = some i → i < s.me.opSeq) →
    let t := loadOrder b s
    t.mem = s.mem ∧ t.cur = s.cur ∧ postsOver t s.cur s.me.opSeq ∧ t.posts = s.posts.filter (fun p => !p.before s.cur s.me.opSeq) ∧
    ∀ c, (∀ p ∈ s.posts, p.before s.cur s.me.opSeq = true → p.c % 384 ≠ c % 384) → t.ctx c = s.ctx c

end Sys2Proof.Claims

/-- Between issues (R48, R49, R81, R82, R88, R141, R154, R216, R219, R149): the oldest store of a context whose fences are done, and behind
whose atomics and released posts it does not stand, reaches memory, in its bytes only, and a part of an uncorrectable granule of a well that
it writes is logged and stays so; a released post that may take effect raises its flag; a bubble cycle lands what is due; an older context
that must yield stalls for a cycle; the watchdog's bound traps with cause 9; a kill stops its context. The model's readings: a watchdog
record names no slot (log 22), a killed context's array operations go with it (log 25), the count after a watchdog trap is 0 (log 75), the
older context is held for one cycle after 64 lost merge cycles (log 76), an atomic whose result is due is performed first (log 35), which
earlier post holds back a later one (log 88), that a narrow store over an uncorrectable granule leaves one entry in the log (log 86), when a
command of a killed context counts as complete (log 121), and the records that a kill leaves of its cancelled commands (log 130); all are
DEDUCED. -/
def Obligations.CoreEvents : Prop :=
  (∀ (s : State) (e : StoreEnt), s.headStore s.arg.c = some e → ∃ t, exec .storePerform s = .next t ∧
    t.mem = memWrites s.mem e.cells ∧ (t.ctx s.arg.c).woq = (s.ctx s.arg.c).woq.tail ∧
    (∀ a, (∀ c ∈ e.cells, c.1 ≠ a) → memRead t.mem a = memRead s.mem a) ∧
    (∀ g ∈ s.badMem, zoneOf g = .well → (∃ c ∈ e.cells, granule c.1 = g) → (∃ i, i < 8 ∧ ∀ c ∈ e.cells, c.1 ≠ g + i) →
      g ∈ t.badMem ∧ ∃ x ∈ (t.cis (placeTile g / 8)).log, x.idx = g ∧ x.corrected = false) ∧
    ∀ c, c % 384 ≠ s.arg.c % 384 → t.ctx c = s.ctx c) ∧
  (∀ (s : State), s.headStore s.arg.c = none → exec .storePerform s = .next s) ∧
  (∀ (s : State) (c : Nat) (e : StoreEnt) (r : List StoreEnt), (s.ctx c).woq = e :: r →
    (s.headStore c = some e ↔ s.fencesDone c e.fences = true ∧ postsOver s c e.seq ∧
      ∀ a ∈ (s.cis (cisOf c)).atoms, ¬ (a.c = c ∧ a.seq < e.seq))) ∧
  PostsInOrder ∧ WatchdogBound ∧ BubbleCycle ∧
  (∀ (s : State), s.cur = s.arg.c → (s.me.cond = .running ∧ s.me.wdog.toNat + 1 = 2 ^ 28 →
      exec .watchdogTrap s = exec .issueBundle s) ∧
    (s.me.cond ≠ .running ∨ s.me.wdog.toNat + 1 ≠ 2 ^ 28 → exec .watchdogTrap s = .next s)) ∧
  (∀ (s : State), s.me.bubbles = 0 → s.cur = s.arg.c → exec .resultLand s = .next s) ∧
  (∀ (s : State), let d := otherCtx s.arg.c
    (s.ctx d).cond = .running → s.mustYield d = true → s.killDue d = false → (s.ctx d).yieldHold = false →
    (s.ctx d).wdog.toNat + 1 < 2 ^ 28 → s.lockOn d = false →
    ∃ t, exec .overlapYield s = .next t ∧ (t.ctx d).stall = (s.ctx d).stall + 1 ∧ (t.ctx d).pc = (s.ctx d).pc ∧
      (t.ctx d).a = (s.ctx d).a ∧ (t.ctx (otherCtx d)).yielded = true ∧ t.mem = s.mem) ∧
  (∀ (s : State), s.killDue s.arg.c = true → ∃ t, exec .kill s = .next t ∧ (t.ctx s.arg.c).cond = .absent ∧
    (t.ctx s.arg.c).gate = [] ∧ (t.ctx s.arg.c).hold = [] ∧ (t.ctx s.arg.c).a.pend = [] ∧ (t.ctx s.arg.c).mx = [] ∧
    (∀ r ∈ (t.ctx s.arg.c).records, r.st ≠ .held ∧ (s.sphComplete s.arg.c r = true ∨ r.post = none ∧ r.restartable = false)) ∧
    t.records = s.records ++ ((s.ctx s.arg.c).records.filter fun r => r.st != .held && r.restartable && !s.sphComplete s.arg.c r).filterMap
      (cancelRecord s s.arg.c) ∧
    t.mem = s.mem ∧ ∀ c, c % 384 ≠ s.arg.c % 384 → t.ctx c = s.ctx c) ∧
  ∀ (s : State), s.killDue s.arg.c = false → exec .kill s = .next s

namespace Sys2Proof.Claims

/-- Command `r` of the context of the event is the one named, and nothing stands in its way. -/
def Moves (s : State) (r : SphCmd) : Prop := (s.ctx s.arg.c).sphRec s.arg.k = some r ∧ s.mayMove s.arg.c r = true

/-- `n` bytes of a command are performed: its record counts them, and they leave `c.byte` (R85). -/
def Performed (s t : State) (r : SphCmd) (n : Nat) : Prop :=
  (∃ q, (t.ctx s.arg.c).sphRec s.arg.k = some q ∧ q.done = r.done + n ∧ q.left = r.left - n) ∧
  (t.ctx s.arg.c).cByte = minusSat (s.ctx s.arg.c).cByte n

/-- The machine check of operation `id` is due at a `waitc` on counter k too (R259). -/
def seenAt (id k : Nat) (d : DefTrap) : DefTrap :=
  if d.cause = 0x0A ∧ d.id = id ∧ k ∉ d.watch then { d with watch := d.watch ++ [k] } else d

/-- Every byte of these places can be read. -/
def AllReadable (s : State) (l : List Nat) : Prop := ∀ p ∈ l, s.unreadable p 1 = false

/-- The next bytes a command writes, memory being as it is: the operand's for `sph.fill` and `sph.imm`, else those at its source. -/
def nextBytes (s : State) (r : SphCmd) : List Byte :=
  if r.form = 4 then (List.range r.chunk).map fun i => BitVec.ofNat 8 (r.opnd / 2 ^ (8 * ((r.done + i) % 8)))
  else if r.form = 9 then (List.range r.chunk).map fun i => BitVec.ofNat 8 (r.opnd / 2 ^ (8 * (r.done + i)))
  else (placesOf r.sPlaces r.done r.chunk).map (memRead s.mem)

/-- The number at the places, least significant byte first. -/
def numberAt (s : State) (l : List Nat) : Nat := natOfBytes (l.map (memRead s.mem))

end Sys2Proof.Claims

/-- The bytes of the command forms (R255, R256, R258, R265, R267 to R272): copies, gathers, plain scatters, fills and immediates move
bytes to their places, an overlapping copy those its whole source held when it began; exact adds combine 40-byte elements; an atomic
replaces its word and leaves the old value in the well; a preload only fills the read buffer, from the device's own memory (R268); an
indexed command ends with its skip word. That bytes in host memory and on other devices are written at once, whatever the scope, is the
model's reading (log 26, DEDUCED). -/
def Sys2Proof.Claims.SiphonMoves : Prop :=
  (∀ (s : State) (r : SphCmd), Moves s r → r.done < r.stream →
    let dst := placesOf r.dPlaces r.done r.chunk
    let src := placesOf r.sPlaces r.done r.chunk
    let lines := (s.cis (cisOf s.arg.c)).lines
    (r.form = 0 ∨ r.form = 1 ∨ r.form = 2 ∨ r.form = 4 ∨ r.form = 9 → r.add = false → dst.length = r.chunk →
      (∀ p ∈ dst, s.lost p = false) →
      (r.snap = none → r.begun = true ∨ r.overlapping = false → (r.form < 4 → src.length = r.chunk) → AllReadable s src →
        2 ≤ r.scope ∨ lines = [] → ∃ t, exec .siphonTransfer s = .next t ∧
          t.mem = memWrites s.mem (dst.zip (nextBytes s r)) ∧ Performed s t r r.chunk) ∧
      (r.begun = false → r.overlapping = true → r.done = 0 → AllReadable s (placesOf r.sPlaces 0 r.stream) →
        2 ≤ r.scope ∨ lines = [] → ∃ t q, exec .siphonTransfer s = .next t ∧
          t.mem = memWrites s.mem (dst.zip ((placesOf r.sPlaces 0 r.stream).map (memRead s.mem))) ∧ Performed s t r r.chunk ∧
          (t.ctx s.arg.c).sphRec s.arg.k = some q ∧ q.snap = some ((placesOf r.sPlaces 0 r.stream).map fun p => some (memRead s.mem p))) ∧
      (∀ l : List Byte, r.begun = true → r.form < 4 → r.snap = some (l.map some) → r.done + r.chunk ≤ l.length →
        ∃ t, exec .siphonTransfer s = .next t ∧ t.mem = memWrites s.mem (dst.zip ((l.drop r.done).take r.chunk)) ∧
        Performed s t r r.chunk)) ∧
    (r.form = 3 ∨ (r.form = 2 ∧ r.add = true) →
      let from' := placesOf r.sPlaces r.done 40
      let to' := placesOf r.dPlaces r.done 40
      let q := exactAdd (numberAt s to') (numberAt s from')
      AllReadable s from' → AllReadable s to' → ∃ t, exec .siphonTransfer s = .next t ∧
        t.mem = memWrites s.mem (to'.zip (bytesOfNat 40 q.1)) ∧ Performed s t r 40 ∧
        ∀ u, (t.ctx s.arg.c).sphRec s.arg.k = some u → u.badCount = r.badCount + if q.2 then 1 else 0) ∧
    (r.form = 5 → let word := placesOf r.dPlaces 0 r.stream
      let old := numberAt s word
      AllReadable s word → ∃ t, exec .siphonTransfer s = .next t ∧ Performed s t r r.stream ∧
        t.mem = memWrites (memWrites s.mem (word.zip (bytesOfNat r.stream (sphAtomNew r.op (8 * r.stream) old r.opnd r.opnd2))))
          ((placesOf r.sPlaces 0 r.stream).zip (bytesOfNat r.stream old))) ∧
    (r.form = 7 → ∃ t, exec .siphonTransfer s = .next t ∧ t.mem = s.mem ∧ Performed s t r r.chunk ∧
      ∀ p ∈ src, zoneOf p = .device → s.badIn (64 * (p / 64)) 64 = false →
        t.line s.arg.c p = some (s.read (64 * (p / 64)) 64))) ∧
  (∀ (s : State) (r : SphCmd) (p : Nat), Moves s r → r.stream ≤ r.done → r.skipAt = some p →
    ∃ t, exec .siphonTransfer s = .next t ∧ t.mem = memWrites s.mem (cellsAt p (bytesOfNat 4 r.skips)) ∧
      (t.ctx s.arg.c).cByte = minusSat (s.ctx s.arg.c).cByte r.left) ∧
  ∀ (w old y z : Nat), 0 < w → old < 2 ^ w → y < 2 ^ w →
    sphAtomNew 0 w old y z = (BitVec.ofNat w old + BitVec.ofNat w y).toNat ∧
    sphAtomNew 1 w old y z = (if (BitVec.ofNat w y).slt (BitVec.ofNat w old) then y else old) ∧
    sphAtomNew 2 w old y z = (if (BitVec.ofNat w old).slt (BitVec.ofNat w y) then y else old) ∧ sphAtomNew 3 w old y z = y ∧
    sphAtomNew 4 w old y z = (if old = z then y else old) ∧ sphAtomNew 5 w old y z = min old y ∧ sphAtomNew 6 w old y z = max old y

/-- An exact add (R74, R256, R258), field by field of the 40-byte elements: I, CNT, CLS, WX, WO, NVI and e of the destination and the
source, numbers with the least significant byte first. Elements of equal e give `xt_add`; unequal e give it with WO set and the
destination's e; an element with a reserved part not zero, or e outside ±2048, leaves I, CNT, CLS and e of the destination as they are,
and WO and NVI set. Only the last two are bad pairs. -/
def Sys2Proof.Claims.ExactAdd : Prop :=
  ∀ (d b : Nat), d < 2 ^ 320 → b < 2 ^ 320 →
    let field := fun (x lo n : Nat) => x / 2 ^ lo % 2 ^ n
    let flag := fun (x k : Nat) => (x / 2 ^ k).testBit 0
    let e := fun (x : Nat) => (BitVec.ofNat 16 (field x 296 16)).toInt
    let broken := fun (x : Nat) => field x 293 3 ≠ 0 ∨ field x 312 8 ≠ 0 ∨ e x < -2048 ∨ 2047 < e x
    let r := exactAdd d b
    let cd := field d 288 2
    let cb := field b 288 2
    let sum := field d 256 32 + field b 256 32
    r.1 < 2 ^ 320 ∧ (r.2 = true ↔ broken d ∨ broken b ∨ e d ≠ e b) ∧
    (¬ broken d → ¬ broken b →
      field r.1 0 256 = (field d 0 256 + field b 0 256) % 2 ^ 256 ∧ field r.1 256 32 = min sum (2 ^ 32 - 1) ∧
      field r.1 288 2 = (if cd = cb ∨ cb = 0 then cd else if cd = 0 then cb else 3) ∧
      (flag r.1 290 = true ↔ flag d 290 = true ∨ flag b 290 = true) ∧
      (flag r.1 291 = true ↔ flag d 291 = true ∨ flag b 291 = true ∨ 2 ^ 32 - 1 < sum ∨ e d ≠ e b) ∧
      (flag r.1 292 = true ↔ flag d 292 = true ∨ flag b 292 = true ∨ cd = 1 ∧ cb = 2 ∨ cd = 2 ∧ cb = 1) ∧
      e r.1 = e d ∧ field r.1 293 3 = 0 ∧ field r.1 312 8 = 0) ∧
    (broken d ∨ broken b → flag r.1 291 = true ∧ flag r.1 292 = true ∧
      ∀ k, k ≠ 291 → k ≠ 292 → r.1.testBit k = d.testBit k)

/-- A siphon command moves and completes (R74, R241, R255 to R258, R85, R91, R254): a committed command in whose way nothing stands moves
its next bytes and counts them off `c.byte`; a command all of whose bytes are performed offers its records, then leaves its record,
lowers `c.sph` and posts its flag; where bytes of it could not be read its machine check is due at a drain point at once, at a `waitc`
on `c.byte` with its last byte and at one on `c.sph` with its completion (R259; log 130, DEDUCED), its record naming slot 1 and the PC of
the bundle that issued the command (log 38, DEDUCED); a command waiting for a frame is tried again after its back-off. That bytes outside
the device are written at once rests on log 26. -/
def Obligations.SiphonEvents : Prop :=
  SiphonMoves ∧ ExactAdd ∧
  (∀ (x : Ctx) (r : SphCmd), x.cond ≠ .absent →
    x.records.find? (fun q => q.idx == r.idx && q.st == .committed && q.errFirst.isSome) = some r →
    (x.dueCheck r.idx).deferred =
      let due := x.deferred ++ if r.checked then [] else [{
        cause := 0x0A, pc := r.pc, slot := some 1, exc := 0, detail := mcDetail 3 r.idx, watch := [], id := r.seq }]
      if r.moved then due.map (seenAt r.seq 1) else due) ∧
  (∀ (s : State), (s.ctx s.arg.c).sphRec s.arg.k = none →
    exec .siphonTransfer s = .next s ∧ exec .siphonComplete s = .next s) ∧
  (∀ (s : State) (r : SphCmd), (s.ctx s.arg.c).sphRec s.arg.k = some r → r.st = .committed → r.stale = false →
    r.moved = true →
    (r.badFirst = none → r.errFirst = none → r.recs = 0 → ∃ t, exec .siphonComplete s = .next t ∧
      (t.ctx s.arg.c).sphRec s.arg.k = none ∧ (t.ctx s.arg.c).cSph = minusSat (s.ctx s.arg.c).cSph 1 ∧ t.mem = s.mem ∧
      (r.post = none → t.posts = s.posts) ∧
      ∀ gi f n d, r.post = some (gi, f, n) → s.postGoal s.arg.c gi = some d →
        t.posts = s.posts ++ [{ src := some (s.arg.c, (s.ctx s.arg.c).opSeq, []), c := d, f := f, n := n }]) ∧
    (r.recs = 0 → r.offered = true → ∃ t, exec .siphonComplete s = .next t ∧ (t.ctx s.arg.c).sphRec s.arg.k = none ∧
      (t.ctx s.arg.c).cSph = minusSat (s.ctx s.arg.c).cSph 1 ∧
      (t.ctx s.arg.c).deferred = (s.ctx s.arg.c).deferred.map (seenAt r.seq 0)) ∧
    (0 < r.recs → r.offered = true → exec .siphonComplete s = .next s) ∧
    (r.badFirst ≠ none ∨ r.errFirst ≠ none → r.offered = false → ∃ t q, exec .siphonComplete s = .next t ∧ t.mem = s.mem ∧
      (t.ctx s.arg.c).sphRec s.arg.k = some q ∧ q.offered = true ∧
      t.records.length = s.records.length + (if r.badFirst = none then 0 else 1) + if r.errFirst = none then 0 else 1)) ∧
  (∀ (s : State), s.arg.ok = true → ∃ t, exec .reserveRefusalRetry s = .next t ∧ t.mem = s.mem ∧
    (t.ctx s.arg.c).records = (s.ctx s.arg.c).records.map fun r =>
      if r.idx = s.arg.k ∧ r.st = .waitFrame then { r with st := .committed } else r) ∧
  ∀ (s : State), s.arg.ok = false → ∃ t, exec .reserveRefusalRetry s = .next t ∧ t.mem = s.mem ∧
    (t.ctx s.arg.c).draft = (s.ctx s.arg.c).draft.map fun r => { r with st := .held }

/-- The fault buffer and TLB invalidation (R251, R252, R383): with room the oldest record of an engine goes to slot HEAD mod 4,096, then
HEAD rises and the named flag is posted, and the siphon command that waits for it has one fewer to wait for; with the ring full it is
kept and REFUSED rises; with FBUF 0 it is kept; the unit's read of the control block corrects its single-bit errors (R391); the end of
the back-off lets the record be offered again; an invalidation completes when no command it waits for is left. -/
def Obligations.FaultBuffer : Prop :=
  (∀ (s : State) (r : FRec) (cb slot : Nat), s.firstRecord s.arg.n = some r → r.refused = false → s.controlBlock = some cb →
    s.ringSlot cb = some slot → s.ringRoom cb = true → ∃ t, exec .faultRecordOffer s = .next t ∧
      t.mem = memWrites (memWrites s.mem (cellsAt slot r.bytes)) (cellsAt cb (bytesOfNat 8 (s.readNat cb 8 + 1))) ∧
      t.records = dropFirst s.arg.n s.records ∧ (∀ g ∈ t.softMem, granuleMeets cb 64 g = false) ∧
      (s.readNat (cb + 32) 2 < 384 → r.cmd = none → t.ctx (s.readNat (cb + 32) 2) =
        (s.ctx (s.readNat (cb + 32) 2)).post (s.readNat (cb + 34) 1 % 32) 1) ∧
      ∀ c i, r.c = some c → r.cmd = some i → (t.ctx c).records = (s.ctx c).records.map fun q =>
        if q.order = i then { q with recs := q.recs - 1 } else q) ∧
  (∀ (s : State) (r : FRec) (cb slot : Nat), s.firstRecord s.arg.n = some r → r.refused = false → s.controlBlock = some cb →
    s.ringSlot cb = some slot → s.ringRoom cb = false → ∃ t q, exec .faultRecordOffer s = .next t ∧
      t.mem = memWrites s.mem (cellsAt (cb + 24) (bytesOfNat 8 (s.readNat (cb + 24) 8 + 1))) ∧
      (∀ g ∈ t.softMem, granuleMeets cb 64 g = false) ∧ t.firstRecord s.arg.n = some q ∧ q.refused = true ∧ q.bytes = r.bytes) ∧
  (∀ (s : State) (r : FRec), s.firstRecord s.arg.n = some r → r.refused = false → s.mgmt.fbuf = 0 →
    ∃ t q, exec .faultRecordOffer s = .next t ∧ t.mem = s.mem ∧ t.records.length = s.records.length ∧
      t.firstRecord s.arg.n = some q ∧ q.refused = true ∧ q.bytes = r.bytes) ∧
  (∀ (s : State), s.firstRecord s.arg.n = none → exec .faultRecordOffer s = .next s) ∧
  (∀ (s : State) (r : FRec), s.firstRecord s.arg.n = some r → ∃ t, exec .faultRecordRetry s = .next t ∧ t.mem = s.mem ∧
    t.firstRecord s.arg.n = some { r with refused := false }) ∧
  (∀ (s : State) (i : PendInv) (r : List PendInv), s.invs = i :: r →
    ((∀ w ∈ i.waits, s.holdsOld w = false) →
      exec .tlbInvalidateComplete s = .next { s with invs := r, mgmt := { s.mgmt with tlbInv := false } }) ∧
    ((∃ w ∈ i.waits, s.holdsOld w = true) → exec .tlbInvalidateComplete s = .next s))

/-! ### Acts of the task engine -/

/-- A counter after the stage effects of one clock cycle (R344, R95): a final value stays; else the counter takes the greatest setting,
then the sum of the advances, clipped to STAGES with a note; an exit among the effects gives 0xFFFF. -/
def Sys2Proof.Claims.BoardMoves : Prop :=
  ∀ (stages v : Nat) (l : List StageEff),
    let greatest := ((l.filter fun e => e.kind == .set).map (·.n)).foldl max v
    let sum := greatest + ((l.filter fun e => e.kind == .adv).map (·.n)).sum
    (0xFFFE ≤ v → boardStep stages v l = (v, false)) ∧
    (v < 0xFFFE → (boardStep stages v l).2 = decide (stages < sum) ∧
      (boardStep stages v l).1 = if ∃ e ∈ l, e.kind = .exit then 0xFFFF else if stages < sum then stages else sum)

/-- The root task completes last (R335, R337, R355): while another task but a service task is not over it waits; then a service task
is killed; at last its record is written and the machine is free for another root. -/
def Sys2Proof.Claims.RootCompletes : Prop :=
  ∀ (s : State) (k : Task), s.findTask s.arg.t = some k → k.num = 1 → k.recorded = false → k.st = .live → s.stepsOver k = true →
    s.leftChildren k = [] →
    ((∃ u ∈ s.tasks, u.num ≠ 1 ∧ u.svc = false ∧ u.recorded = false) → exec .taskComplete s = .next s) ∧
    (∀ u, (∀ w ∈ s.tasks, w.num ≠ 1 → w.svc = true ∨ w.recorded = true) →
      s.tasks.find? (fun w => w.svc && !w.recorded) = some u →
      exec .taskComplete s = .next (if u.st = .killed then s else s.killTask u.num)) ∧
    ∀ (r : Revision) (p : Nat), (∀ w ∈ s.tasks, (w.num = 1 ∧ w.svc = false) ∨ w.recorded = true) → s.findRev k.rev = some r →
      crecPlace s r.table (opbCrec k.opb) = some p → ∃ t, exec .taskComplete s = .next t ∧
        t.mem = memWrites s.mem (cellsAt p (completionRecord k 1 0)) ∧ t.tasks = [] ∧ t.nextTask = 1 ∧ t.revs = [] ∧
        t.board = [] ∧ t.stageQ = [] ∧ t.framesUsed = []

/-- When a stage effect may reach the board (R93, R87): its step is neither parked nor saved, the stores, siphon commands, pump feeds and
drains it follows are performed, of every context of the step, and so is every access an `xf` to task names. That it waits while the step
is saved (log 73, DEDUCED), and for what was issued before it by the issue numbers of the model (log 27, DEDUCED), are the model's
readings. -/
def Sys2Proof.Claims.EffectsWait : Prop :=
  (∀ (s : State) (e : StageEff) (k : Step), s.findStep e.task e.step = some k →
    (e ∈ s.readyEffects e.task e.step ↔ e ∈ s.stageQ ∧ k.parkedBy = [] ∧ k.saved = false ∧
      (∀ w ∈ e.waits, s.opsDone w.1 w.2 = true) ∧ ∀ f ∈ e.fences, s.pathDone f.1 f.2.path f.2.seq = true)) ∧
  (∀ (s : State) (e : StageEff), s.findStep e.task e.step = none → e ∉ s.readyEffects e.task e.step) ∧
  (∀ (s : State) (task step : Nat), (s.readyEffects task step).Sublist s.stageQ) ∧
  ∀ (s : State) (c n : Nat), let x := s.ctx c
    (s.opsDone c n = true ↔ (∀ e ∈ x.woq, n ≤ e.seq) ∧ (∀ r ∈ x.records, r.seq < n → r.st = .held) ∧
      (∀ o ∈ x.mx ++ x.latching, o.seq < n → match o.kind with
        | .drain _ => False
        | .feed f => f.pump = false
        | _ => True) ∧
      ∀ b, x.bagRun = some b → ∀ f ∈ b.feeds, f.seq < n → f.f.pump = true → ∀ r ∈ f.rows, r.fate.settled = true)

/-- When a step may retire (R95, R178, R149): its exit stands on the board, or its kill has reached all its contexts, and of each of them
no siphon command, store, atomic, post to or from it, array operation, drain or bag is left. -/
def Sys2Proof.Claims.StepsRetire : Prop :=
  ∀ (s : State) (k : Step),
    s.mayRetire k = true ↔
      ((k.killed = true ∧ ∀ c ∈ k.nums, (s.ctx c).cond = .absent) ∨
        (k.exiting = true ∧ countIn s.board k.task k.step = 0xFFFF ∧ k.saved = false)) ∧
      ∀ c ∈ k.nums, let x := s.ctx c
        x.records = [] ∧ x.woq = [] ∧ (∀ a ∈ (s.cis (cisOf c)).atoms, a.c ≠ c) ∧
        (∀ p ∈ s.posts, p.c ≠ c ∧ ∀ q, p.src = some q → q.1 ≠ c) ∧ x.mx = [] ∧ x.latching = [] ∧ x.bagRun = none

/-- The 64 bytes of a completion record (R336), field by field: status, cause, notes, the task's number, the OR of its retired steps'
FFLAGS, the signature, the counts of exited and abandoned steps, of auto-joined children and of pre-emptions; the rest zero. -/
def Sys2Proof.Claims.CompletionLayout : Prop :=
  ∀ (k : Task) (status cause : Nat), k.sig.length = 16 →
    let r := completionRecord k status cause
    let at' := fun (o n : Nat) => natOfBytes ((r.drop o).take n)
    r.length = 64 ∧ at' 0 1 = status % 256 ∧ at' 1 1 = cause % 256 ∧ at' 2 1 = k.notes % 256 ∧ at' 3 1 = 0 ∧
    at' 4 4 = k.num % 2 ^ 32 ∧ at' 8 8 = k.fflags.toNat ∧ (r.drop 16).take 16 = k.sig ∧ at' 32 4 = k.exited % 2 ^ 32 ∧
    at' 36 4 = k.abandoned % 2 ^ 32 ∧ at' 40 4 = k.joined % 2 ^ 32 ∧ at' 44 4 = k.preempts % 2 ^ 32 ∧ at' 48 16 = 0

/-- The 64 bytes of a merge report (R353), field by field, from byte 64 of the completion block on: kind 2, status, the child's number,
pages, changed elements, conflicts, the flags NV to NX, the child's fork order key; the rest zero. -/
def Sys2Proof.Claims.MergeReportLayout : Prop :=
  ∀ (k : Task) (status : Nat) (j : PendJoin),
    let r := mergeReport k status j
    let at' := fun (o n : Nat) => natOfBytes ((r.drop o).take n)
    r.length = 64 ∧ at' 0 1 = 2 ∧ at' 1 1 = status % 256 ∧ at' 2 2 = 0 ∧ at' 4 4 = k.num % 2 ^ 32 ∧ at' 8 4 = j.nPages % 2 ^ 32 ∧
    at' 12 4 = j.changed % 2 ^ 32 ∧ at' 16 4 = j.conflicts % 2 ^ 32 ∧ at' 20 1 = j.flags.toNat % 32 ∧ at' 21 3 = 0 ∧
    at' 24 8 = k.forkKey % 2 ^ 64 ∧ at' 32 32 = 0

/-- The 32 bytes of a kind-5 record (R359), field by field: kind 5, cause, the child, the address, the count, step and task; the rest
zero. -/
def Sys2Proof.Claims.TaskRecordLayout : Prop :=
  ∀ (cause other addr count step task : Nat),
    let r := taskRecord cause other addr count step task
    let at' := fun (o n : Nat) => natOfBytes ((r.drop o).take n)
    r.length = 32 ∧ at' 0 1 = 5 ∧ at' 1 1 = cause % 256 ∧ at' 2 2 = 0 ∧ at' 4 4 = other % 2 ^ 32 ∧ at' 8 8 = addr % 2 ^ 64 ∧
    at' 16 4 = count % 2 ^ 32 ∧ at' 20 4 = step % 2 ^ 32 ∧ at' 24 4 = task % 2 ^ 32 ∧ at' 28 4 = 0

/-- Stages, retirement, completion and ageing (R93, R344, R345, R95, R336, R337, R338): ready effects of one clock cycle move a counter,
with a note in the completion record where they pass STAGES; a cache takes the board's value; a step whose exit is on the board and whose
accesses are done frees its contexts and counts in its task; a task all of whose steps and joins are over writes its completion record,
whose fields are laid out here, the root task last. That a stage effect of a saved step waits (log 73, DEDUCED), and waits by issue numbers
(log 27, DEDUCED), are the model's readings. -/
def Obligations.StepsAndTasksEnd : Prop :=
  BoardMoves ∧ EffectsWait ∧ StepsRetire ∧ RootCompletes ∧ CompletionLayout ∧
  (∀ (stages v : Nat) (l : List StageEff), v ≤ stages → stages ≤ 0xFFFD →
    v ≤ (boardStep stages v l).1 ∧ ((boardStep stages v l).1 ≤ stages ∨ (boardStep stages v l).1 = 0xFFFF)) ∧
  (∀ (s : State) (k : Task) (b : Count), s.findTask s.arg.t = some k → b ∈ s.board → b.task = s.arg.t → b.step = s.arg.n →
    let l := (s.readyEffects s.arg.t s.arg.n).take s.arg.k
    l ≠ [] → ∃ t, exec .stageApply s = .next t ∧ t.mem = s.mem ∧
      countIn t.board s.arg.t s.arg.n = (boardStep (opbStages k.opb) (countIn s.board s.arg.t s.arg.n) l).1 ∧
      t.findTask s.arg.t = some { k with
        notes := if (boardStep (opbStages k.opb) (countIn s.board s.arg.t s.arg.n) l).2 then k.notes ||| 2 else k.notes } ∧
      ∀ e, e ∈ t.stageQ ↔ e ∈ s.stageQ ∧ e ∉ l) ∧
  (∀ (s : State) (b : Count), b ∈ s.board → b.task = s.arg.t → b.step = s.arg.k → ∃ t, exec .stageCacheUpdate s = .next t ∧
    countIn (t.cis s.arg.n).cache s.arg.t s.arg.k = countIn s.board s.arg.t s.arg.k ∧ t.mem = s.mem ∧ t.ctxs = s.ctxs) ∧
  (∀ (s : State) (k : Step), s.findStep s.arg.t s.arg.n = some k →
    (s.mayRetire k = true → ∃ t, exec .stepRetire s = .next t ∧ t.findStep s.arg.t s.arg.n = none ∧ t.mem = s.mem ∧
      (∀ c ∈ k.nums, (t.ctx c).cond = .absent) ∧
      (∀ u, s.findTask s.arg.t = some u → ∃ v, t.findTask s.arg.t = some v ∧
        v.exited = u.exited + (if k.killed then 0 else 1) ∧ v.abandoned = u.abandoned + (if k.killed then 1 else 0))) ∧
    (s.mayRetire k = false → exec .stepRetire s = .next s)) ∧
  (∀ (s : State) (k : Task), s.findTask s.arg.t = some k → k.recorded = false → k.st = .live → s.stepsOver k = true →
    (∀ (r : Revision) (p : Nat), s.leftChildren k = [] → k.num ≠ 1 → s.findRev k.rev = some r →
      crecPlace s r.table (opbCrec k.opb) = some p → ∃ t u, exec .taskComplete s = .next t ∧
        t.mem = memWrites s.mem (cellsAt p (completionRecord k 1 0)) ∧ t.findTask s.arg.t = some u ∧ u.recorded = true ∧
        u.st = .complete) ∧
    (∀ (u : Task) (l : List Task), s.leftChildren k = u :: l → u.join = .unjoined → ∃ t, exec .taskComplete s = .next t ∧
      t.mem = s.mem ∧ t.joins = s.joins ++ [{ c := none, parent := k.num, child := u.num, auto := true }])) ∧
  (∀ (s : State) (k : Task), s.findTask s.arg.t = some k → (s.nextStep k).isSome = true → k.svc = false →
    exec .taskAgeing s = .next (s.updTask s.arg.t fun u => { u with boost := min 15 (u.boost + 1) }))

/-- What a task's next step is (R28, R338, R339): a live task whose dependences have all been recorded takes up the pre-empted step with the
lowest number, else starts the next step number, where step s − W has retired. -/
def Sys2Proof.Claims.NextStep : Prop :=
  ∀ (s : State) (t : Task),
    let ready := t.st = .live ∧ t.recorded = false ∧
      ∀ k, k < 4 → opbDep t.opb k ≠ 0 → ∀ u ∈ s.tasks, u.num = opbDep t.opb k → u.recorded = true
    let saved := fun (k : Step) => k ∈ s.steps ∧ k.task = t.num ∧ k.saved = true ∧ k.killed = false
    (¬ ready → s.nextStep t = none) ∧
    (ready → (∃ k, saved k) → ∃ k, saved k ∧ (∀ j, saved j → k.step ≤ j.step) ∧ s.nextStep t = some (some k, k.step)) ∧
    (ready → (∀ k, ¬ saved k) → s.nextStep t =
      if t.started < opbSteps t.opb ∧
        (t.started < opbW t.opb ∨ ∀ k ∈ s.steps, k.task = t.num → k.step + opbW t.opb ≠ t.started)
      then some (none, t.started) else none)

/-- Where a step goes (R339, R341, R281, R218): the lowest cistern in which enough tiles serve, the lowest of them; a tile serves a task of
its kind with enough contexts that no step holds, no second lockstep gang, and a free run of its well, the lowest; a cistern whose
route counters are granted serves no task that wants them. -/
def Sys2Proof.Claims.FreePlaces : Prop :=
  (∀ (s : State) (t : Task) (c : Nat) (l : List Member),
    (s.spot t = some (c, l) ↔ c < 24 ∧ s.cisSpot t c = some l ∧ ∀ d, d < c → s.cisSpot t d = none)) ∧
  (∀ (s : State) (t : Task) (c : Nat),
    let size := opbAlloc t.opb * opbCtxs t.opb
    let l := (List.range 8).filterMap fun j =>
      (s.tileSpot t c j).map fun b => { tile := j, base := b, size := size : Member }
    s.cisSpot t c = if (t.wantsRc = true ∧ (s.cis c).grant ≠ none) ∨ l.length < opbTiles t.opb then none
      else some (l.take (opbTiles t.opb))) ∧
  ∀ (s : State) (t : Task) (c j b : Nat),
    let size := opbAlloc t.opb * opbCtxs t.opb
    let here := fun (k : Step) => k ∈ s.steps ∧ k.saved = false ∧ k.cis = c
    let free := fun (b : Nat) => b + size ≤ 32 ∧
      ∀ k, here k → ∀ m ∈ k.members, m.tile = j → ¬ (m.base < b + size ∧ b < m.base + m.size)
    let open' := (s.mgmt.svcTile.getLsbD (8 * c + j) = t.svc) ∧
      opbCtxs t.opb ≤ ([16 * c + 2 * j, 16 * c + 2 * j + 1].filter fun d =>
        !(s.steps.any fun k => !k.saved && k.nums.contains d)).length ∧
      ¬ (t.lock = true ∧ ∃ k, here k ∧ (s.findTask k.task).any Task.lock = true ∧ ∃ m ∈ k.members, m.tile = j)
    s.tileSpot t c j = some b ↔ open' ∧ b < 32 ∧ free b ∧ ∀ a, a < b → ¬ free a

/-- The walker's choice (R338, R339): of the tasks with a next step that fits, the one of highest effective priority, of equal ones the one
with the lowest number; effective priority is the OPB's with what waiting has added, at most 15. -/
def Sys2Proof.Claims.WalkerChooses : Prop :=
  (∀ t : Task, t.eff = min 15 (opbPrio t.opb + if t.svc then 0 else t.boost)) ∧
  (∀ (s : State) (t : Task) (ch : Choice), s.choiceOf t = some ch ↔
    s.nextStep t = some (ch.saved, ch.step) ∧ s.spot t = some (ch.cis, ch.members) ∧ ch.task = t ∧
    (ch.saved = none → takePools Config.saveArea (List.range (opbTiles t.opb * opbCtxs t.opb)) s ≠ none)) ∧
  ∀ (s : State), (s.choice = none ↔ ∀ t ∈ s.tasks, s.choiceOf t = none) ∧
    ∀ ch, s.choice = some ch → ch.task ∈ s.tasks ∧ s.choiceOf ch.task = some ch ∧
      ∀ t ∈ s.tasks, s.choiceOf t ≠ none → t.eff < ch.task.eff ∨ (t.eff = ch.task.eff ∧ ch.task.num ≤ t.num)

/-- Who is asked for its tiles (R342): a waiting task is one whose next step does not fit, not even with the steps gone that have been asked
for their tiles already, and their route counters free; the first of them in the walker's order asks; the victim is the running step of
lowest effective priority below its own, of equal ones the one of the highest task number, then of the highest step number; none is asked
while the save pool cannot hold its images. -/
def Sys2Proof.Claims.VictimsInOrder : Prop :=
  (∀ (s : State) (t : Task), t ∈ s.waiting ↔ t ∈ s.tasks ∧ s.nextStep t ≠ none ∧ s.spot t = none ∧ s.freed.spot t = none) ∧
  (∀ (s : State), s.freed = { s with steps := s.steps.filter fun k => k.asked.isNone, ciss := s.freed.ciss } ∧
    ∀ c, c < 24 → s.freed.cis c = { s.cis c with grant :=
      if (s.steps.any fun k => k.asked.isSome && k.cis % 24 == c && (s.cis c).grant == some (k.task, k.step)) then none
      else (s.cis c).grant }) ∧
  (∀ (l : List Task), (firstOf l = none ↔ l = []) ∧ ∀ t, firstOf l = some t → t ∈ l ∧
    ∀ u ∈ l, u.eff < t.eff ∨ (u.eff = t.eff ∧ t.num ≤ u.num)) ∧
  ∀ (s : State) (t : Task),
    let may := fun (k : Step) => k ∈ s.steps ∧ k.saved = false ∧ k.killed = false ∧ k.asked = none ∧ k.spared = false ∧
      (s.findTask k.task).any Task.svc = false ∧ s.stepEff k < t.eff
    (∀ k, s.firstVictim t = some k → may k ∧ ∀ j, may j → s.stepEff k < s.stepEff j ∨
      (s.stepEff k = s.stepEff j ∧ (j.task < k.task ∨ (j.task = k.task ∧ j.step ≤ k.step)))) ∧
    (s.firstVictim t = none ↔ ∀ k, ¬ may k) ∧
    s.victim t = (s.firstVictim t).filter fun k => (takeImages k.imageLens s).isSome

/-- Ranges of bytes that lie apart from each other. -/
def Sys2Proof.Claims.Apart (l : List (Nat × Nat)) : Prop := l.Pairwise fun x y => x.1 + x.2 ≤ y.1 ∨ y.1 + y.2 ≤ x.1

/-- The bytes a saved gang leaves in the save pool (R261, R277, R343): where the pieces it takes lie apart from each other and from the
wells, each context's save area holds its image, reason 0, with the commands it saves and the counters they come to, and each piece of
an allocation image the bytes of the member's part of its well. -/
def Sys2Proof.Claims.SavedBytes (s t : State) (k j : Step) : Prop :=
  let areas := k.ctxs.filterMap fun e => (k.areas.find? fun a => a.1 == e.1).map fun a => (e.2, a.2)
  let saved := fun (c : Nat) => let x := s.ctx c
    ({ x with
      cSph := BitVec.ofNat 32 x.savedCmds.length
      cByte := BitVec.ofNat 32 (x.savedCmds.map SphCmd.total).sum }).imageFields 0 0 x.savedCmds
  let wells := k.members.map fun m => (wellPlace (8 * k.cis + m.tile) (65536 * m.base), 65536 * m.size)
  let images := (j.images.map Prod.snd).zip (k.members.map fun m => 65536 * m.size)
  j.images.length = k.members.length ∧
  (Memory.wf s.mem = true → s.badMem = [] →
    Apart (areas.map (fun a => (a.2, Config.saveArea)) ++ images ++
      j.tileImages.map (fun e => (e.2, Config.tileImageRoom)) ++ wells) →
    (∀ m ∈ k.members.zipIdx, let own := onTile k.ctxs (8 * k.cis + m.1.tile)
      tileImageSize (s.tidImageOf k m).2 (own.map s.ctx) ≤ Config.tileImageRoom) →
    (∀ a ∈ areas, ∀ c ∈ fieldCells a.2 (saved a.1), a.2 ≤ c.1 ∧ c.1 < a.2 + Config.saveArea) →
    (∀ a ∈ areas, ∀ o, o < Config.saveArea →
      memRead t.mem (a.2 + o) = memRead (s.putImage a.2 (saved a.1)).mem (a.2 + o)) ∧
    ∀ w ∈ wells.zip images, ∀ o, o < w.1.2 → memRead t.mem (w.2.1 + o) = memRead s.mem (w.1.1 + o))

/-- Placement, resumption and pre-emption (R338, R339, R341, R334, R139, R342, R343, R261, R263, R277): the step the walker chooses starts
with its contexts at the entry PC, registers zero and the argument stream in stream register 3; a saved step comes back on its new
tiles; a victim of lower effective priority is asked for its tiles, a withdrawn request lets its contexts run on, and a gang that has
stopped, drained, is saved and leaves its tiles; a preload leaves the bytes and zeros beyond. The model's readings: an entry or image
PC is cut to a multiple of 16 in 32 bits (log 17), a step holds its save areas from its placement on (log 28), and a gang is saved only
once no post from or to it is in flight (log 72, DEDUCED). -/
def Obligations.PlacementAndPreemption : Prop :=
  NextStep ∧ FreePlaces ∧ WalkerChooses ∧ VictimsInOrder ∧
  (∀ (s u : State) (ch : Choice) (l : List (Nat × Nat)), s.choice = some ch → ch.saved = none →
    let gang := s.gangOf ch.cis (opbCtxs ch.task.opb) ch.members
    takePools Config.saveArea (gang.map Prod.fst) s = some (l, u) → ∃ t k, exec .stepPlace s = .next t ∧ k ∈ t.steps ∧
      k.task = ch.task.num ∧ k.step = ch.step ∧ k.cis = ch.cis ∧ k.members = ch.members ∧ k.ctxs = gang ∧ k.areas = l ∧
      ∀ e ∈ gang, let x := t.ctx e.2
        x.cond = .running ∧ x.pc = alignPc (opbEntry ch.task.opb) ∧ x.restart = x.pc ∧ x.sh = x.a ∧ x.task = ch.task.num ∧
        x.step = ch.step ∧ (∀ n, x.a.rS n = 0 ∧ x.a.rA n = 0 ∧ x.a.rV n = 0 ∧ x.a.rW n = 0) ∧
        x.a.nmr = opbStartNmr ch.task.opb ∧ vget x.a.z 3 = argStream ch.task.opb ch.step ch.task.num ∧
        (∀ f, vget x.flags f = 0) ∧ x.a.loops = []) ∧
  (∀ (s : State) (p n : Nat) (l : List Byte) (a : Nat), Memory.wf s.mem = true → l.length ≤ n →
    memRead (s.fillRange p n l).mem a = if p ≤ a ∧ a < p + n then l.getD (a - p) 0 else memRead s.mem a) ∧
  (∀ (s : State) (ch : Choice) (k : Step), s.choice = some ch → ch.saved = some k →
    let v := s.correctSaved k
    ReadsCorrected s v (k.areas.map (fun a => (a.2, Config.saveArea)) ++ k.tileReads) ∧ k.tileReads.map Prod.fst = k.tileImages.map Prod.snd ∧
    (s.brokenSaved k = true ↔ (∃ a ∈ k.areas, imageBroken s a.2 true = true ∨ s.badIn a.2 Config.saveArea = true) ∨
      ∃ r ∈ k.tileReads, s.badIn r.1 r.2 = true) ∧
    (∀ u, s.brokenSaved k = false →
      reviveAll (v.gangOf ch.cis (opbCtxs ch.task.opb) ch.members) k (resumePrep ch k v) = some u → ∃ t,
        exec .stepResume s = .next t ∧ t.mem = u.mem ∧ t.ctxs = u.ctxs ∧ t.steps = u.steps) ∧
    (s.brokenSaved k = true → exec .stepResume s = .next (v.engineKill k.task k.step 1))) ∧
  (∀ (s : State) (area : Nat) (x y : Ctx), let z := s.revive area x y
    z.pc = alignPc (s.readNat area 4) ∧ z.restart = z.pc ∧ z.cond = (if x.cond = .exited then .exited else .running) ∧
    z.records = [] ∧ z.req = none ∧ z.forks = x.forks ∧ z.a.phases = x.a.phases ∧
    ∀ n, 0 < n → n < 32 → z.a.rS n = BitVec.ofNat 64 (s.readNat (area + 0x300 + 8 * n) 8)) ∧
  (∀ (s : State) (w : Task) (k : Step), s.arg.ok = true → firstOf s.waiting = some w → s.victim w = some k →
    s.stepEff k < w.eff ∧ ∃ t j, exec .preemptRequest s = .next t ∧ t.findStep k.task k.step = some j ∧ j.asked = some w.num ∧
      (∀ c ∈ k.nums, (t.ctx c).preempt = true) ∧ t.mem = s.mem) ∧
  (∀ (s : State), s.arg.ok = false →
    exec .preemptRequest s = .next (s.updStep s.arg.t s.arg.n fun k => { k with spared := false })) ∧
  (∀ (s : State) (k : Step), s.findStep s.arg.t s.arg.n = some k → k.asked ≠ none → s.allStopped k = false →
    ∃ t j, exec .preemptWithdraw s = .next t ∧ t.findStep s.arg.t s.arg.n = some j ∧ j.asked = none ∧ j.spared = true ∧
      t.mem = s.mem ∧ ∀ c ∈ k.nums, (t.ctx c).preempt = false ∧
        (t.ctx c).cond = (if (s.ctx c).cond = .stopped then .running else (s.ctx c).cond)) ∧
  (∀ (s : State) (k : Step), s.findStep s.arg.t s.arg.n = some k →
    (s.maySave k = true ↔ k.asked ≠ none ∧ k.saved = false ∧ k.killed = false ∧ ∀ c ∈ k.nums, let x := s.ctx c
      (x.cond = .stopped ∨ x.cond = .exited) ∧ x.quiet = true ∧ x.woq = [] ∧ (∀ a ∈ (s.cis (cisOf c)).atoms, a.c ≠ c) ∧
      (∀ p ∈ s.posts, p.c ≠ c ∧ ∀ q, p.src = some q → q.1 ≠ c) ∧ x.mx = [] ∧ x.latching = [] ∧ x.bagRun = none) ∧
    (s.maySave k = true → takeImages k.imageLens s ≠ none → ∃ t j, exec .gangPreempt s = .next t ∧
      t.findStep s.arg.t s.arg.n = some j ∧ j.saved = true ∧ j.asked = none ∧ j.ctxs = [] ∧
      j.kept = k.ctxs.map (fun e => (e.1, { s.ctx e.2 with req := none, preempt := false })) ∧ SavedBytes s t k j ∧
      ∀ c ∈ k.nums, (t.ctx c).cond = .absent) ∧
    (s.maySave k = false → exec .gangPreempt s = .next s))

/-- The merge rules (R350, R75): an element both leave alone stays; KEEP, TAKE, CONFLICT, OR and AND on patterns; ADD is p + c − a, modulo
2^w on integers, on floats exact and rounded once with a positive zero, invalid for a signalling NaN or infinities of both signs; MAX
and MIN pick in the type's order, on floats as `fmax` and `fmin` do. -/
def Sys2Proof.Claims.MergeRules : Prop :=
  ∀ (v : FEnv) (ty m p c a : Nat), let w := 8 * regionSize ty
    let ones := 2 ^ w - 1
    mergeElem v ty m a a a = (a, false, 0) ∧ mergeElem v ty 0 p c a = (p, false, 0) ∧
    mergeElem v ty 1 p c a = (if c = a then p else c, false, 0) ∧
    (mergeElem v ty 2 p c a =
      if c = a ∨ p = c then (p, false, 0) else if p = a then (c, false, 0) else (c, true, 0)) ∧
    mergeElem v ty 6 p c a = (p ||| (c &&& (ones ^^^ a)), false, 0) ∧
    mergeElem v ty 7 p c a = (p &&& (c ||| (ones ^^^ a)), false, 0) ∧
    (∀ sg n, ETy.ofCode ty = .int sg n → ty ≠ 7 → p < 2 ^ w → c < 2 ^ w → a < 2 ^ w →
      mergeElem v ty 3 p c a = ((p + c + (2 ^ w - a)) % 2 ^ w, false, 0) ∧
      mergeElem v ty 4 p c a = (if intVal sg w p < intVal sg w c then c else p, false, 0) ∧
      mergeElem v ty 5 p c a = (if intVal sg w c < intVal sg w p then c else p, false, 0)) ∧
    ∀ t, ETy.ofCode ty = .flt t → ¬ (p = a ∧ c = a) →
      let sum := ((mergeElem v ty 3 p c a).1, (mergeElem v ty 3 p c a).2.2)
      let x := readVal v t p
      let y := readVal v t c
      let z := readVal v t a
      let terms := [x, y, z.neg]
      (mergeElem v ty 3 p c a).2.1 = false ∧
      mergeElem v ty 4 p c a = ((fopMinMax v t true p c).1, false, (fopMinMax v t true p c).2) ∧
      mergeElem v ty 5 p c a = ((fopMinMax v t false p c).1, false, (fopMinMax v t false p c).2) ∧
      (.nan true ∈ terms → sum = (t.cnan, fNV)) ∧ (.nan true ∉ terms → .nan false ∈ terms → sum = (t.cnan, 0)) ∧
      ((∀ i ∈ terms, i.isNan = false) → .inf true ∈ terms → .inf false ∈ terms → sum = (t.cnan, fNV)) ∧
      (∀ n, (∀ i ∈ terms, i.isNan = false) → .inf n ∈ terms → .inf (!n) ∉ terms → sum =
        if t ≠ .e4m3 then (t.infBits n, 0) else if v.satn then (t.maxFin n, 0) else (t.cnan, fNV)) ∧
      ∀ n m e k l f j i h, x = .fin n m e → y = .fin k l f → z = .fin j i h → let b := min (min e f) h
        DeliversInt v t v.rm false (unitsOf n m e b + unitsOf k l f b - unitsOf j i h b) b sum

/-- The elements of a page at virtual address va (R349, R351): those of the regions, each at a multiple of its size, and raw TAKE bytes
outside every region. -/
def Sys2Proof.Claims.PageElements : Prop :=
  ∀ (l : List Region) (va : Nat), va % 65536 = 0 → (∀ r ∈ l, r.start % regionSize r.ty = 0 ∧ r.len % regionSize r.ty = 0) →
    ∀ o n ty mg, ((o, n, ty, mg) ∈ pageElems l va ↔
      (∃ r ∈ l, ty = r.ty ∧ mg = r.merge ∧ n = regionSize r.ty ∧ o % n = 0 ∧ o + n ≤ 65536 ∧ r.start ≤ va + o ∧
        va + o + n ≤ r.start + r.len) ∨
      (n = 1 ∧ ty = 7 ∧ mg = 1 ∧ o < 65536 ∧ ∀ r ∈ l, ¬ (r.start ≤ va + o ∧ va + o < r.start + r.len)))

/-- What merging a page comes to (R351, R350): each element of the page decided from parent, child and ancestor by the rule of its region;
those that come out unlike the parent's are written there and counted, and so are conflicts and flags. An element that cannot be read
in one of the three pages stays as it is (log 114, DESIGN CHOICE). -/
def Sys2Proof.Claims.MergesElements : Prop :=
  ∀ (s : State) (v : FEnv) (l : List Region) (va fp fc fa : Nat),
    let m := mergePage s v l va fp fc fa
    let els := (pageElems l va).filter fun e =>
      !(s.badIn (fp + e.1) e.2.1 || s.badIn (fc + e.1) e.2.1 || s.badIn (fa + e.1) e.2.1)
    let p := fun (e : Nat × Nat × Nat × Nat) => s.readNat (fp + e.1) e.2.1
    let out := fun (e : Nat × Nat × Nat × Nat) =>
      mergeElem v e.2.2.1 e.2.2.2 (p e) (s.readNat (fc + e.1) e.2.1) (s.readNat (fa + e.1) e.2.1)
    let new := els.filter fun e => (out e).1 != p e
    m.cells = new.flatMap (fun e => cellsAt e.1 (bytesOfNat e.2.1 (out e).1)) ∧ m.changed = new.length ∧
    m.conflicts = els.countP (fun e => (out e).2.1) ∧ m.flags = els.foldl (fun f e => f ||| (out e).2.2) 0

/-- Which pages a join merges (R351): those revisioned in parent, child and ancestor map whose frames are not all the ancestor's. -/
def Sys2Proof.Claims.PagesToMerge : Prop :=
  ∀ (s : State) (p c : Revision) (v fp fc fa : Nat),
    pageFrames s p c v = some (fp, fc, fa) ↔
      revFrame s p.table (v * 65536) = some fp ∧ revFrame s c.table (v * 65536) = some fc ∧
      (c.anc.find? fun e => e.1 == v).map Prod.snd = some fa ∧ ¬ (fp = fa ∧ fc = fa)

/-- Forks and joins (R247, R347, R349, R350, R351, R353, R354, R356, R359): a fork of a quiet revision makes the next task in a child
revision, or is refused and recorded when the reserve is empty; a join takes the pages of the child's ancestor map one by one, skipping
those that are the ancestor's, and ends with its report, whose fields are laid out here as those of the kind-5 record are; the join of a
killed parent ends with its child unmerged; the merge of a page is that of its elements, those of the regions and raw bytes elsewhere, each
by its region's rule; no translation of either revision outlives the last page. That the join of a killed parent ends with its child
unmerged and unjoined is the model's reading (log 69, DEDUCED); so is that a child stays kept for a join which a pre-emption has stopped,
whose back-off the retry leaves alone (log 131, DEDUCED). That each page is taken in one act is the model's choice (log 66), and so is what
a merge makes of a page that cannot be read (log 114). -/
def Obligations.ForksAndJoins : Prop :=
  (∀ (s u : State) (f : PendFork) (o : List Byte) (r : Revision), s.forks.find? (fun f => f.c == s.arg.c && !f.hold) = some f →
    s.revQuiet (s.revOf f.c).id = true → s.liveTasks < 16384 → s.revs.length < 4096 →
    taskRead s (s.revOf f.c).table f.opbVa 256 = .ok o →
    s.forkRev (s.revOf f.c) s.nextTask = some (r, u) → ∃ t k, exec .forkSnapshot s = .next t ∧ t.nextTask = s.nextTask + 1 ∧
      r ∈ t.revs ∧ r.id = s.nextRev ∧ r.parent = (s.revOf f.c).id ∧ r.depth = (s.revOf f.c).depth + 1 ∧
      (t.ctx f.c).req = some ((s.ctx f.c).pc, s.nextTask) ∧ (t.ctx f.c).forks = (s.ctx f.c).forks + 1 ∧ k ∈ t.tasks ∧
      k.num = s.nextTask ∧ k.kind = .forked ∧ k.forkKey = f.key ∧ k.parent = (s.ctx f.c).task ∧ k.rev = r.id ∧ k.opb = o) ∧
  (∀ (s : State) (f : PendFork) (o : List Byte), s.forks.find? (fun f => f.c == s.arg.c && !f.hold) = some f →
    let refusal := taskRecord 2 0 (opbCrec o % 2 ^ 56) (f.tries + 1) (s.ctx f.c).step (s.ctx f.c).task
    (s.revQuiet (s.revOf f.c).id = false ∨ 16384 ≤ s.liveTasks ∨ 4096 ≤ s.revs.length → exec .forkSnapshot s = .next s) ∧
    (s.revQuiet (s.revOf f.c).id = true → s.liveTasks < 16384 → s.revs.length < 4096 →
      taskRead s (s.revOf f.c).table f.opbVa 256 = .ok o →
      s.forkRev (s.revOf f.c) s.nextTask = none → ∃ t, exec .forkSnapshot s = .next t ∧ t.mem = s.mem ∧
        t.records = s.records ++ [{ engine := 0, bytes := refusal }] ∧ t.tasks = s.tasks ∧ ∀ g ∈ t.forks, g.c = f.c → g.hold = true)) ∧
  (∀ (s : State) (j : PendJoin) (k p : Task) (rp rc : Revision), s.joins.find? (fun j => j.child == s.arg.t && !j.hold) = some j →
    s.findTask j.child = some k → s.findTask j.parent = some p → k.recorded = true → s.closed k = true →
    s.findRev p.rev = some rp → s.findRev k.rev = some rc →
    (k.st = .complete → j.pages = none → p.st ≠ .killed → ∃ t, exec .joinMerge s = .next t ∧ t.mem = s.mem ∧
      ∀ i ∈ t.joins, i.child = s.arg.t → i.pages = some (rc.anc.map Prod.fst) ∧ i.regions = p.regions) ∧
    (k.st = .complete → j.pages = none → p.st = .killed → ∃ t u, exec .joinMerge s = .next t ∧ t.mem = s.mem ∧
      t.joins = s.joins.filter (fun i => i != j) ∧ t.findTask j.child = some u ∧ u.join = .unjoined ∧ u.recorded = true) ∧
    (∀ l, k.st = .complete → j.pages = some l → j.waits.any s.holdsOld = true → exec .joinMerge s = .next s) ∧
    (∀ skip v rest fr m, k.st = .complete → j.waits.any s.holdsOld = false → j.pages = some (skip ++ v :: rest) →
      (∀ u ∈ skip, pageFrames s rp rc u = none) → pageFrames s rp rc v = some fr →
      mergePage s (fenv (opbStartNmr p.opb)) j.regions (v * 65536) fr.1 fr.2.1 fr.2.2 = m →
      let counted := { j with pages := some rest, nPages := j.nPages + 1, changed := j.changed + m.changed,
                              conflicts := j.conflicts + m.conflicts, flags := j.flags ||| m.flags }
      let refusal := taskRecord 2 j.child (v * 65536) (j.tries + 1) (j.stepNum s) j.parent
      let frames := [(fr.1, 65536), (fr.2.1, 65536), (fr.2.2, 65536)]
      let own := (((s.correctPages rp.table rc.table (skip ++ [v])).correctAll frames).logBad frames).ownPage rp (v * 65536)
      (m.cells = [] → ∃ t, exec .joinMerge s = .next t ∧ t.mem = s.mem ∧ counted ∈ t.joins) ∧
      (∀ q, m.cells ≠ [] → own = some q → ∃ t, exec .joinMerge s = .next t ∧
        (∀ f, revFrame q rp.table (v * 65536) = some f →
          t.mem = memWrites q.mem (m.cells.map fun c => (f + c.1, c.2))) ∧ counted ∈ t.joins) ∧
      (m.cells ≠ [] → own = none → ∃ t, exec .joinMerge s = .next t ∧ t.mem = s.mem ∧
        t.records = s.records ++ [{ engine := 0, bytes := refusal }] ∧ { j with tries := j.tries + 1, hold := true } ∈ t.joins)) ∧
    (∀ l, k.st = .complete → j.waits.any s.holdsOld = false → j.pages = some l → (∀ v ∈ l, pageFrames s rp rc v = none) →
      j.sealed = false → ∃ t, exec .joinMerge s = .next t ∧ t.mem = s.mem ∧
        (∀ i ∈ t.joins, i.child = j.child → i.pages = some [] ∧ i.sealed = true) ∧
        (∀ n, ∀ e ∈ (t.tile n).siphonTlb ++ (t.tile n).pumpTlb, e.rev ≠ rp.id ∧ e.rev ≠ rc.id) ∧
        ∀ n, ∀ e ∈ (t.cis n).tlb2, e.rev ≠ rp.id ∧ e.rev ≠ rc.id) ∧
    (∀ l w, k.st = .complete → j.waits.any s.holdsOld = false → j.pages = some l → (∀ v ∈ l, pageFrames s rp rc v = none) →
      j.sealed = true → crecPlace s rc.table (opbCrec k.opb) = some w → ∃ t u, exec .joinMerge s = .next t ∧
        t.mem = memWrites s.mem (cellsAt (w + 64) (mergeReport k 0 j)) ∧ t.findTask k.num = some u ∧ u.join = .joined ∧
        u.joinAns = 0 ∧ (∀ i ∈ t.joins, i.child ≠ j.child) ∧
        ∀ c, j.c = some c → j.all = false → (t.ctx c).req = some ((s.ctx c).pc, 0) ∧ (t.ctx c).reqStage = .asked) ∧
    (k.st ≠ .complete → ∃ t u, exec .joinMerge s = .next t ∧ t.findTask k.num = some u ∧ u.join = .joined ∧ u.joinAns = 1)) ∧
  (∀ (s : State), ∃ t, exec .revisionReserveRetry s = .next t ∧ t.mem = s.mem ∧
    (s.arg.ok = true → t.joins = s.joins ∧ ∀ f ∈ t.forks, f.c = s.arg.c → f.hold = false) ∧
    (s.arg.ok = false → t.forks = s.forks ∧ (∀ j ∈ t.joins, j.child = s.arg.t → j.stopped = none → j.hold = false) ∧
      ∀ j ∈ s.joins, j.stopped ≠ none → j ∈ t.joins)) ∧
  PagesToMerge ∧ PageElements ∧ MergesElements ∧ MergeRules ∧ MergeReportLayout ∧ TaskRecordLayout

/-! ### Acts of the matrix engine -/

namespace Sys2Proof.Claims

/-- A sump lists its entries by rising number, none of them zero. -/
def sumpOk (l : List (Nat × WinEntry)) : Prop := l.Pairwise (fun x y => x.1 < y.1) ∧ ∀ e ∈ l, e.2 ≠ {}

/-- The entries of a range read as zero. -/
def cleared (t : Tile) (first n : Nat) : Prop := ∀ j, first ≤ j → j < first + n → sumpGet t.sump j = {}

/-- A machine check of an operation of the array path is due in context c (R72, R150, R306). -/
def checkDue (t : State) (c pc id : Nat) : Prop := ∃ d ∈ (t.ctx c).deferred, d.cause = 0x0A ∧ d.pc = pc ∧ d.id = id

/-- One drained element (R71, R74, R292, R321): the entry by `win_drain` under the drain's e, with its static rounding mode or that of
NMR; for the exact-transport type the 40 bytes of R74 as a number, with no flag; of an uncorrectable entry cnan, 0 for an integer type,
or an element with I, CNT and CLS zero and WO and NVI set. -/
def DrainedElement : Prop :=
  ∀ (d : Drain) (t : Tile) (n : Nat),
    let E := sumpGet t.sump n
    let v := fenv d.nmr
    let e16 := (BitVec.ofInt 16 d.e).toNat * 2 ^ 296
    (n ∉ t.badSump →
      (d.ty ≠ 6 → let r := winDrain v d.e E (ETy.ofCode d.ty) (RMode.ofCode v.rm d.rm)
        drainElem d t n = (r.1, r.2, false)) ∧
      (d.ty = 6 → drainElem d t n = (E.i.toNat + E.cnt.toNat * 2 ^ 256 +
        (E.cls.toNat + E.wx.toNat * 4 + E.wo.toNat * 8 + E.nvi.toNat * 16) * 2 ^ 288 + e16, 0, false))) ∧
    (n ∈ t.badSump →
      (∀ f, d.ty ≠ 6 → ETy.ofCode d.ty = .flt f → drainElem d t n = (f.cnan, 0, true)) ∧
      (∀ sg z, d.ty ≠ 6 → ETy.ofCode d.ty = .int sg z → drainElem d t n = (0, 0, true)) ∧
      (d.ty = 6 → drainElem d t n = (2 ^ 291 + 2 ^ 292 + e16, 0, true)))

/-- A faulted entry. -/
def isFaulted (f : Fate) : Bool :=
  match f with
  | .faulted _ => true
  | _ => false

/-- The row-progress register (R298): of the feed begun last the positions checked, the entries settled, those faulted and those parked,
16 bits each; with no feed begun in the bag at the engine it stands as the bag before left it. -/
def RowProgress : Prop :=
  (∀ (x : Ctx) (b : RunBag) (l : List FeedRun) (f : FeedRun), x.bagRun = some b → b.feeds = l ++ [f] →
    let faulted := f.rows.filter fun r => isFaulted r.fate
    let settled := f.rows.filter fun r => r.fate = .arrived ∨ r.fate = .replayed ∨ r.fate = .dropped ∨ isFaulted r.fate
    let parked := f.rows.filter fun r => r.fate = .parked
    x.progress.toNat = f.rows.length % 2 ^ 16 + settled.length % 2 ^ 16 * 2 ^ 16 + faulted.length % 2 ^ 16 * 2 ^ 32 +
      parked.length % 2 ^ 16 * 2 ^ 48) ∧
  ∀ (x : Ctx), (∀ b, x.bagRun = some b → b.feeds = []) → x.progress = x.rowProg

/-- The bag report (R301, R302), field by field, and its fault list: the faulted entries of the bag, by feed and position. The window
byte of STEER mode is the union kept while its rows entered. -/
def ReportLayout : Prop :=
  ∀ (b : RunBag) (t : Tile),
    let g := b.bag
    let at' := fun (o n : Nat) => natOfBytes (((b.report t).drop o).take n)
    let settled := b.arrived + b.dropped + b.faulted
    let E := fun (j : Nat) => sumpGet t.sump (g.base + j)
    let shown := fun (bit : Nat) (p : WinEntry → Prop) =>
      (at' 38 1).testBit bit = true ↔ ∃ j, j < g.count * g.w ∧ p (E j)
    (b.report t).length = 704 + (g.count * g.w + 1) / 2 ∧
    at' 0 1 = 1 ∧ at' 1 1 = g.mode % 2 ^ 8 ∧ at' 2 2 = g.count % 2 ^ 16 ∧ at' 4 4 = g.exp % 2 ^ 32 ∧
    at' 8 4 = b.arrived % 2 ^ 32 ∧ at' 12 4 = b.replayed % 2 ^ 32 ∧ at' 16 4 = b.dropped % 2 ^ 32 ∧
    at' 20 4 = b.faulted % 2 ^ 32 ∧ at' 24 4 = (g.exp - settled) % 2 ^ 32 ∧ at' 28 4 = (settled - g.exp) % 2 ^ 32 ∧
    at' 32 2 = b.keys.length % 2 ^ 16 ∧ at' 34 2 = min 64 b.faults.length ∧ at' 36 2 = (BitVec.ofInt 16 g.e).toNat ∧
    (g.mode = 1 → at' 38 1 = b.window % 2 ^ 8) ∧
    (g.mode ≠ 1 → shown 0 (fun e => e.wx = true) ∧ shown 1 (fun e => e.wo = true) ∧ shown 2 (fun e => e.nvi = true) ∧
      shown 3 (fun e => e.cls ≠ 0) ∧ at' 38 1 < 16) ∧
    at' 39 1 = 0 ∧ at' 40 4 = b.retried % 2 ^ 32 ∧ at' 44 4 = b.full % 2 ^ 32 ∧ at' 48 16 = 0 ∧
    (∀ i pos feed cause idx, i < 64 → b.faults[i]? = some (pos, feed, cause, idx) →
      at' (64 + 8 * i) 2 = pos % 2 ^ 16 ∧ at' (66 + 8 * i) 1 = feed % 2 ^ 8 ∧ at' (67 + 8 * i) 1 = cause % 2 ^ 8 ∧
      at' (68 + 8 * i) 4 = idx % 2 ^ 32) ∧
    (∀ i, i < 64 → b.faults.length ≤ i → at' (64 + 8 * i) 8 = 0) ∧
    at' 576 128 = b.cover % 2 ^ 1024 ∧
    (∀ j, j < g.count * g.w → at' (704 + j / 2) 1 / 16 ^ (j % 2) % 16 =
      (E j).cls.toNat + (E j).wx.toNat * 4 + (E j).wo.toNat * 8) ∧
    (∀ pos n cause idx, (pos, n, cause, idx) ∈ b.faults ↔ ∃ f, b.feeds[n]? = some f ∧ ∃ e ∈ f.rows,
      e.fate = .faulted cause ∧ e.pos = pos ∧ e.idx = idx) ∧
    ((∀ f ∈ b.feeds, f.rows.Pairwise fun x y => x.pos < y.pos) →
      b.faults.Pairwise fun x y => x.2.1 < y.2.1 ∨ (x.2.1 = y.2.1 ∧ x.1 < y.1))

/-- An entry of a feed that passes the checks of R296 which need no key: readable, its tag below COUNT, its index not all ones. -/
def inTable (b : Bag) (f : Feed) (tag idx : Nat) (bad : Bool) : Prop :=
  bad = false ∧ tag < b.count ∧ ¬ (f.pump = true ∧ idx = 2 ^ (if f.wide then 64 else 32) - 1)

/-- The checks of one entry, in the order of R296: a list byte that is uncorrectable faults it with cause 0x06 (the model's reading, log
51); a tag at or above COUNT, the all-ones index, or an index out of the table's range (R295) drops it; an entry of `bag.rows` waits for
its row; a known key gives the fate of its fetch; a new key beyond 4,096 faults it with cause 0x07, else the key is taken. -/
def EntryChecks : Prop :=
  ∀ (b : Bag) (f : Feed) (n p tag wgt idx : Nat) (keys : List KeyRec) (bad : Bool),
    let r := checkEntry b f n keys p tag wgt idx bad
    let x := f.ent.img.toNat
    let out := (x / 2 ^ 58 % 4 = 0 ∧ x / 2 ^ 104 % 2 ^ 24 ≤ idx) ∨
      (x / 2 ^ 58 % 4 = 2 ∧ x / 2 ^ 104 % 2 ^ 24 ≤ idx / (x / 2 ^ 232 % 2 ^ 24))
    let known := fun (k : KeyRec) => k.tid = f.tid ∧ k.idx = idx
    r.2.pos = p ∧ r.2.tag = tag ∧ r.2.wgt = wgt ∧ r.2.idx = idx ∧
    (bad = true → r.1 = keys ∧ r.2.fate = .faulted 6) ∧
    (bad = false → ¬ inTable b f tag idx bad → r.1 = keys ∧ r.2.fate = .dropped) ∧
    (inTable b f tag idx bad → f.pump = false → r.1 = keys ∧ r.2.fate = .pending) ∧
    (inTable b f tag idx bad → f.pump = true → out → r.1 = keys ∧ r.2.fate = .dropped) ∧
    (inTable b f tag idx bad → f.pump = true → ¬ out →
      (∀ l k m, keys = l ++ k :: m → known k → (∀ j ∈ l, ¬ known j) → r.1 = keys ∧ r.2.key = l.length ∧
        r.2.fate = (match k.st with
          | .faulted c => .faulted c
          | .parked => .parked
          | _ => .fetching)) ∧
      ((∀ k ∈ keys, ¬ known k) → 4096 ≤ keys.length → r.1 = keys ∧ r.2.fate = .faulted 7) ∧
      ((∀ k ∈ keys, ¬ known k) → keys.length < 4096 →
        r.1 = keys ++ [{ tid := f.tid, ent := f.ent, idx := idx, feed := n, pos := p }] ∧
        r.2.fate = .fetching ∧ r.2.key = keys.length))

/-- Entry p of a feed as its lists give it, checked against the keys taken so far. -/
def entryAt (s : State) (b : RunBag) (f : Feed) (keys : List KeyRec) (p : Nat) : List KeyRec × RowEnt :=
  let w := if b.bag.ent.fmt = 0 then 8 else 4
  let i := if f.wide then 8 else 4
  checkEntry b.bag f b.feeds.length keys p (s.readNat (f.tags + 2 * p) 2)
    (if b.bag.mode = 2 then s.readNat (f.wgts + w * p) w else 0) (if f.pump then s.readNat (f.idx + i * p) i else p)
    (s.badIn (f.tags + 2 * p) 2 || (b.bag.mode = 2 && s.badIn (f.wgts + w * p) w) || (f.pump && s.badIn (f.idx + i * p) i))

/-- The keys of a bag after the first p entries of a feed. -/
def keysAfter (s : State) (b : RunBag) (f : Feed) : Nat → List KeyRec
  | 0 => b.keys
  | p + 1 => (entryAt s b f (keysAfter s b f p) p).1

/-- A feed begins (R294, R296, R298, R317): its lists are read, every entry is checked in list order, what settles at once is counted,
`c.pump` falls by a pump's settled entries, and a queue handle is attached, all in the one event, which is the model's choice (log 50,
DESIGN CHOICE). A fault of a `bag.rows` list raises the machine check of R306 (log 51). -/
def FeedBegins : Prop :=
  ∀ (s : State) (o : ArrOp) (r : List ArrOp) (f : Feed) (b : RunBag), (s.ctx s.arg.c).mx = o :: r →
    s.mayBegin s.arg.c o = true → o.kind = .feed f → (s.ctx s.arg.c).bagRun = some b → ∃ t q g,
    exec (if f.pump then .pumpFeedBegin else .arrayOpStart) s = .next t ∧ (t.ctx s.arg.c).mx = r ∧ t.mem = s.mem ∧
    (t.ctx s.arg.c).bagRun = some q ∧ q.bag = b.bag ∧ q.feeds = b.feeds ++ [g] ∧ g.f = f ∧ g.seq = o.seq ∧ g.pc = o.pc ∧
    g.stage = 0 ∧ g.rows.length = f.n ∧ q.keys = keysAfter s b f f.n ∧
    (∀ p, p < f.n → g.rows[p]? = some (entryAt s b f (keysAfter s b f p) p).2) ∧
    (let dropped := (g.rows.filter fun e => e.fate = .dropped).length
     let faulted := (g.rows.filter fun e => isFaulted e.fate).length
     q.dropped = b.dropped + dropped ∧ q.faulted = b.faulted + faulted ∧ q.arrived = b.arrived ∧
     q.full = b.full + (g.rows.filter fun e => e.fate = .faulted 7).length ∧
     (t.ctx s.arg.c).cPump = if f.pump then minusSat (s.ctx s.arg.c).cPump (dropped + faulted) else (s.ctx s.arg.c).cPump) ∧
    (∀ h, f.q = some h → (vget (t.ctx s.arg.c).a.qs h).arr = true ∧ (vget (t.ctx s.arg.c).sh.qs h).arr = true) ∧
    (f.pump = false → (∃ e ∈ g.rows, e.fate = .faulted 6) → checkDue t s.arg.c o.pc o.seq)

end Sys2Proof.Claims

/-- Operations at the engine (R144, R279, R287, R290, R291, R292, R294, R298, R301, R306, R320, R322): the oldest operation that may
begin begins, in issue order; an opening bag clears the range it claims; a tile load fills the slot, or empties it with a machine check
when a byte is uncorrectable; a codebook or scale load fills its table; `bag.rep` writes the row-progress register, the settled entries
and the keys; a feed begins with the checks of every entry of its lists, in order (R296); a drain writes one tag group, each element by
`win_drain`, or hands it to the latch; a close whose feeds have settled writes the report, laid out by R301 and R302, and posts the
bag's flag. That a tile brings the codebook its TID number names when the load finishes is the model's reading (log 49), and so is the
machine check of a codebook or scale load (log 15); an uncorrectable list byte (log 51), WX of an uncorrectable entry drained to the
exact-transport type (log 14), the index of a fault of `bag.rows` (log 123), the window of an entry that no row of the bag reached
(log 124), and that a feed's lists are read and its entries checked in the one event in which it begins (log 50, DESIGN CHOICE) are its
choices too. -/
def Obligations.EngineOperations : Prop :=
  (∀ (s : State) (o : ArrOp) (r : List ArrOp), (s.ctx s.arg.c).mx = o :: r → s.mayBegin s.arg.c o = true →
    (∀ b cl, o.kind = .opn b cl → ∃ t, exec .arrayOpStart s = .next t ∧ (t.ctx s.arg.c).bagRun = some { bag := b } ∧
      (t.ctx s.arg.c).mx = r ∧ t.mem = s.mem ∧ (cl = true → cleared (t.tile (tileOf s.arg.c)) b.base (b.count * b.w))) ∧
    ((∃ a b c d, o.kind = .mld a b c d) ∨ (∃ a b c, o.kind = .clr a b c) ∨ (∃ d, o.kind = .drain d) →
      ∃ t, exec .arrayOpStart s = .next t ∧ (t.ctx s.arg.c).mx = { o with begun := true } :: r ∧ t.mem = s.mem) ∧
    (∀ n k p, o.kind = .mcb n k p → s.badIn p 32 = false → ∃ t, exec .arrayOpStart s = .next t ∧ (t.ctx s.arg.c).mx = r ∧
      t.mem = s.mem ∧ vget (t.tile (tileOf s.arg.c)).tids n = { vget (s.tile (tileOf s.arg.c)).tids n with
        book := (List.range 16).map fun i => BitVec.ofNat 16 (s.readNat (p + 2 * i) 2) }) ∧
    (∀ p, o.kind = .msc p → s.badIn p 64 = false → ∃ t, exec .arrayOpStart s = .next t ∧ (t.ctx s.arg.c).mx = r ∧
      t.mem = s.mem ∧ (t.ctx s.arg.c).scale = (List.range 16).map fun i => BitVec.ofNat 32 (s.readNat (p + 4 * i) 4)) ∧
    ((∃ n k p, o.kind = .mcb n k p ∧ s.badIn p 32 = true) ∨ (∃ p, o.kind = .msc p ∧ s.badIn p 64 = true) →
      ∃ t, exec .arrayOpStart s = .next t ∧ (t.ctx s.arg.c).mx = r ∧ t.mem = s.mem ∧ checkDue t s.arg.c o.pc o.seq) ∧
    (∀ p b, o.kind = .rep p → (s.ctx s.arg.c).bagRun = some b → ∃ t, exec .arrayOpStart s = .next t ∧
      (t.ctx s.arg.c).mx = r ∧ t.mem = memWrites s.mem (cellsAt p (bytesOfNat 8 (s.ctx s.arg.c).progress.toNat ++
        bytesOfNat 4 (b.arrived + b.dropped + b.faulted) ++ bytesOfNat 4 b.keys.length)))) ∧
  FeedBegins ∧ EntryChecks ∧ RowProgress ∧ ReportLayout ∧ DrainedElement ∧
  (∀ (s : State) (o : ArrOp) (r : List ArrOp), (s.ctx s.arg.c).mx = o :: r → s.mayBegin s.arg.c o = false →
    exec .arrayOpStart s = .next s ∧ exec .pumpFeedBegin s = .next s) ∧
  (∀ (s : State) (o : ArrOp) (r : List ArrOp), (s.ctx s.arg.c).mx = o :: r → o.begun = true →
    (∀ n e p k, o.kind = .mld n e p k → s.badIn p k = false → ∃ t, exec .arrayOpComplete s = .next t ∧
      (t.ctx s.arg.c).mx = r ∧ t.mem = s.mem ∧ (t.ctx s.arg.c).statSlot =
        some { tid := n, ent := { e with book := s.bookOf s.arg.c n }, data := s.read p k }) ∧
    (∀ n e p k, o.kind = .mld n e p k → s.badIn p k = true → ∃ t, exec .arrayOpComplete s = .next t ∧
      (t.ctx s.arg.c).mx = r ∧ t.mem = s.mem ∧ (t.ctx s.arg.c).statSlot = none ∧ checkDue t s.arg.c o.pc o.seq) ∧
    (∀ f n fr, o.kind = .clr f n fr → ∃ t, exec .arrayOpComplete s = .next t ∧ (t.ctx s.arg.c).mx = r ∧ t.mem = s.mem ∧
      cleared (t.tile (tileOf s.arg.c)) f n)) ∧
  (∀ (s : State) (b : RunBag), s.closeReady s.arg.c = true → (s.ctx s.arg.c).bagRun = some b → ∃ t,
    exec .bagCloseComplete s = .next t ∧ t.mem = memWrites s.mem (cellsAt b.bag.rep (b.report (s.tile (tileOf s.arg.c)))) ∧
    (t.ctx s.arg.c).bagRun = none ∧ (t.ctx s.arg.c).mx = (s.ctx s.arg.c).mx.tail ∧
    t.posts = s.posts ++ [{ src := none, c := s.arg.c, f := b.bag.flag, n := 1 }]) ∧
  (∀ (s : State), s.closeReady s.arg.c = false → exec .bagCloseComplete s = .next s) ∧
  (∀ (s : State), (s.ctx s.arg.c).drainOp = none → exec .drainRow s = .next s) ∧
  (∀ (s : State) (o : ArrOp) (d : Drain), (s.ctx s.arg.c).drainOp = some (o, d) →
    let tile := s.tile (tileOf s.arg.c)
    let last := d.len ≤ (d.next + 1) * d.group
    let l := (upTo d.group).map fun i => drainElem d tile (d.first + d.next * d.group + i)
    let z := drainBytes d.ty
    ∃ t, exec .drainRow s = .next t ∧
      t.mem = (if d.dst % 2 = 1 then
        memWrites s.mem (cellsAt (d.out + d.next * d.group * z) (l.flatMap fun r => bytesOfNat z r.1)) else s.mem) ∧
      (d.dst ≠ 1 → ∃ row, (t.tile (tileOf s.arg.c)).waiting = tile.waiting ++ [row] ∧ row.c = s.arg.c ∧ row.tag = d.next ∧
        row.drain = true ∧ row.row = packVec (8 * z) (l.map Prod.fst) ∧ (row.last = true ↔ last) ∧ row.id = o.seq ∧
        row.flags = l.foldl (fun f r => f ||| r.2.1) 0 ∧
        (row.machineCheck = none ↔ ∀ i, i < d.group → d.first + d.next * d.group + i ∉ tile.badSump)) ∧
      (d.dst = 1 → (t.ctx s.arg.c).a.fflags = l.foldl (fun f r => f ||| r.2.1) (s.ctx s.arg.c).a.fflags) ∧
      (t.ctx s.arg.c).mx = (if last then [] else [{ o with kind := .drain { d with next := d.next + 1 } }]) ++
        (s.ctx s.arg.c).mx.tail ∧
      (last → d.dst = 1 → (t.ctx s.arg.c).cDrn = minusSat (s.ctx s.arg.c).cDrn 1) ∧
      (last → d.dst ≠ 1 → (t.ctx s.arg.c).cDrn = (s.ctx s.arg.c).cDrn ∧
        (t.ctx s.arg.c).latching = (s.ctx s.arg.c).latching ++ [o]))

/-- A row in STEER mode on its way to the latch (R280): one `win_drain` per column of the stationary tile, in the bag's type and rounding
mode, packed from element 0 up, with the flags of all of them. -/
def Sys2Proof.Claims.SteeredRow (g : Bag) (sums : List WinEntry) (row : LatchRow) : Prop :=
  let v := fenv g.nmr
  let ty := ETy.ofCode g.ot
  let out := sums.map fun E => winDrain v g.e E ty v.rm
  row.row = packVec ty.width (out.map Prod.fst) ∧ row.flags = out.foldl (fun f r => f ||| r.2) 0 ∧
  row.exc = enabledExc g.nmr row.flags

namespace Sys2Proof.Claims

/-- A window byte with the side bits of more entries (R301): the union. -/
def shownWith (w : Nat) (l : List WinEntry) : Nat :=
  l.foldl (fun k E => k ||| (E.wx.toNat + E.wo.toNat * 2 + E.nvi.toNat * 4 + if E.cls = 0 then 0 else 8)) w

/-- The table rows of a key (R295), field by field of the entry its pump named: DIRECT by the index, HASH by the product with 0x9E3779B1
modulo 2^64 and then the row count, COMPOSE by quotient and remainder in two tables. -/
def TableRows : Prop :=
  ∀ (k : KeyRec),
    let f := fun (lo n : Nat) => k.ent.img.toNat / 2 ^ lo % 2 ^ n
    (f 58 2 = 0 → keyRows k = [(f 0 56 + k.idx * f 84 20) % 2 ^ 56]) ∧
    (f 58 2 = 1 → keyRows k = [(f 0 56 + k.idx * 0x9E3779B1 % 2 ^ 64 % f 104 24 * f 84 20) % 2 ^ 56]) ∧
    (f 58 2 = 2 → keyRows k = [(f 0 56 + k.idx / f 232 24 * f 84 20) % 2 ^ 56, (f 128 56 + k.idx % f 232 24 * f 84 20) % 2 ^ 56])

/-- A fetch (R247, R294, R297, R391): a row within a page is translated through the tile's pump TLB and read, with its single-bit errors
corrected; a translation that fails gives its cause, a target in a well cause 0x04 (the model's reading, log 99), an uncorrectable read
cause 0x06, each with the row's address, and the walk of one that fails has corrected the single-bit errors it met; two rows are fetched one
after the other, and the first that fails ends the fetch. -/
def TableFetch : Prop :=
  (∀ (c n va : Nat) (s : State), va < 2 ^ 56 → 0 < n → va % 65536 + n ≤ 65536 →
    (∀ cause, s.xlate true c (s.revOf c) va false = .error cause → fetchRow c n va s = .error (cause, va,
      if ((s.tile (tileOf c)).pumpTlb ++ (s.cis (cisOf c)).tlb2).any fun e => e.maps (s.revOf c).id va && e.serves false then s
      else s.correctWalk (s.revOf c).table va)) ∧
    (∀ table, s.softMem ≠ [] → s.correctWalk table va = s.correctAll (walkReads s table va)) ∧
    (∀ q u, s.xlate true c (s.revOf c) va false = .ok (q, u) →
      fetchRow c n va s = if zoneOf q = .well then .error (4, va, u) else if u.unreadable q n = true then .error (6, va, u)
        else .ok (u.read q n, u.correct q n))) ∧
  ∀ (c n : Nat) (k : KeyRec) (s : State),
    (∀ a, keyRows k = [a] →
      (∀ l u, fetchRow c n a s = .ok (l, u) → fetchKey c n k s = .ok ([l], u)) ∧
      (∀ e, fetchRow c n a s = .error e → fetchKey c n k s = .error e)) ∧
    (∀ a b, keyRows k = [a, b] →
      (∀ e, fetchRow c n a s = .error e → fetchKey c n k s = .error e) ∧
      (∀ l t, fetchRow c n a s = .ok (l, t) →
        (∀ m u, fetchRow c n b t = .ok (m, u) → fetchKey c n k s = .ok ([l, m], u)) ∧
        (∀ e, fetchRow c n b t = .error e → fetchKey c n k s = .error e)))

/-- Where the bytes of a row of `bag.rows` lie (R300, R317): at the feed's first row and its stride, or past the handle's pointer by the
row's place in the present stage, counted across the wrap of the ring. -/
def RowBytes : Prop :=
  ∀ (s : State) (c : Nat) (f : FeedRun) (p n : Nat), (rowPlaces s c f p n).length = n ∧
    (f.f.q = none → ∀ i, i < n → (rowPlaces s c f p n)[i]? = some (f.f.rows + p * f.f.stride + i)) ∧
    (∀ q, f.f.q = some q →
      let h := vget (s.ctx c).a.qs q
      let slot := 2 ^ (h.sz + 3)
      let stage := f.f.stg * slot / f.f.stride
      ∀ i m, i < n →
        s.resolve c (h.base + (h.ptr * slot + (p - f.stage * stage) * f.f.stride + i) % (h.nsl * slot)) 1 1 = some m →
        (rowPlaces s c f p n)[i]? = some m)

/-- The engine holds the slots of the stage a queue-fed row is read from, and the handle's WFLAG falls by those it did not hold
(R214, R300). -/
def Acquires (s t : State) (c : Nat) (f : FeedRun) : Prop :=
  ∀ q, f.f.q = some q →
    let h := vget (s.ctx c).a.qs q
    vget (t.ctx c).a.qs q = { h with held := max h.held f.f.stg } ∧
    vget (t.ctx c).flags h.wflag = vget (s.ctx c).flags h.wflag - BitVec.ofNat 16 (f.f.stg - h.held)

end Sys2Proof.Claims

/-- Rows, fetches and the latch (R72, R85, R214, R280, R286, R291, R293, R295, R297, R298, R300, R306): a ready row of a well feed, its
queue slots acquired, adds its products to the entries of its tag and arrives, or is faulted when a byte is uncorrectable; a row of a
pump feed adds those of the rows its fetch brought and arrives or replays; a row in STEER mode drains its
own sums and waits for the latch; a fetch that succeeds brings the
key's rows, at once or after a retry; a stage that is read moves the handle on and posts its producer; the oldest waiting row enters
the free latch, where a row of a bag arrives and the last row of a drain lets `c.drn` fall. The model's readings: the codebook of a row
is the one its TID number names then (log 49), a row in STEER mode arrives as it enters the latch (log 52), one of two table rows in
COMPOSE mode as the sum of both (log 53, DEDUCED), a machine check of a drained row is due at a `waitc` on `c.drn` once the drain is over
(log 54, DEDUCED), of several failing rows or pages of a key the first is reported (log 141, DESIGN CHOICE), its elements beyond 2,048 bits
fall away (log 126), a fetch from a well fails with cause 0x04 (log 99), and a stage whose handle's PEER names no context of the gang
moves the handle on and posts to nobody (log 112). -/
def Obligations.RowsAndLatch : Prop :=
  TableRows ∧ TableFetch ∧ RowBytes ∧
  (∀ (s : State) (b : RunBag) (f : FeedRun) (r : RowEnt), (s.ctx s.arg.c).bagRun = some b → b.feeds[s.arg.n]? = some f →
    b.entry s.arg.n s.arg.k = some r → s.rowReady s.arg.c s.arg.n s.arg.k = true →
    (let g := b.bag
     let v := fenv g.nmr
     let places := rowPlaces s s.arg.c f s.arg.k (rowBytes g)
     let scale := (s.ctx s.arg.c).scale
     let xs := rowVals v g.ent (s.bookOf s.arg.c g.tid) scale (rowElems g.mode g.seg g.ent.fmt)
       (places.map (memRead s.mem))
     let first := g.base + r.tag * g.w
     let old := (s.tile (tileOf s.arg.c)).entries first g.w
     let weight := if g.ent.fmt = 0 then readVal v .f64 r.wgt else readVal v .f32 r.wgt
     let sums := if g.mode = 0 then gemmRow g.e xs (tileVals v (s.slotOf s.arg.c g) scale) old else sraRow g.e weight xs old
     f.f.pump = false →
     (places.any s.badAt = true → ∃ t q e, exec .rowIn s = .next t ∧ t.mem = s.mem ∧ (t.ctx s.arg.c).bagRun = some q ∧
       q.faulted = b.faulted + 1 ∧ q.entry s.arg.n s.arg.k = some e ∧ e.fate = .faulted 6 ∧
       (t.tile (tileOf s.arg.c)).sump = (s.tile (tileOf s.arg.c)).sump ∧ checkDue t s.arg.c f.pc f.seq ∧
       Acquires s t s.arg.c f) ∧
     (places.any s.badAt = false → g.mode = 0 ∨ g.mode = 2 → ∃ t q e, exec .rowIn s = .next t ∧ t.mem = s.mem ∧
       (t.ctx s.arg.c).bagRun = some q ∧ Acquires s t s.arg.c f ∧
       q.arrived = b.arrived + 1 ∧ q.cover = b.cover ||| 2 ^ r.tag ∧ q.entry s.arg.n s.arg.k = some e ∧ e.fate = .arrived ∧
       (sumpOk (s.tile (tileOf s.arg.c)).sump → (s.tile (tileOf s.arg.c)).badSump = [] →
         ∀ j, j < sums.length → sumpGet (t.tile (tileOf s.arg.c)).sump (first + j) = sums.getD j {})) ∧
     (places.any s.badAt = false → g.mode = 1 → ∃ t row, exec .rowIn s = .next t ∧ t.mem = s.mem ∧ Acquires s t s.arg.c f ∧
       (t.tile (tileOf s.arg.c)).waiting = (s.tile (tileOf s.arg.c)).waiting ++ [row] ∧ row.c = s.arg.c ∧ row.tag = r.tag ∧
       row.drain = false ∧ row.feed = s.arg.n ∧ row.pos = s.arg.k ∧
       let out := gemmRow g.e xs (tileVals v (s.slotOf s.arg.c g) scale) (List.replicate (fmtN g.ent.fmt) {})
       SteeredRow g out row ∧
       ∃ q, (t.ctx s.arg.c).bagRun = some q ∧ q.arrived = b.arrived ∧ q.window = shownWith b.window out)) ∧
    (f.f.pump = true →
     let g := b.bag
     let v := fenv g.nmr
     let scale := (s.ctx s.arg.c).scale
     let rows := (((b.keys[r.key]?).bind KeyRec.data).getD []).map
       (rowVals v f.f.ent (s.bookOf s.arg.c f.f.tid) scale (rowElems g.mode g.seg f.f.ent.fmt))
     let first := g.base + r.tag * g.w
     let old := (s.tile (tileOf s.arg.c)).entries first g.w
     let tile := tileVals v (s.slotOf s.arg.c g) scale
     let weight := if g.ent.fmt = 0 then readVal v .f64 r.wgt else readVal v .f32 r.wgt
     let gemm := fun (acc : List WinEntry) => rows.foldl (fun acc xs => gemmRow g.e xs tile acc) acc
     let sums := if g.mode = 0 then gemm old else rows.foldl (fun acc xs => sraRow g.e weight xs acc) old
     (g.mode = 0 ∨ g.mode = 2 → ∃ t q e, exec .rowIn s = .next t ∧ t.mem = s.mem ∧
      (t.ctx s.arg.c).bagRun = some q ∧ q.entry s.arg.n s.arg.k = some e ∧
      (∀ z, b.keys[r.key]? = some z →
        let first := z.feed = s.arg.n ∧ z.pos = s.arg.k
        (first → e.fate = .arrived ∧ q.replayed = b.replayed) ∧ (¬ first → e.fate = .replayed ∧ q.replayed = b.replayed + 1)) ∧
      q.arrived = b.arrived + 1 ∧ q.cover = b.cover ||| 2 ^ r.tag ∧ q.retried = b.retried + r.retried.toNat ∧
      (t.ctx s.arg.c).cPump = minusSat (s.ctx s.arg.c).cPump 1 ∧
      (sumpOk (s.tile (tileOf s.arg.c)).sump → (s.tile (tileOf s.arg.c)).badSump = [] →
         ∀ j, j < sums.length → sumpGet (t.tile (tileOf s.arg.c)).sump (first + j) = sums.getD j {})) ∧
     (g.mode = 1 → ∃ t row, exec .rowIn s = .next t ∧ t.mem = s.mem ∧
       (t.tile (tileOf s.arg.c)).waiting = (s.tile (tileOf s.arg.c)).waiting ++ [row] ∧ row.c = s.arg.c ∧ row.tag = r.tag ∧
       row.drain = false ∧ row.feed = s.arg.n ∧ row.pos = s.arg.k ∧
       let out := gemm (List.replicate (fmtN g.ent.fmt) {})
       SteeredRow g out row ∧
       ∃ q, (t.ctx s.arg.c).bagRun = some q ∧ q.arrived = b.arrived ∧ q.window = shownWith b.window out))) ∧
  (∀ (s : State), s.rowReady s.arg.c s.arg.n s.arg.k = false → exec .rowIn s = .next s) ∧
  (∀ (s u : State) (b : RunBag) (k : KeyRec) (l : List (List Byte)) (was : Fate), s.keyIn s.arg.c s.arg.k was = some (b, k) →
    fetchKey s.arg.c (rowBytes b.bag) k s = .ok (l, u) →
    (was = .fetching ∨ was = .parked) → ∃ t q z,
      exec (if was = .fetching then .pumpFetchReturn else .pumpWalkRetry) s = .next t ∧ t.mem = s.mem ∧
      (t.ctx s.arg.c).bagRun = some q ∧ q.keys[s.arg.k]? = some z ∧ z.data = some l ∧ z.st = .arrived) ∧
  (∀ (s u : State) (b : RunBag) (k : KeyRec) (cause va : Nat), s.keyIn s.arg.c s.arg.k .fetching = some (b, k) →
    fetchKey s.arg.c (rowBytes b.bag) k s = .error (cause, va, u) → cause ≠ 6 → ∃ t q z,
      exec .pumpFetchReturn s = .next t ∧ t.mem = s.mem ∧ (t.ctx s.arg.c).bagRun = some q ∧ q.keys[s.arg.k]? = some z ∧
      z.st = (if b.bag.pol = 0 then .faulted cause else .parked) ∧
      t.records.length = s.records.length + (if b.bag.pol = 0 then 0 else 1)) ∧
  (∀ (s : State) (b : RunBag) (f : FeedRun) (h : Nat), (s.ctx s.arg.c).bagRun = some b → b.feeds[s.arg.n]? = some f →
    f.f.q = some h → (s.ctx s.arg.c).stageDone s.arg.n f = true → ∃ t q, exec .queueStageAdvance s = .next t ∧ t.mem = s.mem ∧
      (t.ctx s.arg.c).bagRun = some q ∧ q.feeds[s.arg.n]? = some { f with stage := f.stage + 1 } ∧
      (vget (t.ctx s.arg.c).a.qs h).ptr =
        ((vget (s.ctx s.arg.c).a.qs h).ptr + f.f.stg) % (vget (s.ctx s.arg.c).a.qs h).nsl ∧
      ∀ d, s.postGoal s.arg.c (vget (s.ctx s.arg.c).a.qs h).peer = some d → d % 384 ≠ s.arg.c % 384 →
        t.ctx d = (s.ctx d).post (vget (s.ctx s.arg.c).a.qs h).pflag f.f.stg) ∧
  (∀ (s : State) (r : LatchRow) (l : List LatchRow), (s.tile s.arg.t).waiting = r :: l → s.latchFree s.arg.t = true →
    ∃ t, exec .spoutLatchEntry s = .next t ∧ (t.tile s.arg.t).latch = some r ∧ (t.tile s.arg.t).waiting = l ∧
      (t.ctx r.c).a.fflags = (s.ctx r.c).a.fflags ||| r.flags ∧ t.mem = s.mem ∧
      (r.machineCheck ≠ none → checkDue t r.c r.pc r.id) ∧
      (r.drain = true → r.last = true → (t.ctx r.c).cDrn = minusSat (s.ctx r.c).cDrn 1 ∧
        (t.ctx r.c).latching = (s.ctx r.c).latching.filter (fun o => o.seq != r.id) ∧
        ∀ d ∈ (t.ctx r.c).deferred, d.id = r.id → d.watch = [3]) ∧
      (r.drain = true → r.last = false → (t.ctx r.c).cDrn = (s.ctx r.c).cDrn ∧ (t.ctx r.c).latching = (s.ctx r.c).latching) ∧
      (r.drain = false → (t.ctx r.c).cDrn = (s.ctx r.c).cDrn ∧
        ∀ b f e, (s.ctx r.c).bagRun = some b → b.feeds[r.feed]? = some f → f.rows[r.pos]? = some e →
          ∃ q z, (t.ctx r.c).bagRun = some q ∧ q.arrived = b.arrived + 1 ∧ q.cover = b.cover ||| 2 ^ e.tag ∧
            q.entry r.feed r.pos = some z ∧ (z.fate = .arrived ∨ z.fate = .replayed) ∧
            (f.f.pump = false → z.fate = .arrived) ∧
            (t.ctx r.c).cPump = if f.f.pump then minusSat (s.ctx r.c).cPump 1 else (s.ctx r.c).cPump)) ∧
  ∀ (s : State), (s.tile s.arg.t).waiting = [] → exec .spoutLatchEntry s = .next s

/-! ### The host, start-up and the domain -/

namespace Sys2Proof.Claims

/-- What a configuration register of R378 holds after a write of `v`: its reserved bits read 0. -/
def configValue (off v : Nat) : Nat :=
  if off = 0x0020 then v % 2 ^ 52
  else if off = 0x0028 then v % 2 ^ 16
  else if off = 0x0048 ∨ off = 0x0058 then v / 2 ^ 16 % 2 ^ 36 * 2 ^ 16
  else if off = 0x0050 ∨ off = 0x0060 then v / 2 ^ 16 % 2 ^ 48 * 2 ^ 16
  else if off = 0x0068 then v / 2 ^ 6 % 2 ^ 46 * 2 ^ 6
  else if off = 0x0088 then v % 2 ^ 56
  else v % 2 ^ 64

/-- A failed start: STATE 0 again, FAILS up to 3, the reason and the stage kept, every task gone, device memory as it was. -/
def StartFails (s t : State) (reason stage : Nat) : Prop :=
  t.mgmt.state = 0 ∧ t.mgmt.begun = false ∧ t.mgmt.fails = min 3 (s.mgmt.fails + 1) ∧ t.mgmt.reason = reason ∧
  t.mgmt.stage = stage ∧ t.tasks = [] ∧ t.mem = s.mem

/-- The machine after a fatal error: STATE 6, AER, the reason kept, every context stopped, memory as it was. -/
def Fatal (s t : State) (f : Nat × Nat × Nat) : Prop :=
  t.mgmt.state = 6 ∧ t.mgmt.aer = true ∧ t.mgmt.fatal = some f ∧ t.mem = s.mem ∧
  ∀ c, (t.ctx c).cond = .absent ∧ (t.ctx c).gate = [] ∧ (t.ctx c).hold = [] ∧ (t.ctx c).a.pend = []

/-- The bytes an outside reader gets. -/
def bytesAt (s : State) (a n : Nat) : List Byte := (List.range n).map fun i => memRead s.mem (a + i)

end Sys2Proof.Claims

/-- The host's accesses (R6, R29, R31, R264, R377 to R383, R390, R393, R396): a configuration register takes a write only in STATE 4 with
no root task live, every refused write sets LR; the ROOT register launches; a flag cell posts; TLBINV leaves no translation of its
revision; CXL.mem and remote accesses reach the bytes they name and no other and are answered, the host stores into its own memory; an
SPDM request is answered with what it asks for, under the identity key. The new values of the seven atomics but the add are those of
`SiphonEvents`. The model's readings: the codes of an SPDM request, and the layouts of an answer, of the bytes a signature covers and of
a log entry, which are free functions of their parts (log 12); that an access beyond device memory gets an error answer (log 13); the
reserved bits of a configuration register read 0 after a write (log 81); PEER_CONTAINED ends a containment too (log 84); when the dump
can be read (log 107); that in every STATE other than 4, not only after a fatal error, the host's accesses get an error answer and those
of another device "target lost" (log 132, DEDUCED); that HOST_MEM_WRITE carries the host's stores into its own memory (log 143). -/
def Obligations.HostAccesses : Prop :=
  (∀ (s : State), configOffset s.arg.a = true →
    (s.mgmt.state = 4 → s.tasks = [] → ∃ t, exec .registerWrite s = .next t ∧ t.mem = s.mem ∧ t.ctxs = s.ctxs ∧
      t.barRead s.arg.a = configValue s.arg.a s.arg.v ∧ ∀ o, o ≠ s.arg.a → t.barRead o = s.barRead o) ∧
    (s.mgmt.state ≠ 4 ∨ s.tasks ≠ [] →
      exec .registerWrite s = .next { s with mgmt := { s.mgmt with lr := true } })) ∧
  (∀ (s : State), configOffset s.arg.a = false → exec .registerWrite s = .next s) ∧
  (∀ (s : State), s.mgmt.state ≠ 4 ∨ s.mgmt.fbuf = 0 ∨ s.tasks ≠ [] →
    exec .rootLaunch s = .next { s with mgmt := { s.mgmt with lr := true } }) ∧
  (∀ (s : State) (o : List Byte), s.mgmt.state = 4 → s.fbufOk = true → s.tasks = [] →
    readWhole s s.mgmt.rootTbl (s.arg.a % 2 ^ 56) 256 = some o →
    let r : Revision := { id := s.nextRev, table := s.mgmt.rootTbl, parent := 0, depth := 0, owner := 1 }
    let u := acceptLaunch { s with revs := [r], nextRev := s.nextRev + 1 } s.nextRev s.mgmt.rootTbl (s.arg.a % 2 ^ 56) 0 0
      .root o
    u.tasks.all Task.recorded = false → exec .rootLaunch s = .next u ∧ ∃ k, u.tasks = [k] ∧ k.num = s.nextTask ∧ k.opb = o ∧
      k.kind = .root ∧ k.st = .live) ∧
  (∀ (s : State), s.arg.c < 384 → s.arg.n < 32 →
    exec .flagWindowPost s = .next (s.updCtx s.arg.c fun x => x.post s.arg.n (s.arg.v % 2 ^ 16))) ∧
  (∀ (s : State) (r : Revision), s.mgmt.tlbInv = false → s.arg.v % 2 = 1 →
    s.revs.find? (fun r => r.table / 2 ^ 12 == bits s.arg.v 12 40) = some r → ∃ t, exec .tlbinv s = .next t ∧ t.mem = s.mem ∧
      t.mgmt.tlbInv = true ∧ (∀ k, ∀ e ∈ (t.tile k).siphonTlb ++ (t.tile k).pumpTlb, e.rev ≠ r.id) ∧
      (∀ k, ∀ e ∈ (t.cis k).tlb2, e.rev ≠ r.id) ∧ ∃ w, t.invs = s.invs ++ [{ rev := r.id, waits := w }]) ∧
  (∀ (s : State), exec .clrmin s = .next { s with mgmt := { s.mgmt with clrmin := true } } ∧
    exec .dack s = .next { s with mgmt := { s.mgmt with dack := true } } ∧
    exec .lrClear s = .next { s with mgmt := { s.mgmt with lr := false } } ∧
    exec .clockChange s = .next { s with mgmt := { s.mgmt with
      clockMhz := s.arg.v % 2 ^ 16, clockChanges := (s.mgmt.clockChanges + 1) % 2 ^ 32 } } ∧
    exec .errorLogRead s = .next { s with mgmt := { s.mgmt with
      reply := logBytes ((s.ciss.toList.flatMap Cistern.log) ++ s.mgmt.log) } } ∧
    ∃ t, exec .errorLogClear s = .next t ∧ t.mem = s.mem ∧ t.mgmt = { s.mgmt with log := [] } ∧ ∀ k, (t.cis k).log = []) ∧
  (∀ (s : State),
    let code := ((s.arg.bs.getD 1 0).toNat)
    let seed := Config.identitySeed s.mgmt.fusedSecret
    let cert := Config.certificate (edPublic seed) s.mgmt.certSig
    let answers := fun (l : List (List Byte)) =>
      exec .mailboxSpdm s = .next { s with mgmt := { s.mgmt with reply := Config.spdmAnswer (code % 128) l } }
    let proof := fun (l : List (List Byte)) =>
      l ++ [edSign seed (Config.spdmSigned s.arg.bs ((s.arg.bs.drop 4).take 32) l)]
    (code = 0x84 → answers [bytesOfNat 1 0x12]) ∧ (code = 0xE1 → answers []) ∧
    (code = 0xE3 → answers [bytesOfNat 4 (2 ^ 10), bytesOfNat 4 (2 ^ 2)]) ∧
    (code = 0x81 → answers [sha512 cert]) ∧ (code = 0x82 → answers [cert]) ∧
    (code = 0x83 → answers (proof [sha512 cert, sha512 s.mgmt.measured.flatten])) ∧
    (code = 0xE0 → answers (if (s.arg.bs.getD 2 0).toNat % 2 = 1 then proof s.mgmt.measured else s.mgmt.measured)) ∧
    (code ∉ [0x84, 0xE1, 0xE3, 0x81, 0x82, 0x83, 0xE0] →
      exec .mailboxSpdm s = .next { s with mgmt := { s.mgmt with reply := Config.spdmAnswer 0x7F [] } })) ∧
  (∀ (s : State),
    (s.arg.k = 1 → s.arg.a + s.arg.bs.length ≤ 2 ^ 51 → ∃ t, exec .hostMemWrite s = .next t ∧ t.mgmt.resp = .done ∧
      t.mem = memWrites s.mem (cellsAt (hostBase + s.arg.a) s.arg.bs) ∧ t.ctxs = s.ctxs) ∧
    (s.mgmt.state = 4 → s.mgmt.fullWidth = true → s.arg.k ≠ 1 → s.arg.a + s.arg.bs.length ≤ Config.deviceBytes → ∃ t, exec .hostMemWrite s = .next t ∧ t.mgmt.resp = .done ∧
      t.mem = memWrites s.mem (cellsAt s.arg.a s.arg.bs) ∧ t.ctxs = s.ctxs ∧
      ∀ p, ¬ (s.arg.a ≤ p ∧ p < s.arg.a + s.arg.bs.length) → memRead t.mem p = memRead s.mem p)) ∧
  (∀ (s : State),
    let dump := (s.mgmt.state = 5 ∨ s.mgmt.state = 7 ∧ s.mgmt.fatal = none) ∧ s.mgmt.dumpDone = true ∧ Config.dumpAt ≤ s.arg.a
    let opened := s.mgmt.state = 4 ∧ s.mgmt.fullWidth = true
    let refused : State := { s with mgmt := { s.mgmt with resp := .error, reply := [] } }
    (opened ∨ dump → s.arg.a + s.arg.n ≤ Config.deviceBytes → s.badMem = [] → ∃ t, exec .hostMemRead s = .next t ∧
      t.mgmt.resp = .done ∧ t.mgmt.reply = bytesAt s s.arg.a s.arg.n ∧ t.mem = s.mem ∧ t.ctxs = s.ctxs) ∧
    (s.arg.k ≠ 1 → ¬ opened ∨ Config.deviceBytes < s.arg.a + s.arg.bs.length → exec .hostMemWrite s = .next refused) ∧
    (s.arg.k = 1 → 2 ^ 51 < s.arg.a + s.arg.bs.length → exec .hostMemWrite s = .next refused) ∧
    (¬ opened ∧ ¬ dump ∨ Config.deviceBytes < s.arg.a + s.arg.n → exec .hostMemRead s = .next refused)) ∧
  (∀ (s : State), ∃ t, exec .peerContained s = .next t ∧ t.mem = s.mem ∧
    ∀ d, d ∈ t.contained ↔ if d = s.arg.n then s.arg.ok = true else d ∈ s.contained) ∧
  (∀ (s : State), s.mgmt.state = 4 →
    (s.arg.k = 0 → s.arg.a + s.arg.n ≤ Config.deviceBytes → s.badMem = [] → ∃ t, exec .galeRemoteAccess s = .next t ∧
      t.mgmt.resp = .done ∧ t.mgmt.reply = bytesAt s s.arg.a s.arg.n ∧ t.mem = s.mem ∧ t.ctxs = s.ctxs) ∧
    (s.arg.k = 1 → s.arg.a + s.arg.bs.length ≤ Config.deviceBytes → ∃ t, exec .galeRemoteAccess s = .next t ∧
      t.mgmt.resp = .done ∧ t.mem = memWrites s.mem (cellsAt s.arg.a s.arg.bs) ∧ t.ctxs = s.ctxs) ∧
    (s.arg.k = 2 → s.arg.a + s.arg.n ≤ Config.deviceBytes → s.badIn s.arg.a s.arg.n = false →
      let old := s.readNat s.arg.a s.arg.n
      let y := natOfBytes (s.arg.bs.take s.arg.n)
      ∃ t, exec .galeRemoteAccess s = .next t ∧ t.mgmt.resp = .done ∧ t.mgmt.reply = s.read s.arg.a s.arg.n ∧
        t.mem = memWrites s.mem (cellsAt s.arg.a (bytesOfNat s.arg.n (if s.arg.v = 0 then (old + y) % 2 ^ (8 * s.arg.n)
          else sphAtomNew s.arg.v (8 * s.arg.n) old y (natOfBytes (s.arg.bs.drop s.arg.n)))))) ∧
    (s.arg.k = 3 → s.arg.a + 40 ≤ Config.deviceBytes → s.badIn s.arg.a 40 = false → ∃ t, exec .galeRemoteAccess s = .next t ∧
      t.mgmt.resp = .done ∧ t.mem = memWrites s.mem (cellsAt s.arg.a (bytesOfNat 40
        (exactAdd (s.readNat s.arg.a 40) (natOfBytes s.arg.bs)).1)))) ∧
  ∀ (s : State), s.mgmt.state ≠ 4 →
    exec .galeRemoteAccess s = .next { s with mgmt := { s.mgmt with resp := .lost, reply := [] } }

/-- Start-up, fatal errors and links (R379, R380, R384, R385, R387 to R389, R394, R395, R398): each stage verifies the next image before it
runs; a failed start counts and starts again, three in a row end in minimal mode; stage 3 clears the wells and opens the part; a fatal
error, in whatever state it comes, stops every context; the dump begins with its magic word; a link keeps the flits it sends until they are
acknowledged, goes down at the eighth replay failure of one flit in a row, and retrains at half width at the first faulty lane. The model's
readings: Ed25519 is that of RFC 8032 (log 12) and a digest is SHA-512 (log 30), the checks of an image come in the order R387 lists their
reasons (log 78), a start after a dump not yet acknowledged ends in STATE 7 (log 41), which digests are measured (log 79), what a trip and a
start in minimal mode leave (log 80), that a part stopped by a fatal error takes no second one (log 132), what a reset keeps (log 82, 106),
how a link's events name their flit (log 108). -/
def Obligations.StartupAndLinks : Prop :=
  (∀ (s : State), s.mgmt.state ≠ 0 ∨ s.mgmt.begun = true → exec .bootStart s = .next s) ∧
  (∀ (s : State), s.mgmt.state = 0 → s.mgmt.begun = true ∨ exec .bootStageDone s = .next s) ∧
  (∀ (s : State), s.mgmt.state = 0 → s.mgmt.begun = false → let f := if s.mgmt.clrmin then 0 else s.mgmt.fails
    ∃ t, exec .bootStart s = .next t ∧ t.mem = s.mem ∧ t.mgmt.fails = f ∧ t.mgmt.clrmin = false ∧
      (f = 3 → t.mgmt.state = 5 ∧ t.mgmt.min = true) ∧ (f ≠ 3 → t.mgmt.state = 0 ∧ t.mgmt.measured = []) ∧
      (s.mgmt.fatal ≠ none → t.mgmt.reason = 7)) ∧
  (∀ (m : Mgmt) (i : BootImage),
    let signed := sha512 m.hexvinKey = m.keyDigest ∧ edVerify m.hexvinKey i.digest i.signature = true
    (m.imageBad i = none ↔ signed ∧ sha512 i.body = i.digest ∧ m.minVersion ≤ i.version) ∧
    (¬ signed → m.imageBad i = some 1) ∧ (signed → sha512 i.body ≠ i.digest → m.imageBad i = some 2) ∧
    (signed → sha512 i.body = i.digest → i.version < m.minVersion → m.imageBad i = some 3)) ∧
  (∀ (s : State), s.mgmt.state ≤ 2 → (s.mgmt.state = 0 → s.mgmt.begun = true) →
    (s.mgmt.state = 2 → s.arg.k ≠ 4 ∧ s.arg.k ≠ 5) →
    let i := vget s.mgmt.images s.mgmt.state
    (s.mgmt.imageBad i = none → ∃ t, exec .bootStageDone s = .next t ∧ t.mgmt.state = s.mgmt.state + 1 ∧
      t.mgmt.measured = s.mgmt.measured ++ [i.digest] ∧ t.mem = s.mem ∧ (s.mgmt.state = 1 → t.mgmt.fullWidth = s.arg.ok)) ∧
    (∀ r, s.mgmt.imageBad i = some r → ∃ t, exec .bootStageDone s = .next t ∧ StartFails s t r (s.mgmt.state + 1))) ∧
  (∀ (s : State), s.mgmt.state = 2 → s.arg.k = 4 ∨ s.arg.k = 5 →
    ∃ t, exec .bootStageDone s = .next t ∧ StartFails s t s.arg.k 2) ∧
  (∀ (s : State), s.mgmt.state = 3 → ∃ t, exec .bootStageDone s = .next t ∧
    (∀ a, memRead t.mem a = if wellBase ≤ a ∧ a < wellBase + 2 ^ 21 * 192 then 0 else memRead s.mem a) ∧
    (s.mgmt.fullWidth = false → t.mgmt.state = 5 ∧ t.mgmt.reason = 9) ∧
    (s.mgmt.fullWidth = true → s.mgmt.dumped = true → s.mgmt.dack = false → t.mgmt.state = 7) ∧
    (s.mgmt.fullWidth = true → s.mgmt.dumped = false ∨ s.mgmt.dack = true → t.mgmt.state = 4 ∧
      t.mgmt.fails = if s.mgmt.min then s.mgmt.fails else 0)) ∧
  (∀ (s : State), s.mgmt.state ≤ 3 → let n := s.mgmt.state
    ∃ t u v, exec .bootWatchdog s = .next t ∧ StartFails s t 6 n ∧
    exec .thermalTrip s = .next u ∧ StartFails s u 8 n ∧ exec .powerTrip s = .next v ∧ StartFails s v 8 n) ∧
  (∀ (s : State), let stopped := s.mgmt.state = 6 ∨ s.mgmt.state = 7 ∧ s.mgmt.fatal ≠ none
    (¬ stopped → ∃ t, exec .fatalError s = .next t ∧ Fatal s t (s.arg.k, s.arg.n, s.arg.a)) ∧
    (¬ stopped → 4 ≤ s.mgmt.state → ∃ u v, exec .thermalTrip s = .next u ∧ Fatal s u (8, 0, 0) ∧
      exec .powerTrip s = .next v ∧ Fatal s v (8, 0, 0)) ∧
    (stopped → exec .fatalError s = .next s ∧ exec .thermalTrip s = .next s ∧ exec .powerTrip s = .next s) ∧
    (4 ≤ s.mgmt.state → exec .bootWatchdog s = .next s)) ∧
  (∀ (s : State), ∃ t, exec .rst s = .next t ∧ t.mem = s.mem ∧ t.mgmt.state = 0 ∧ t.mgmt.reason = s.mgmt.reason ∧
    t.mgmt.stage = s.mgmt.stage ∧ t.mgmt.begun = false ∧ t.mgmt.fails = s.mgmt.fails ∧ t.mgmt.min = s.mgmt.min ∧ t.tasks = [] ∧ t.steps = [] ∧ ∀ c, (t.ctx c).cond = .absent) ∧
  (∀ (s : State), (s.mgmt.state ≠ 6 → exec .dumpComplete s = .next s) ∧
    (∀ cb ring, ownPlace s s.mgmt.fbuf = some cb → s.badIn cb 64 = false → ownPlace s (s.readNat (cb + 16) 8) = some ring →
      ReadsCorrected s s.correctDump [(cb, 64), (ring, 131072)] ∧ s.dumpReads = (some cb, some ring)) ∧
    (s.mgmt.state = 6 → Memory.wf s.mem = true → ∃ t, exec .dumpComplete s = .next t ∧ t.mgmt.state = 7 ∧
      t.mgmt.dumpDone = true ∧ t.readNat Config.dumpAt 4 = 0x504D5544 ∧ t.readNat (Config.dumpAt + 4) 4 = 1 ∧
      t.mem = memWrites s.mem (cellsAt Config.dumpAt s.correctDump.dumpBytes) ∧
      ∀ a, a < Config.dumpAt → memRead t.mem a = memRead s.mem a)) ∧
  (∀ (s : State), s.arg.n < 3 → ∃ t, exec .mailboxImageReplace s = .next t ∧ t.mem = s.mem ∧
    vget t.mgmt.images s.arg.n = { version := s.arg.v, digest := s.arg.bs.take 64,
                                   signature := (s.arg.bs.drop 64).take 64, body := s.arg.bs.drop 128 } ∧
    ∀ n, n < 3 → n ≠ s.arg.n → vget t.mgmt.images n = vget s.mgmt.images n) ∧
  (∀ (l : Link) (ack v k : Nat),
    let sent := fun (f : Nat) => f ∈ l.replay ∧ ack ≤ f ∨ max l.sent ack ≤ f ∧ f ≤ v
    (∀ m, l.carry ack v = some m → l.st = .up ∧ m.st = .up ∧ m.replay.length ≤ 512 ∧ sent v ∧ (∀ f, f ∈ m.replay ↔ sent f) ∧
      m.sent = max l.sent (v + 1) ∧ m.laneReplays = l.laneReplays ∧ m.fails = l.fails ∧ m.failing = l.failing) ∧
    (∀ m, m = l.crcFail k v true → m.fails = 0 ∧ m.st = l.st ∧ (∀ f, f ∈ m.replay ↔ f ∈ l.replay ∧ v < f) ∧
      vget m.laneReplays k = vget l.laneReplays k + 1) ∧
    ∀ m, m = l.crcFail k v false → m.replay = l.replay ∧ m.failing = v ∧
      m.fails = (if l.failing = v then l.fails + 1 else 1) ∧ m.st = (if 8 ≤ m.fails then .down else l.st) ∧
      vget m.laneReplays k = vget l.laneReplays k + 1) ∧
  (∀ (s : State), let l := vget s.links s.arg.n
    (l.carry s.arg.a s.arg.v = none → exec .flitCrcFail s = .next s) ∧
    (∀ m, l.carry s.arg.a s.arg.v = some m → exec .flitCrcFail s =
      .next { s with links := vput s.links s.arg.n (m.crcFail s.arg.k s.arg.v s.arg.ok) }) ∧
    (l.st = .down ∨ vget l.laneReplays s.arg.k < 16 → exec .lanePersistentFault s = .next s) ∧
    (l.st ≠ .down → 16 ≤ vget l.laneReplays s.arg.k → ∃ t m, exec .lanePersistentFault s = .next t ∧
      m = vget t.links s.arg.n ∧ (∃ e ∈ t.mgmt.log, e.place = 8 ∧ e.idx = 8 * s.arg.n + s.arg.k) ∧
      m.faulty = l.faulty ||| BitVec.ofNat 8 (2 ^ (s.arg.k % 8)) ∧ vget m.laneReplays s.arg.k = 0 ∧
      m.replay = l.replay ∧ m.sent = l.sent ∧
      (let both := m.faulty.extractLsb' 0 4 ≠ 0 ∧ m.faulty.extractLsb' 4 4 ≠ 0
       (both → m.st = .down ∧ m.half = l.half) ∧ (¬ both → m.st = .retraining ∧ m.half = true))) ∧
    ∃ t m, exec .linkRetrainComplete s = .next t ∧ m = vget t.links s.arg.n ∧ m.half = l.half ∧ m.replay = l.replay ∧
      m.sent = l.sent ∧ m.faulty = l.faulty ∧ m.st = (if l.st = .retraining then .up else l.st))

/-! ### What every step keeps -/

namespace Sys2Proof.Claims

/-- Memory and every sump are in canonical form. -/
def formsOk (s : State) : Prop := Memory.wf s.mem = true ∧ ∀ t, sumpOk (s.tile t).sump

/-- A program counter: 32 bits, a multiple of 16 (R33). -/
def isPc (n : Nat) : Prop := n % 16 = 0 ∧ n < 2 ^ 32

/-- The PC, the restart PC and the PCs of the bundles broadcast to a context are program counters. -/
def pcOk (x : Ctx) : Prop := isPc x.pc ∧ isPc x.restart ∧ ∀ b ∈ x.bcast, isPc b.1

/-- The fields of the status register hold values the spec gives (R379). -/
def mgmtOk (m : Mgmt) : Prop := m.state ≤ 7 ∧ m.fails ≤ 3 ∧ m.stage ≤ 3

end Sys2Proof.Claims

/-- Every step, of whatever agent, keeps memory and the sumps in their canonical forms. -/
def Obligations.FormsAreKept : Prop := ∀ s t : State, formsOk s → step s = .next t → formsOk t

/-- Every step keeps every context's PC and restart PC a multiple of 16 in 32 bits (R33), and the fields STATE, FAILS and STAGE of the
management status within what R379 and R388 give them. -/
def Obligations.CountersAreKept : Prop :=
  (∀ s t : State, (∀ c, pcOk (s.ctx c)) → step s = .next t → ∀ c, pcOk (t.ctx c)) ∧
  ∀ s t : State, mgmtOk s.mgmt → step s = .next t → mgmtOk t.mgmt

/-- The machine right after reset: STATE 0 with no reason (R379), 1,100 MHz (R9), no task, no byte of memory listed, every context absent
with the register values of R139, every TID entry unset (R309), every sump clear; and it has the forms every step keeps. That unlisted
bytes read 0 and that no image is present are the model's choices (log 1, log 6); that a context not resident holds the values of step
start is its reading (log 8), and the forms kept range over its own fields too (log 62). -/
def Obligations.ResetState : Prop :=
  let r := State.reset
  r.mgmt.state = 0 ∧ r.mgmt.reason = 0 ∧ r.mgmt.clockMhz = 1100 ∧ r.mem = [] ∧ r.tasks = [] ∧ r.steps = [] ∧ r.posts = [] ∧
  r.records = [] ∧
  (∀ c n, let x := r.ctx c
    x.cond = .absent ∧ x.a.rS n = 0 ∧ x.a.rA n = 0 ∧ x.a.rV n = 0 ∧ x.a.rW n = 0 ∧ x.a.rP n = (n % 16 == 0) ∧
    x.a.rM n = (if n % 8 = 0 then BitVec.allOnes 128 else 0) ∧ vget x.flags n = 0 ∧ x.a.loops = [] ∧ vget x.a.z n = []) ∧
  (∀ t n, (vget (r.tile t).tids n).fmt = 7 ∧ (r.tile t).sump = []) ∧
  formsOk r ∧ (∀ c, pcOk (r.ctx c)) ∧ mgmtOk r.mgmt

/-- Memory as data: two memories in canonical form that read alike are equal; a number written is the number read, least significant
byte first (R4); a write leaves every other byte alone. -/
def Obligations.MemoryIsItsBytes : Prop :=
  (∀ m n : List Host.Cell, Memory.wf m = true → Memory.wf n = true → (∀ a, memRead m a = memRead n a) → m = n) ∧
  (∀ (s : State) (p n v : Nat), Memory.wf s.mem = true →
    (s.write (cellsAt p (bytesOfNat n v))).readNat p n = v % 2 ^ (8 * n)) ∧
  (∀ (s : State) (p k : Nat) (l : List Byte), Memory.wf s.mem = true → k < l.length →
    memRead (s.write (cellsAt p l)).mem (p + k) = l.getD k 0) ∧
  ∀ (s : State) (p a : Nat) (l : List Byte), ¬ (p ≤ a ∧ a < p + l.length) →
    memRead (s.write (cellsAt p l)).mem a = memRead s.mem a

/-! ### Frames -/

namespace Sys2Proof.Claims

/-- Instructions whose only effect is a result on its way to a register. -/
def landsOnly : Instr → Bool
  | .add .. | .sub .. | .mul .. | .mulh .. | .mulhn .. | .div .. | .divn .. | .rem .. | .remn .. | .and .. | .or ..
  | .xor .. | .andn .. | .shl .. | .shr .. | .sha .. | .min .. | .max .. | .minn .. | .maxn .. | .clz .. | .popc ..
  | .addi .. | .muli .. | .andi .. | .ori .. | .xori .. | .andni .. | .shli .. | .shri .. | .shai .. | .mini ..
  | .maxi .. | .minni .. | .maxni .. | .ceq .. | .cne .. | .clt .. | .cle .. | .cltn .. | .clen .. | .ceqi .. | .cnei ..
  | .clti .. | .clei .. | .cltni .. | .cleni .. | .lih .. | .lihK .. | .sel .. | .pand .. | .por .. | .pxor .. | .pset ..
  | .xcp .. | .xbase .. | .getm .. | .flGet .. | .sphStat .. | .vsp .. | .spl .. | .aadd .. | .aaddi .. | .ashl .. | .amov .. | .ffma .. | .ffms .. | .fnma .. | .fadd .. | .fsub ..
  | .fmul .. | .fdiv .. | .fsqrt .. | .frcp .. | .frsq .. | .fexp2 .. | .flog2 .. | .fcvt .. | .fmin .. | .fmax ..
  | .fabs .. | .fneg .. | .fscl .. | .fcmp .. | .icmp .. | .iadd .. | .isub .. | .imul .. | .imin .. | .imax .. | .iand ..
  | .ior .. | .ixor .. | .ishl .. | .ishr .. | .isha .. | .vsel .. | .vperm .. | .vbcLane .. | .vbcImm .. | .vmov ..
  | .vsum .. | .vmaxr .. | .vminr .. | .vexpmax .. | .vnzs .. | .vcmpk .. | .fcls .. | .mand .. | .mor .. | .mnot ..
  | .mpop .. | .ffmaW .. | .ffmsW .. | .fnmaW .. | .faddW .. | .fsubW .. | .fmulW .. | .fcvtW .. | .fminW .. | .fmaxW ..
  | .fabsW .. | .fnegW .. | .fsclW .. | .iaddW .. | .isubW .. | .imulW .. | .iminW .. | .imaxW .. | .iandW .. | .iorW ..
  | .ixorW .. | .ishlW .. | .ishrW .. | .ishaW .. => true
  | _ => false

/-- Instructions that put one entry into the gate. -/
def gatesOnly : Instr → Bool
  | .sb .. | .sh .. | .sw .. | .sd .. | .vst .. | .vstx .. | .sps .. | .fpost .. => true
  | _ => false

end Sys2Proof.Claims

/-- Frames. An instruction of slots S, M, V and X that computes a register from registers answers a next state in every state, and in it
nothing has changed but its own result on its way: no register, no flag, no other context, no byte of memory. A store, a spill or a
post, once it has put its entry into the gate, has changed nothing else: its bytes reach memory later (R50, R82). -/
def Obligations.Frames : Prop :=
  (∀ (i : Instr) (s : State), landsOnly i = true → ∃ t, exec i s = .next t ∧ OnlyLands s t ∧ SameMemory s t) ∧
  ∀ (i : Instr) (s t : State), gatesOnly i = true → exec i s = .next t → t.me.gate.length = s.me.gate.length + 1 →
    t = s.setCtx s.cur t.me ∧ { s.me with gate := t.me.gate, opSeq := t.me.opSeq } = t.me ∧ SameMemory s t ∧
    ∃ e, t.me.gate = s.me.gate ++ [e]
end

