-- ==== Sys2Proof/Laws/Lanes.lean ====
section
/-! SUPPORT. Lanes (R181): a lane of packed lanes is the value packed there; bytes and the number they hold (R4). -/

namespace Sys2Proof.Machine

theorem packLanes_lt (w : Nat) : ∀ l : List Nat, packLanes w l < 2 ^ (w * l.length)
  | [] => by simp [packLanes]
  | x :: r => by
    have ih := packLanes_lt w r
    have hx : x % 2 ^ w < 2 ^ w := Nat.mod_lt _ (Nat.two_pow_pos w)
    simp only [packLanes, List.length_cons, Nat.mul_add, Nat.mul_one, Nat.pow_add]
    have h1 : 2 ^ w * (packLanes w r + 1) ≤ 2 ^ w * 2 ^ (w * r.length) := Nat.mul_le_mul_left _ ih
    rw [Nat.mul_add, Nat.mul_one] at h1
    rw [Nat.mul_comm (2 ^ (w * r.length))]
    omega

/-- Element `i` of packed elements. -/
theorem packLanes_get (w : Nat) : ∀ (l : List Nat) (i : Nat), packLanes w l / 2 ^ (w * i) % 2 ^ w = l.getD i 0 % 2 ^ w
  | [], i => by simp [packLanes]
  | x :: r, 0 => by
    simp only [packLanes, Nat.mul_zero, Nat.pow_zero, Nat.div_one, List.getD_cons_zero]
    rw [Nat.add_mul_mod_self_left, Nat.mod_mod]
  | x :: r, i + 1 => by
    have hx : x % 2 ^ w < 2 ^ w := Nat.mod_lt _ (Nat.two_pow_pos w)
    simp only [packLanes, List.getD_cons_succ, Nat.mul_add, Nat.mul_one, Nat.pow_add]
    rw [Nat.mul_comm (2 ^ (w * i)), ← Nat.div_div_eq_div_mul, Nat.add_mul_div_left _ _ (Nat.two_pow_pos w),
      Nat.div_eq_of_lt hx, Nat.zero_add]
    exact packLanes_get w r i

/-- A lane of a packed register: the element there, when the elements fill at most the register. -/
theorem lane_packVec (w : Nat) (l : List Nat) (i : Nat) (h : w * l.length ≤ 2048) :
    lane w (packVec w l) i = l.getD i 0 % 2 ^ w := by
  have h1 := packLanes_lt w l
  unfold lane packVec
  rw [BitVec.toNat_ofNat, Nat.mod_eq_of_lt (Nat.lt_of_lt_of_le h1 (Nat.pow_le_pow_right (by decide) h)), packLanes_get]

theorem upTo_length (n : Nat) : (upTo n).length = n := by simp [upTo]

/-- The list a lane-wise form packs, at a lane. -/
theorem map_upTo_getD {α : Type} (f : Nat → α) (n i : Nat) (d : α) (h : i < n) : ((upTo n).map f).getD i d = f i := by
  simp [upTo, List.getD_eq_getElem?_getD, h]

theorem bytesOfNat_length : ∀ (n x : Nat), (bytesOfNat n x).length = n
  | 0, _ => rfl
  | n + 1, x => by simp [bytesOfNat, bytesOfNat_length n]

/-- The number in the bytes of a number. -/
theorem natOfBytes_bytesOfNat : ∀ (n x : Nat), natOfBytes (bytesOfNat n x) = x % 256 ^ n
  | 0, x => by simp [bytesOfNat, natOfBytes, Nat.mod_one]
  | n + 1, x => by
    simp only [bytesOfNat, natOfBytes, natOfBytes_bytesOfNat n, BitVec.toNat_ofNat]
    have h : (256 : Nat) ^ (n + 1) = 256 * 256 ^ n := by rw [Nat.pow_succ, Nat.mul_comm]
    rw [h, Nat.mod_mul]

end Sys2Proof.Machine
end

