-- ==== Sys2Proof/Laws/Memory.lean ====
section
/-! SUPPORT. Memory: every operation keeps the canonical form, a read after a write gives what was written, a write leaves
every other address alone, and two memories in canonical form that read the same are the same list. -/

namespace Sys2Proof.Machine

/-! ### The canonical form -/

theorem memOk_weaken : ∀ (m : List Host.Cell) {lo lo' : Option Nat}, memOk lo m = true →
    (∀ l, lo' = some l → ∀ p ∈ m.head?, l < p.1) → memOk lo' m = true
  | [], _, _, _, _ => rfl
  | (a, b) :: r, lo, lo', h, hl => by
    simp only [memOk, Bool.and_eq_true] at h ⊢
    refine ⟨⟨?_, h.1.2⟩, h.2⟩
    cases lo' with
    | none => rfl
    | some l => simpa using hl l rfl (a, b) (by simp)

theorem memOk_tail {lo : Option Nat} {c : Host.Cell} {r : List Host.Cell} (h : memOk lo (c :: r) = true) :
    memOk (some c.1) r = true := by
  simp only [memOk, Bool.and_eq_true] at h
  exact h.2

/-- Every address listed above a bound is above it. -/
theorem memOk_above : ∀ (m : List Host.Cell) {l : Nat}, memOk (some l) m = true → ∀ c ∈ m, l < c.1
  | [], _, _, c, hc => by simp at hc
  | (a, b) :: r, l, h, c, hc => by
    simp only [memOk, Bool.and_eq_true, decide_eq_true_eq] at h
    rcases List.mem_cons.mp hc with rfl | hc
    · exact h.1.1
    · exact Nat.lt_trans h.1.1 (memOk_above r h.2 c hc)

/-- A write keeps the canonical form above any bound below the address. -/
theorem memWrite_ok : ∀ (m : List Host.Cell) (k : Nat) (b : Byte) (lo : Option Nat), memOk lo m = true →
    (∀ l, lo = some l → l < k) → memOk lo (memWrite m k b) = true
  | [], k, b, lo, _, hk => by
    unfold memWrite
    split
    · rfl
    · rename_i hb
      cases lo <;> simp_all [memOk]
  | (a, x) :: r, k, b, lo, h, hk => by
    have h' := h
    simp only [memOk, Bool.and_eq_true] at h
    unfold memWrite
    split
    · rename_i hlt
      split
      · exact h'
      · rename_i hb
        simp only [memOk, Bool.and_eq_true]
        refine ⟨⟨?_, by simp [hb]⟩, ⟨by simpa using hlt, h.1.2⟩, h.2⟩
        cases lo with
        | none => rfl
        | some l => simpa using hk l rfl
    · split
      · rename_i hne heq
        subst heq
        split
        · refine memOk_weaken r h.2 ?_
          intro l hl p hp
          exact Nat.lt_trans (hk l hl) (memOk_above r h.2 p (List.mem_of_mem_head? hp))
        · rename_i hb
          simp only [memOk, Bool.and_eq_true]
          refine ⟨⟨?_, by simp [hb]⟩, h.2⟩
          cases lo with
          | none => rfl
          | some l => simpa using hk l rfl
      · rename_i h1 h2
        simp only [memOk, Bool.and_eq_true]
        refine ⟨h.1, memWrite_ok r k b (some a) h.2 ?_⟩
        intro l hl
        cases hl
        omega

theorem memWrite_wf {m : List Host.Cell} (h : Memory.wf m = true) (k : Nat) (b : Byte) :
    Memory.wf (memWrite m k b) = true := memWrite_ok m k b none h (by simp)

theorem memWrites_wf : ∀ (l : List Host.Cell) {m : List Host.Cell}, Memory.wf m = true → Memory.wf (memWrites m l) = true
  | [], _, h => h
  | (k, b) :: r, _, h => memWrites_wf r (memWrite_wf h k b)

/-- Leaving entries out keeps the canonical form. -/
theorem memOk_filter (p : Host.Cell → Bool) : ∀ (m : List Host.Cell) (lo : Option Nat), memOk lo m = true →
    memOk lo (m.filter p) = true
  | [], _, _ => rfl
  | (a, b) :: r, lo, h => by
    have ht := memOk_filter p r (some a) (memOk_tail h)
    simp only [memOk, Bool.and_eq_true] at h
    simp only [List.filter_cons]
    split
    · simp only [memOk, Bool.and_eq_true]
      exact ⟨h.1, ht⟩
    · refine memOk_weaken _ ht ?_
      intro l hl c hc
      have hc := memOk_above _ ht c (List.mem_of_mem_head? hc)
      subst hl
      have : l < a := by simpa using h.1.1
      omega

theorem memClear_wf {m : List Host.Cell} (h : Memory.wf m = true) (k n : Nat) : Memory.wf (memClear m k n) = true :=
  memOk_filter _ m none h

/-! ### Reads after writes -/

/-- An address below every entry is unlisted. -/
theorem memRead_below : ∀ (m : List Host.Cell) {l k : Nat}, memOk (some l) m = true → k ≤ l → memRead m k = unlisted
  | [], _, _, _, _ => rfl
  | (a, b) :: r, l, k, h, hk => by
    simp only [memOk, Bool.and_eq_true, decide_eq_true_eq] at h
    unfold memRead
    rw [if_neg (by omega)]
    exact memRead_below r h.2 (by omega)

theorem memRead_memWrite_same : ∀ (m : List Host.Cell) (k : Nat) (b : Byte) (lo : Option Nat), memOk lo m = true →
    memRead (memWrite m k b) k = b
  | [], k, b, _, _ => by
    unfold memWrite
    split <;> simp_all [memRead]
  | (a, x) :: r, k, b, lo, h => by
    have ht := memOk_tail h
    unfold memWrite
    split
    · split
      · rename_i hlt hb
        unfold memRead
        rw [if_neg (by omega), hb]
        exact memRead_below r ht (by simp; omega)
      · simp [memRead]
    · split
      · rename_i heq
        subst heq
        split
        · rename_i hb
          rw [hb]
          exact memRead_below r ht (Nat.le_refl _)
        · simp [memRead]
      · rename_i hne
        unfold memRead
        rw [if_neg (fun h => hne h.symm)]
        exact memRead_memWrite_same r k b (some a) ht

theorem memRead_memWrite_other : ∀ (m : List Host.Cell) (k j : Nat) (b : Byte), k ≠ j →
    memRead (memWrite m k b) j = memRead m j
  | [], k, j, b, h => by
    unfold memWrite
    split <;> simp [memRead, h]
  | (a, x) :: r, k, j, b, h => by
    unfold memWrite
    split
    · split <;> simp [memRead, h]
    · split
      · rename_i heq
        subst heq
        split <;> simp [memRead, h]
      · unfold memRead
        split
        · rfl
        · exact memRead_memWrite_other r k j b h

theorem memRead_memWrites_other : ∀ (l : List Host.Cell) (m : List Host.Cell) (j : Nat), (∀ c ∈ l, c.1 ≠ j) →
    memRead (memWrites m l) j = memRead m j
  | [], _, _, _ => rfl
  | (k, b) :: r, m, j, h => by
    unfold memWrites
    rw [memRead_memWrites_other r _ j fun c hc => h c (List.mem_cons_of_mem _ hc)]
    exact memRead_memWrite_other m k j b (h (k, b) (by simp))

theorem memRead_memClear_in : ∀ (m : List Host.Cell) (k n j : Nat), k ≤ j → j < k + n →
    memRead (memClear m k n) j = unlisted
  | [], _, _, _, _, _ => rfl
  | (a, b) :: r, k, n, j, h1, h2 => by
    have ih := memRead_memClear_in r k n j h1 h2
    unfold memClear at ih ⊢
    rw [List.filter_cons]
    split
    · rename_i hp
      unfold memRead
      rw [if_neg, ih]
      rintro rfl
      simp [h1, h2] at hp
    · exact ih

theorem memRead_memClear_out : ∀ (m : List Host.Cell) (k n j : Nat), ¬ (k ≤ j ∧ j < k + n) →
    memRead (memClear m k n) j = memRead m j
  | [], _, _, _, _ => rfl
  | (a, b) :: r, k, n, j, h => by
    have ih := memRead_memClear_out r k n j h
    unfold memClear at ih ⊢
    rw [List.filter_cons]
    split
    · unfold memRead
      split
      · rfl
      · exact ih
    · rename_i hp
      rw [ih]
      have : a ≠ j := by
        rintro rfl
        apply h
        simpa using hp
      simp [memRead, this]

/-! ### Performing a write -/

@[simp] theorem dropLines_mem (s : State) (l : List Host.Cell) : (dropLines s l).mem = s.mem := by
  unfold dropLines
  split <;> rfl

@[simp] theorem State.write_mem (s : State) (l : List Host.Cell) : (s.write l).mem = memWrites s.mem l := dropLines_mem _ _

/-- A performed write keeps the canonical form. -/
theorem State.write_wf {s : State} (h : Memory.wf s.mem = true) (l : List Host.Cell) : Memory.wf (s.write l).mem = true := by
  rw [State.write_mem]
  exact memWrites_wf l h

/-- A performed write leaves every other byte. -/
theorem State.write_other (s : State) (l : List Host.Cell) (j : Nat) (h : ∀ c ∈ l, c.1 ≠ j) :
    memRead (s.write l).mem j = memRead s.mem j := by
  rw [State.write_mem]
  exact memRead_memWrites_other l s.mem j h

@[simp] theorem dropRange_mem (s : State) (p n : Nat) : (dropRange s p n).mem = s.mem := by
  unfold dropRange
  split <;> rfl

@[simp] theorem State.fill_mem (s : State) (p n : Nat) (l : List Host.Cell) :
    (s.fill p n l).mem = memWrites (memClear s.mem p n) l := by
  simp [State.fill]

/-- Filling a range keeps the canonical form. -/
theorem State.fill_wf {s : State} (h : Memory.wf s.mem = true) (p n : Nat) (l : List Host.Cell) :
    Memory.wf (s.fill p n l).mem = true := by
  rw [State.fill_mem]
  exact memWrites_wf l (memClear_wf h _ _)

theorem State.putImage_wf {s : State} (h : Memory.wf s.mem = true) (area : Nat) (l : List (Nat × Nat × Nat)) :
    Memory.wf (s.putImage area l).mem = true := State.fill_wf h _ _ _

/-! ### Correcting single-bit errors (R219, R391): only the list of errors and the logs change -/

/-- What a correction leaves alone. -/
structure SameButLogs (s t : State) : Prop where
  mem : t.mem = s.mem
  badMem : t.badMem = s.badMem
  ctxs : t.ctxs = s.ctxs
  cur : t.cur = s.cur
  tiles : t.tiles = s.tiles
  steps : t.steps = s.steps
  tasks : t.tasks = s.tasks
  revs : t.revs = s.revs
  posts : t.posts = s.posts

theorem SameButLogs.rfl' (s : State) : SameButLogs s s := ⟨rfl, rfl, rfl, rfl, rfl, rfl, rfl, rfl, rfl⟩

theorem SameButLogs.trans {s t u : State} (h : SameButLogs s t) (k : SameButLogs t u) : SameButLogs s u :=
  ⟨k.mem.trans h.mem, k.badMem.trans h.badMem, k.ctxs.trans h.ctxs, k.cur.trans h.cur, k.tiles.trans h.tiles,
    k.steps.trans h.steps, k.tasks.trans h.tasks, k.revs.trans h.revs, k.posts.trans h.posts⟩

/-- A fold of corrections is one. -/
theorem SameButLogs.foldl {α : Type} {f : State → α → State} (hf : ∀ s x, SameButLogs s (f s x)) :
    ∀ (l : List α) (s : State), SameButLogs s (l.foldl f s)
  | [], s => .rfl' s
  | x :: l, s => (hf s x).trans (SameButLogs.foldl hf l (f s x))

theorem State.logAt_same (s : State) (g : Nat) (b : Bool) : SameButLogs s (s.logAt g b) := by
  unfold State.logAt
  split <;> exact ⟨rfl, rfl, rfl, rfl, rfl, rfl, rfl, rfl, rfl⟩

theorem State.correct_same (s : State) (p n : Nat) : SameButLogs s (s.correct p n) := by
  unfold State.correct
  dsimp only
  split
  · exact .rfl' s
  · refine SameButLogs.trans (t := { s with
      softMem := s.softMem.filter fun g => !granuleMeets p n g }) ?_ (SameButLogs.foldl (fun t g => t.logAt_same g true) _ _)
    exact ⟨rfl, rfl, rfl, rfl, rfl, rfl, rfl, rfl, rfl⟩

theorem State.correctBytes_same (s : State) (ps : List Nat) : SameButLogs s (s.correctBytes ps) := by
  unfold State.correctBytes
  split
  · exact .rfl' s
  · exact SameButLogs.foldl (fun t p => t.correct_same p 1) _ _

theorem State.correctAll_same (s : State) (l : List (Nat × Nat)) : SameButLogs s (s.correctAll l) := by
  unfold State.correctAll
  split
  · exact .rfl' s
  · exact SameButLogs.foldl (fun t (e : Nat × Nat) => t.correct_same e.1 e.2) _ _

theorem State.coreCorrect_same (s : State) (c p n : Nat) : SameButLogs s (s.coreCorrect c p n) := s.correctBytes_same _

@[simp] theorem State.correct_mem (s : State) (p n : Nat) : (s.correct p n).mem = s.mem := (s.correct_same p n).mem
@[simp] theorem State.correct_ctxs (s : State) (p n : Nat) : (s.correct p n).ctxs = s.ctxs := (s.correct_same p n).ctxs
@[simp] theorem State.correct_cur (s : State) (p n : Nat) : (s.correct p n).cur = s.cur := (s.correct_same p n).cur
@[simp] theorem State.correct_tiles (s : State) (p n : Nat) : (s.correct p n).tiles = s.tiles := (s.correct_same p n).tiles
@[simp] theorem State.correctBytes_mem (s : State) (l : List Nat) : (s.correctBytes l).mem = s.mem := (s.correctBytes_same l).mem
@[simp] theorem State.correctBytes_ctxs (s : State) (l : List Nat) : (s.correctBytes l).ctxs = s.ctxs :=
  (s.correctBytes_same l).ctxs
@[simp] theorem State.correctAll_mem (s : State) (l : List (Nat × Nat)) : (s.correctAll l).mem = s.mem := (s.correctAll_same l).mem
@[simp] theorem State.correctAll_ctxs (s : State) (l : List (Nat × Nat)) : (s.correctAll l).ctxs = s.ctxs :=
  (s.correctAll_same l).ctxs
@[simp] theorem State.coreCorrect_mem (s : State) (c p n : Nat) : (s.coreCorrect c p n).mem = s.mem :=
  (s.coreCorrect_same c p n).mem
@[simp] theorem State.coreCorrect_ctxs (s : State) (c p n : Nat) : (s.coreCorrect c p n).ctxs = s.ctxs :=
  (s.coreCorrect_same c p n).ctxs

/-- With no single-bit error about, a read changes nothing. -/
theorem State.correct_clean {s : State} (h : s.softMem = []) (p n : Nat) : s.correct p n = s := by
  simp [State.correct, h]

theorem State.coreCorrect_clean {s : State} (h : s.softMem = []) (c p n : Nat) : s.coreCorrect c p n = s := by
  simp [State.coreCorrect, State.correctBytes, h]

@[simp] theorem State.logAt_mem (s : State) (g : Nat) (b : Bool) : (s.logAt g b).mem = s.mem := (s.logAt_same g b).mem

/-- A write by an engine of a cistern stores its cells and logs, nothing else. -/
theorem State.store_same (s : State) (l : List Host.Cell) : SameButLogs (s.write l) (s.store l) :=
  SameButLogs.foldl (fun t g => t.logAt_same g false) _ _

@[simp] theorem State.store_mem (s : State) (l : List Host.Cell) : (s.store l).mem = memWrites s.mem l := by
  rw [(s.store_same l).mem, s.write_mem]

theorem State.store_wf {s : State} (h : Memory.wf s.mem = true) (l : List Host.Cell) : Memory.wf (s.store l).mem = true := by
  rw [s.store_mem]
  exact memWrites_wf l h

theorem reset_mem_wf : Memory.wf State.reset.mem = true := rfl

end Sys2Proof.Machine
end

