-- ==== Sys2Proof/Laws/State.lean ====
section
/-! SUPPORT. What each named update of the state leaves alone: one lemma per field and update, so that no later proof
unfolds a record update; and what reading a register file position after writing one gives. -/

namespace Sys2Proof.Machine

/-! ### Register file positions -/

theorem vget_vput_same {α : Type} {n : Nat} (v : Vector α (n + 1)) (i : Nat) (x : α) : vget (vput v i x) i = x := by
  simp [vget, vput]

theorem vget_vput_other {α : Type} {n : Nat} (v : Vector α (n + 1)) (i j : Nat) (x : α)
    (h : i % (n + 1) ≠ j % (n + 1)) : vget (vput v i x) j = vget v j := by
  simp [vget, vput, Vector.getElem_set_ne, h]

/-! ### Fields the updates leave alone -/

@[simp] theorem State.setCtx_sched (s : State) (c : Nat) (x : Ctx) : (s.setCtx c x).sched = s.sched := rfl
@[simp] theorem State.setCtx_arg (s : State) (c : Nat) (x : Ctx) : (s.setCtx c x).arg = s.arg := rfl
@[simp] theorem State.setCtx_cur (s : State) (c : Nat) (x : Ctx) : (s.setCtx c x).cur = s.cur := rfl
@[simp] theorem State.setCtx_freeCount (s : State) (c : Nat) (x : Ctx) : (s.setCtx c x).freeCount = s.freeCount := rfl
@[simp] theorem State.setCtx_mem (s : State) (c : Nat) (x : Ctx) : (s.setCtx c x).mem = s.mem := rfl
@[simp] theorem State.setCtx_badMem (s : State) (c : Nat) (x : Ctx) : (s.setCtx c x).badMem = s.badMem := rfl
@[simp] theorem State.setCtx_softMem (s : State) (c : Nat) (x : Ctx) : (s.setCtx c x).softMem = s.softMem := rfl
@[simp] theorem State.setCtx_softTables (s : State) (c : Nat) (x : Ctx) : (s.setCtx c x).softTables = s.softTables := rfl
@[simp] theorem State.setCtx_tiles (s : State) (c : Nat) (x : Ctx) : (s.setCtx c x).tiles = s.tiles := rfl
@[simp] theorem State.setCtx_ciss (s : State) (c : Nat) (x : Ctx) : (s.setCtx c x).ciss = s.ciss := rfl
@[simp] theorem State.setCtx_tasks (s : State) (c : Nat) (x : Ctx) : (s.setCtx c x).tasks = s.tasks := rfl
@[simp] theorem State.setCtx_steps (s : State) (c : Nat) (x : Ctx) : (s.setCtx c x).steps = s.steps := rfl
@[simp] theorem State.setCtx_nextTask (s : State) (c : Nat) (x : Ctx) : (s.setCtx c x).nextTask = s.nextTask := rfl
@[simp] theorem State.setCtx_revs (s : State) (c : Nat) (x : Ctx) : (s.setCtx c x).revs = s.revs := rfl
@[simp] theorem State.setCtx_nextRev (s : State) (c : Nat) (x : Ctx) : (s.setCtx c x).nextRev = s.nextRev := rfl
@[simp] theorem State.setCtx_framesUsed (s : State) (c : Nat) (x : Ctx) : (s.setCtx c x).framesUsed = s.framesUsed := rfl
@[simp] theorem State.setCtx_poolUsed (s : State) (c : Nat) (x : Ctx) : (s.setCtx c x).poolUsed = s.poolUsed := rfl
@[simp] theorem State.setCtx_board (s : State) (c : Nat) (x : Ctx) : (s.setCtx c x).board = s.board := rfl
@[simp] theorem State.setCtx_stageQ (s : State) (c : Nat) (x : Ctx) : (s.setCtx c x).stageQ = s.stageQ := rfl
@[simp] theorem State.setCtx_posts (s : State) (c : Nat) (x : Ctx) : (s.setCtx c x).posts = s.posts := rfl
@[simp] theorem State.setCtx_records (s : State) (c : Nat) (x : Ctx) : (s.setCtx c x).records = s.records := rfl
@[simp] theorem State.setCtx_forks (s : State) (c : Nat) (x : Ctx) : (s.setCtx c x).forks = s.forks := rfl
@[simp] theorem State.setCtx_joins (s : State) (c : Nat) (x : Ctx) : (s.setCtx c x).joins = s.joins := rfl
@[simp] theorem State.setCtx_invs (s : State) (c : Nat) (x : Ctx) : (s.setCtx c x).invs = s.invs := rfl
@[simp] theorem State.setCtx_contained (s : State) (c : Nat) (x : Ctx) : (s.setCtx c x).contained = s.contained := rfl
@[simp] theorem State.setCtx_routes (s : State) (c : Nat) (x : Ctx) : (s.setCtx c x).routes = s.routes := rfl
@[simp] theorem State.setCtx_links (s : State) (c : Nat) (x : Ctx) : (s.setCtx c x).links = s.links := rfl
@[simp] theorem State.setCtx_mgmt (s : State) (c : Nat) (x : Ctx) : (s.setCtx c x).mgmt = s.mgmt := rfl

@[simp] theorem State.updCtx_sched (s : State) (c : Nat) (f : Ctx → Ctx) : (s.updCtx c f).sched = s.sched := rfl
@[simp] theorem State.updCtx_arg (s : State) (c : Nat) (f : Ctx → Ctx) : (s.updCtx c f).arg = s.arg := rfl
@[simp] theorem State.updCtx_cur (s : State) (c : Nat) (f : Ctx → Ctx) : (s.updCtx c f).cur = s.cur := rfl
@[simp] theorem State.updCtx_freeCount (s : State) (c : Nat) (f : Ctx → Ctx) : (s.updCtx c f).freeCount = s.freeCount := rfl
@[simp] theorem State.updCtx_mem (s : State) (c : Nat) (f : Ctx → Ctx) : (s.updCtx c f).mem = s.mem := rfl
@[simp] theorem State.updCtx_badMem (s : State) (c : Nat) (f : Ctx → Ctx) : (s.updCtx c f).badMem = s.badMem := rfl
@[simp] theorem State.updCtx_softMem (s : State) (c : Nat) (f : Ctx → Ctx) : (s.updCtx c f).softMem = s.softMem := rfl
@[simp] theorem State.updCtx_softTables (s : State) (c : Nat) (f : Ctx → Ctx) : (s.updCtx c f).softTables = s.softTables := rfl
@[simp] theorem State.updCtx_tiles (s : State) (c : Nat) (f : Ctx → Ctx) : (s.updCtx c f).tiles = s.tiles := rfl
@[simp] theorem State.updCtx_ciss (s : State) (c : Nat) (f : Ctx → Ctx) : (s.updCtx c f).ciss = s.ciss := rfl
@[simp] theorem State.updCtx_tasks (s : State) (c : Nat) (f : Ctx → Ctx) : (s.updCtx c f).tasks = s.tasks := rfl
@[simp] theorem State.updCtx_steps (s : State) (c : Nat) (f : Ctx → Ctx) : (s.updCtx c f).steps = s.steps := rfl
@[simp] theorem State.updCtx_nextTask (s : State) (c : Nat) (f : Ctx → Ctx) : (s.updCtx c f).nextTask = s.nextTask := rfl
@[simp] theorem State.updCtx_revs (s : State) (c : Nat) (f : Ctx → Ctx) : (s.updCtx c f).revs = s.revs := rfl
@[simp] theorem State.updCtx_nextRev (s : State) (c : Nat) (f : Ctx → Ctx) : (s.updCtx c f).nextRev = s.nextRev := rfl
@[simp] theorem State.updCtx_framesUsed (s : State) (c : Nat) (f : Ctx → Ctx) : (s.updCtx c f).framesUsed = s.framesUsed := rfl
@[simp] theorem State.updCtx_poolUsed (s : State) (c : Nat) (f : Ctx → Ctx) : (s.updCtx c f).poolUsed = s.poolUsed := rfl
@[simp] theorem State.updCtx_board (s : State) (c : Nat) (f : Ctx → Ctx) : (s.updCtx c f).board = s.board := rfl
@[simp] theorem State.updCtx_stageQ (s : State) (c : Nat) (f : Ctx → Ctx) : (s.updCtx c f).stageQ = s.stageQ := rfl
@[simp] theorem State.updCtx_posts (s : State) (c : Nat) (f : Ctx → Ctx) : (s.updCtx c f).posts = s.posts := rfl
@[simp] theorem State.updCtx_records (s : State) (c : Nat) (f : Ctx → Ctx) : (s.updCtx c f).records = s.records := rfl
@[simp] theorem State.updCtx_forks (s : State) (c : Nat) (f : Ctx → Ctx) : (s.updCtx c f).forks = s.forks := rfl
@[simp] theorem State.updCtx_joins (s : State) (c : Nat) (f : Ctx → Ctx) : (s.updCtx c f).joins = s.joins := rfl
@[simp] theorem State.updCtx_invs (s : State) (c : Nat) (f : Ctx → Ctx) : (s.updCtx c f).invs = s.invs := rfl
@[simp] theorem State.updCtx_contained (s : State) (c : Nat) (f : Ctx → Ctx) : (s.updCtx c f).contained = s.contained := rfl
@[simp] theorem State.updCtx_routes (s : State) (c : Nat) (f : Ctx → Ctx) : (s.updCtx c f).routes = s.routes := rfl
@[simp] theorem State.updCtx_links (s : State) (c : Nat) (f : Ctx → Ctx) : (s.updCtx c f).links = s.links := rfl
@[simp] theorem State.updCtx_mgmt (s : State) (c : Nat) (f : Ctx → Ctx) : (s.updCtx c f).mgmt = s.mgmt := rfl

@[simp] theorem State.updMe_sched (s : State) (f : Ctx → Ctx) : (s.updMe f).sched = s.sched := rfl
@[simp] theorem State.updMe_arg (s : State) (f : Ctx → Ctx) : (s.updMe f).arg = s.arg := rfl
@[simp] theorem State.updMe_cur (s : State) (f : Ctx → Ctx) : (s.updMe f).cur = s.cur := rfl
@[simp] theorem State.updMe_freeCount (s : State) (f : Ctx → Ctx) : (s.updMe f).freeCount = s.freeCount := rfl
@[simp] theorem State.updMe_mem (s : State) (f : Ctx → Ctx) : (s.updMe f).mem = s.mem := rfl
@[simp] theorem State.updMe_badMem (s : State) (f : Ctx → Ctx) : (s.updMe f).badMem = s.badMem := rfl
@[simp] theorem State.updMe_softMem (s : State) (f : Ctx → Ctx) : (s.updMe f).softMem = s.softMem := rfl
@[simp] theorem State.updMe_softTables (s : State) (f : Ctx → Ctx) : (s.updMe f).softTables = s.softTables := rfl
@[simp] theorem State.updMe_tiles (s : State) (f : Ctx → Ctx) : (s.updMe f).tiles = s.tiles := rfl
@[simp] theorem State.updMe_ciss (s : State) (f : Ctx → Ctx) : (s.updMe f).ciss = s.ciss := rfl
@[simp] theorem State.updMe_tasks (s : State) (f : Ctx → Ctx) : (s.updMe f).tasks = s.tasks := rfl
@[simp] theorem State.updMe_steps (s : State) (f : Ctx → Ctx) : (s.updMe f).steps = s.steps := rfl
@[simp] theorem State.updMe_nextTask (s : State) (f : Ctx → Ctx) : (s.updMe f).nextTask = s.nextTask := rfl
@[simp] theorem State.updMe_revs (s : State) (f : Ctx → Ctx) : (s.updMe f).revs = s.revs := rfl
@[simp] theorem State.updMe_nextRev (s : State) (f : Ctx → Ctx) : (s.updMe f).nextRev = s.nextRev := rfl
@[simp] theorem State.updMe_framesUsed (s : State) (f : Ctx → Ctx) : (s.updMe f).framesUsed = s.framesUsed := rfl
@[simp] theorem State.updMe_poolUsed (s : State) (f : Ctx → Ctx) : (s.updMe f).poolUsed = s.poolUsed := rfl
@[simp] theorem State.updMe_board (s : State) (f : Ctx → Ctx) : (s.updMe f).board = s.board := rfl
@[simp] theorem State.updMe_stageQ (s : State) (f : Ctx → Ctx) : (s.updMe f).stageQ = s.stageQ := rfl
@[simp] theorem State.updMe_posts (s : State) (f : Ctx → Ctx) : (s.updMe f).posts = s.posts := rfl
@[simp] theorem State.updMe_records (s : State) (f : Ctx → Ctx) : (s.updMe f).records = s.records := rfl
@[simp] theorem State.updMe_forks (s : State) (f : Ctx → Ctx) : (s.updMe f).forks = s.forks := rfl
@[simp] theorem State.updMe_joins (s : State) (f : Ctx → Ctx) : (s.updMe f).joins = s.joins := rfl
@[simp] theorem State.updMe_invs (s : State) (f : Ctx → Ctx) : (s.updMe f).invs = s.invs := rfl
@[simp] theorem State.updMe_contained (s : State) (f : Ctx → Ctx) : (s.updMe f).contained = s.contained := rfl
@[simp] theorem State.updMe_routes (s : State) (f : Ctx → Ctx) : (s.updMe f).routes = s.routes := rfl
@[simp] theorem State.updMe_links (s : State) (f : Ctx → Ctx) : (s.updMe f).links = s.links := rfl
@[simp] theorem State.updMe_mgmt (s : State) (f : Ctx → Ctx) : (s.updMe f).mgmt = s.mgmt := rfl

@[simp] theorem State.updArch_sched (s : State) (f : Arch → Arch) : (s.updArch f).sched = s.sched := rfl
@[simp] theorem State.updArch_arg (s : State) (f : Arch → Arch) : (s.updArch f).arg = s.arg := rfl
@[simp] theorem State.updArch_cur (s : State) (f : Arch → Arch) : (s.updArch f).cur = s.cur := rfl
@[simp] theorem State.updArch_freeCount (s : State) (f : Arch → Arch) : (s.updArch f).freeCount = s.freeCount := rfl
@[simp] theorem State.updArch_mem (s : State) (f : Arch → Arch) : (s.updArch f).mem = s.mem := rfl
@[simp] theorem State.updArch_badMem (s : State) (f : Arch → Arch) : (s.updArch f).badMem = s.badMem := rfl
@[simp] theorem State.updArch_softMem (s : State) (f : Arch → Arch) : (s.updArch f).softMem = s.softMem := rfl
@[simp] theorem State.updArch_softTables (s : State) (f : Arch → Arch) : (s.updArch f).softTables = s.softTables := rfl
@[simp] theorem State.updArch_tiles (s : State) (f : Arch → Arch) : (s.updArch f).tiles = s.tiles := rfl
@[simp] theorem State.updArch_ciss (s : State) (f : Arch → Arch) : (s.updArch f).ciss = s.ciss := rfl
@[simp] theorem State.updArch_tasks (s : State) (f : Arch → Arch) : (s.updArch f).tasks = s.tasks := rfl
@[simp] theorem State.updArch_steps (s : State) (f : Arch → Arch) : (s.updArch f).steps = s.steps := rfl
@[simp] theorem State.updArch_nextTask (s : State) (f : Arch → Arch) : (s.updArch f).nextTask = s.nextTask := rfl
@[simp] theorem State.updArch_revs (s : State) (f : Arch → Arch) : (s.updArch f).revs = s.revs := rfl
@[simp] theorem State.updArch_nextRev (s : State) (f : Arch → Arch) : (s.updArch f).nextRev = s.nextRev := rfl
@[simp] theorem State.updArch_framesUsed (s : State) (f : Arch → Arch) : (s.updArch f).framesUsed = s.framesUsed := rfl
@[simp] theorem State.updArch_poolUsed (s : State) (f : Arch → Arch) : (s.updArch f).poolUsed = s.poolUsed := rfl
@[simp] theorem State.updArch_board (s : State) (f : Arch → Arch) : (s.updArch f).board = s.board := rfl
@[simp] theorem State.updArch_stageQ (s : State) (f : Arch → Arch) : (s.updArch f).stageQ = s.stageQ := rfl
@[simp] theorem State.updArch_posts (s : State) (f : Arch → Arch) : (s.updArch f).posts = s.posts := rfl
@[simp] theorem State.updArch_records (s : State) (f : Arch → Arch) : (s.updArch f).records = s.records := rfl
@[simp] theorem State.updArch_forks (s : State) (f : Arch → Arch) : (s.updArch f).forks = s.forks := rfl
@[simp] theorem State.updArch_joins (s : State) (f : Arch → Arch) : (s.updArch f).joins = s.joins := rfl
@[simp] theorem State.updArch_invs (s : State) (f : Arch → Arch) : (s.updArch f).invs = s.invs := rfl
@[simp] theorem State.updArch_contained (s : State) (f : Arch → Arch) : (s.updArch f).contained = s.contained := rfl
@[simp] theorem State.updArch_routes (s : State) (f : Arch → Arch) : (s.updArch f).routes = s.routes := rfl
@[simp] theorem State.updArch_links (s : State) (f : Arch → Arch) : (s.updArch f).links = s.links := rfl
@[simp] theorem State.updArch_mgmt (s : State) (f : Arch → Arch) : (s.updArch f).mgmt = s.mgmt := rfl

@[simp] theorem State.updTile_sched (s : State) (t : Nat) (f : Tile → Tile) : (s.updTile t f).sched = s.sched := rfl
@[simp] theorem State.updTile_arg (s : State) (t : Nat) (f : Tile → Tile) : (s.updTile t f).arg = s.arg := rfl
@[simp] theorem State.updTile_cur (s : State) (t : Nat) (f : Tile → Tile) : (s.updTile t f).cur = s.cur := rfl
@[simp] theorem State.updTile_freeCount (s : State) (t : Nat) (f : Tile → Tile) : (s.updTile t f).freeCount = s.freeCount := rfl
@[simp] theorem State.updTile_mem (s : State) (t : Nat) (f : Tile → Tile) : (s.updTile t f).mem = s.mem := rfl
@[simp] theorem State.updTile_badMem (s : State) (t : Nat) (f : Tile → Tile) : (s.updTile t f).badMem = s.badMem := rfl
@[simp] theorem State.updTile_softMem (s : State) (t : Nat) (f : Tile → Tile) : (s.updTile t f).softMem = s.softMem := rfl
@[simp] theorem State.updTile_softTables (s : State) (t : Nat) (f : Tile → Tile) : (s.updTile t f).softTables = s.softTables := rfl
@[simp] theorem State.updTile_ctxs (s : State) (t : Nat) (f : Tile → Tile) : (s.updTile t f).ctxs = s.ctxs := rfl
@[simp] theorem State.updTile_ciss (s : State) (t : Nat) (f : Tile → Tile) : (s.updTile t f).ciss = s.ciss := rfl
@[simp] theorem State.updTile_tasks (s : State) (t : Nat) (f : Tile → Tile) : (s.updTile t f).tasks = s.tasks := rfl
@[simp] theorem State.updTile_steps (s : State) (t : Nat) (f : Tile → Tile) : (s.updTile t f).steps = s.steps := rfl
@[simp] theorem State.updTile_nextTask (s : State) (t : Nat) (f : Tile → Tile) : (s.updTile t f).nextTask = s.nextTask := rfl
@[simp] theorem State.updTile_revs (s : State) (t : Nat) (f : Tile → Tile) : (s.updTile t f).revs = s.revs := rfl
@[simp] theorem State.updTile_nextRev (s : State) (t : Nat) (f : Tile → Tile) : (s.updTile t f).nextRev = s.nextRev := rfl
@[simp] theorem State.updTile_framesUsed (s : State) (t : Nat) (f : Tile → Tile) : (s.updTile t f).framesUsed = s.framesUsed := rfl
@[simp] theorem State.updTile_poolUsed (s : State) (t : Nat) (f : Tile → Tile) : (s.updTile t f).poolUsed = s.poolUsed := rfl
@[simp] theorem State.updTile_board (s : State) (t : Nat) (f : Tile → Tile) : (s.updTile t f).board = s.board := rfl
@[simp] theorem State.updTile_stageQ (s : State) (t : Nat) (f : Tile → Tile) : (s.updTile t f).stageQ = s.stageQ := rfl
@[simp] theorem State.updTile_posts (s : State) (t : Nat) (f : Tile → Tile) : (s.updTile t f).posts = s.posts := rfl
@[simp] theorem State.updTile_records (s : State) (t : Nat) (f : Tile → Tile) : (s.updTile t f).records = s.records := rfl
@[simp] theorem State.updTile_forks (s : State) (t : Nat) (f : Tile → Tile) : (s.updTile t f).forks = s.forks := rfl
@[simp] theorem State.updTile_joins (s : State) (t : Nat) (f : Tile → Tile) : (s.updTile t f).joins = s.joins := rfl
@[simp] theorem State.updTile_invs (s : State) (t : Nat) (f : Tile → Tile) : (s.updTile t f).invs = s.invs := rfl
@[simp] theorem State.updTile_contained (s : State) (t : Nat) (f : Tile → Tile) : (s.updTile t f).contained = s.contained := rfl
@[simp] theorem State.updTile_routes (s : State) (t : Nat) (f : Tile → Tile) : (s.updTile t f).routes = s.routes := rfl
@[simp] theorem State.updTile_links (s : State) (t : Nat) (f : Tile → Tile) : (s.updTile t f).links = s.links := rfl
@[simp] theorem State.updTile_mgmt (s : State) (t : Nat) (f : Tile → Tile) : (s.updTile t f).mgmt = s.mgmt := rfl

@[simp] theorem State.updCis_sched (s : State) (k : Nat) (f : Cistern → Cistern) : (s.updCis k f).sched = s.sched := rfl
@[simp] theorem State.updCis_arg (s : State) (k : Nat) (f : Cistern → Cistern) : (s.updCis k f).arg = s.arg := rfl
@[simp] theorem State.updCis_cur (s : State) (k : Nat) (f : Cistern → Cistern) : (s.updCis k f).cur = s.cur := rfl
@[simp] theorem State.updCis_freeCount (s : State) (k : Nat) (f : Cistern → Cistern) : (s.updCis k f).freeCount = s.freeCount := rfl
@[simp] theorem State.updCis_mem (s : State) (k : Nat) (f : Cistern → Cistern) : (s.updCis k f).mem = s.mem := rfl
@[simp] theorem State.updCis_badMem (s : State) (k : Nat) (f : Cistern → Cistern) : (s.updCis k f).badMem = s.badMem := rfl
@[simp] theorem State.updCis_softMem (s : State) (k : Nat) (f : Cistern → Cistern) : (s.updCis k f).softMem = s.softMem := rfl
@[simp] theorem State.updCis_softTables (s : State) (k : Nat) (f : Cistern → Cistern) : (s.updCis k f).softTables = s.softTables := rfl
@[simp] theorem State.updCis_ctxs (s : State) (k : Nat) (f : Cistern → Cistern) : (s.updCis k f).ctxs = s.ctxs := rfl
@[simp] theorem State.updCis_tiles (s : State) (k : Nat) (f : Cistern → Cistern) : (s.updCis k f).tiles = s.tiles := rfl
@[simp] theorem State.updCis_tasks (s : State) (k : Nat) (f : Cistern → Cistern) : (s.updCis k f).tasks = s.tasks := rfl
@[simp] theorem State.updCis_steps (s : State) (k : Nat) (f : Cistern → Cistern) : (s.updCis k f).steps = s.steps := rfl
@[simp] theorem State.updCis_nextTask (s : State) (k : Nat) (f : Cistern → Cistern) : (s.updCis k f).nextTask = s.nextTask := rfl
@[simp] theorem State.updCis_revs (s : State) (k : Nat) (f : Cistern → Cistern) : (s.updCis k f).revs = s.revs := rfl
@[simp] theorem State.updCis_nextRev (s : State) (k : Nat) (f : Cistern → Cistern) : (s.updCis k f).nextRev = s.nextRev := rfl
@[simp] theorem State.updCis_framesUsed (s : State) (k : Nat) (f : Cistern → Cistern) : (s.updCis k f).framesUsed = s.framesUsed := rfl
@[simp] theorem State.updCis_poolUsed (s : State) (k : Nat) (f : Cistern → Cistern) : (s.updCis k f).poolUsed = s.poolUsed := rfl
@[simp] theorem State.updCis_board (s : State) (k : Nat) (f : Cistern → Cistern) : (s.updCis k f).board = s.board := rfl
@[simp] theorem State.updCis_stageQ (s : State) (k : Nat) (f : Cistern → Cistern) : (s.updCis k f).stageQ = s.stageQ := rfl
@[simp] theorem State.updCis_posts (s : State) (k : Nat) (f : Cistern → Cistern) : (s.updCis k f).posts = s.posts := rfl
@[simp] theorem State.updCis_records (s : State) (k : Nat) (f : Cistern → Cistern) : (s.updCis k f).records = s.records := rfl
@[simp] theorem State.updCis_forks (s : State) (k : Nat) (f : Cistern → Cistern) : (s.updCis k f).forks = s.forks := rfl
@[simp] theorem State.updCis_joins (s : State) (k : Nat) (f : Cistern → Cistern) : (s.updCis k f).joins = s.joins := rfl
@[simp] theorem State.updCis_invs (s : State) (k : Nat) (f : Cistern → Cistern) : (s.updCis k f).invs = s.invs := rfl
@[simp] theorem State.updCis_contained (s : State) (k : Nat) (f : Cistern → Cistern) : (s.updCis k f).contained = s.contained := rfl
@[simp] theorem State.updCis_routes (s : State) (k : Nat) (f : Cistern → Cistern) : (s.updCis k f).routes = s.routes := rfl
@[simp] theorem State.updCis_links (s : State) (k : Nat) (f : Cistern → Cistern) : (s.updCis k f).links = s.links := rfl
@[simp] theorem State.updCis_mgmt (s : State) (k : Nat) (f : Cistern → Cistern) : (s.updCis k f).mgmt = s.mgmt := rfl

@[simp] theorem State.updTask_sched (s : State) (n : Nat) (f : Task → Task) : (s.updTask n f).sched = s.sched := rfl
@[simp] theorem State.updTask_arg (s : State) (n : Nat) (f : Task → Task) : (s.updTask n f).arg = s.arg := rfl
@[simp] theorem State.updTask_cur (s : State) (n : Nat) (f : Task → Task) : (s.updTask n f).cur = s.cur := rfl
@[simp] theorem State.updTask_freeCount (s : State) (n : Nat) (f : Task → Task) : (s.updTask n f).freeCount = s.freeCount := rfl
@[simp] theorem State.updTask_mem (s : State) (n : Nat) (f : Task → Task) : (s.updTask n f).mem = s.mem := rfl
@[simp] theorem State.updTask_badMem (s : State) (n : Nat) (f : Task → Task) : (s.updTask n f).badMem = s.badMem := rfl
@[simp] theorem State.updTask_softMem (s : State) (n : Nat) (f : Task → Task) : (s.updTask n f).softMem = s.softMem := rfl
@[simp] theorem State.updTask_softTables (s : State) (n : Nat) (f : Task → Task) : (s.updTask n f).softTables = s.softTables := rfl
@[simp] theorem State.updTask_ctxs (s : State) (n : Nat) (f : Task → Task) : (s.updTask n f).ctxs = s.ctxs := rfl
@[simp] theorem State.updTask_tiles (s : State) (n : Nat) (f : Task → Task) : (s.updTask n f).tiles = s.tiles := rfl
@[simp] theorem State.updTask_ciss (s : State) (n : Nat) (f : Task → Task) : (s.updTask n f).ciss = s.ciss := rfl
@[simp] theorem State.updTask_steps (s : State) (n : Nat) (f : Task → Task) : (s.updTask n f).steps = s.steps := rfl
@[simp] theorem State.updTask_nextTask (s : State) (n : Nat) (f : Task → Task) : (s.updTask n f).nextTask = s.nextTask := rfl
@[simp] theorem State.updTask_revs (s : State) (n : Nat) (f : Task → Task) : (s.updTask n f).revs = s.revs := rfl
@[simp] theorem State.updTask_nextRev (s : State) (n : Nat) (f : Task → Task) : (s.updTask n f).nextRev = s.nextRev := rfl
@[simp] theorem State.updTask_framesUsed (s : State) (n : Nat) (f : Task → Task) : (s.updTask n f).framesUsed = s.framesUsed := rfl
@[simp] theorem State.updTask_poolUsed (s : State) (n : Nat) (f : Task → Task) : (s.updTask n f).poolUsed = s.poolUsed := rfl
@[simp] theorem State.updTask_board (s : State) (n : Nat) (f : Task → Task) : (s.updTask n f).board = s.board := rfl
@[simp] theorem State.updTask_stageQ (s : State) (n : Nat) (f : Task → Task) : (s.updTask n f).stageQ = s.stageQ := rfl
@[simp] theorem State.updTask_posts (s : State) (n : Nat) (f : Task → Task) : (s.updTask n f).posts = s.posts := rfl
@[simp] theorem State.updTask_records (s : State) (n : Nat) (f : Task → Task) : (s.updTask n f).records = s.records := rfl
@[simp] theorem State.updTask_forks (s : State) (n : Nat) (f : Task → Task) : (s.updTask n f).forks = s.forks := rfl
@[simp] theorem State.updTask_joins (s : State) (n : Nat) (f : Task → Task) : (s.updTask n f).joins = s.joins := rfl
@[simp] theorem State.updTask_invs (s : State) (n : Nat) (f : Task → Task) : (s.updTask n f).invs = s.invs := rfl
@[simp] theorem State.updTask_contained (s : State) (n : Nat) (f : Task → Task) : (s.updTask n f).contained = s.contained := rfl
@[simp] theorem State.updTask_routes (s : State) (n : Nat) (f : Task → Task) : (s.updTask n f).routes = s.routes := rfl
@[simp] theorem State.updTask_links (s : State) (n : Nat) (f : Task → Task) : (s.updTask n f).links = s.links := rfl
@[simp] theorem State.updTask_mgmt (s : State) (n : Nat) (f : Task → Task) : (s.updTask n f).mgmt = s.mgmt := rfl

@[simp] theorem State.updStep_sched (s : State) (n k : Nat) (f : Step → Step) : (s.updStep n k f).sched = s.sched := rfl
@[simp] theorem State.updStep_arg (s : State) (n k : Nat) (f : Step → Step) : (s.updStep n k f).arg = s.arg := rfl
@[simp] theorem State.updStep_cur (s : State) (n k : Nat) (f : Step → Step) : (s.updStep n k f).cur = s.cur := rfl
@[simp] theorem State.updStep_freeCount (s : State) (n k : Nat) (f : Step → Step) : (s.updStep n k f).freeCount = s.freeCount := rfl
@[simp] theorem State.updStep_mem (s : State) (n k : Nat) (f : Step → Step) : (s.updStep n k f).mem = s.mem := rfl
@[simp] theorem State.updStep_badMem (s : State) (n k : Nat) (f : Step → Step) : (s.updStep n k f).badMem = s.badMem := rfl
@[simp] theorem State.updStep_softMem (s : State) (n k : Nat) (f : Step → Step) : (s.updStep n k f).softMem = s.softMem := rfl
@[simp] theorem State.updStep_softTables (s : State) (n k : Nat) (f : Step → Step) : (s.updStep n k f).softTables = s.softTables := rfl
@[simp] theorem State.updStep_ctxs (s : State) (n k : Nat) (f : Step → Step) : (s.updStep n k f).ctxs = s.ctxs := rfl
@[simp] theorem State.updStep_tiles (s : State) (n k : Nat) (f : Step → Step) : (s.updStep n k f).tiles = s.tiles := rfl
@[simp] theorem State.updStep_ciss (s : State) (n k : Nat) (f : Step → Step) : (s.updStep n k f).ciss = s.ciss := rfl
@[simp] theorem State.updStep_tasks (s : State) (n k : Nat) (f : Step → Step) : (s.updStep n k f).tasks = s.tasks := rfl
@[simp] theorem State.updStep_nextTask (s : State) (n k : Nat) (f : Step → Step) : (s.updStep n k f).nextTask = s.nextTask := rfl
@[simp] theorem State.updStep_revs (s : State) (n k : Nat) (f : Step → Step) : (s.updStep n k f).revs = s.revs := rfl
@[simp] theorem State.updStep_nextRev (s : State) (n k : Nat) (f : Step → Step) : (s.updStep n k f).nextRev = s.nextRev := rfl
@[simp] theorem State.updStep_framesUsed (s : State) (n k : Nat) (f : Step → Step) : (s.updStep n k f).framesUsed = s.framesUsed := rfl
@[simp] theorem State.updStep_poolUsed (s : State) (n k : Nat) (f : Step → Step) : (s.updStep n k f).poolUsed = s.poolUsed := rfl
@[simp] theorem State.updStep_board (s : State) (n k : Nat) (f : Step → Step) : (s.updStep n k f).board = s.board := rfl
@[simp] theorem State.updStep_stageQ (s : State) (n k : Nat) (f : Step → Step) : (s.updStep n k f).stageQ = s.stageQ := rfl
@[simp] theorem State.updStep_posts (s : State) (n k : Nat) (f : Step → Step) : (s.updStep n k f).posts = s.posts := rfl
@[simp] theorem State.updStep_records (s : State) (n k : Nat) (f : Step → Step) : (s.updStep n k f).records = s.records := rfl
@[simp] theorem State.updStep_forks (s : State) (n k : Nat) (f : Step → Step) : (s.updStep n k f).forks = s.forks := rfl
@[simp] theorem State.updStep_joins (s : State) (n k : Nat) (f : Step → Step) : (s.updStep n k f).joins = s.joins := rfl
@[simp] theorem State.updStep_invs (s : State) (n k : Nat) (f : Step → Step) : (s.updStep n k f).invs = s.invs := rfl
@[simp] theorem State.updStep_contained (s : State) (n k : Nat) (f : Step → Step) : (s.updStep n k f).contained = s.contained := rfl
@[simp] theorem State.updStep_routes (s : State) (n k : Nat) (f : Step → Step) : (s.updStep n k f).routes = s.routes := rfl
@[simp] theorem State.updStep_links (s : State) (n k : Nat) (f : Step → Step) : (s.updStep n k f).links = s.links := rfl
@[simp] theorem State.updStep_mgmt (s : State) (n k : Nat) (f : Step → Step) : (s.updStep n k f).mgmt = s.mgmt := rfl

@[simp] theorem State.offer_sched (s : State) (r : FRec) : (s.offer r).sched = s.sched := rfl
@[simp] theorem State.offer_arg (s : State) (r : FRec) : (s.offer r).arg = s.arg := rfl
@[simp] theorem State.offer_cur (s : State) (r : FRec) : (s.offer r).cur = s.cur := rfl
@[simp] theorem State.offer_freeCount (s : State) (r : FRec) : (s.offer r).freeCount = s.freeCount := rfl
@[simp] theorem State.offer_mem (s : State) (r : FRec) : (s.offer r).mem = s.mem := rfl
@[simp] theorem State.offer_badMem (s : State) (r : FRec) : (s.offer r).badMem = s.badMem := rfl
@[simp] theorem State.offer_softMem (s : State) (r : FRec) : (s.offer r).softMem = s.softMem := rfl
@[simp] theorem State.offer_softTables (s : State) (r : FRec) : (s.offer r).softTables = s.softTables := rfl
@[simp] theorem State.offer_ctxs (s : State) (r : FRec) : (s.offer r).ctxs = s.ctxs := rfl
@[simp] theorem State.offer_tiles (s : State) (r : FRec) : (s.offer r).tiles = s.tiles := rfl
@[simp] theorem State.offer_ciss (s : State) (r : FRec) : (s.offer r).ciss = s.ciss := rfl
@[simp] theorem State.offer_tasks (s : State) (r : FRec) : (s.offer r).tasks = s.tasks := rfl
@[simp] theorem State.offer_steps (s : State) (r : FRec) : (s.offer r).steps = s.steps := rfl
@[simp] theorem State.offer_nextTask (s : State) (r : FRec) : (s.offer r).nextTask = s.nextTask := rfl
@[simp] theorem State.offer_revs (s : State) (r : FRec) : (s.offer r).revs = s.revs := rfl
@[simp] theorem State.offer_nextRev (s : State) (r : FRec) : (s.offer r).nextRev = s.nextRev := rfl
@[simp] theorem State.offer_framesUsed (s : State) (r : FRec) : (s.offer r).framesUsed = s.framesUsed := rfl
@[simp] theorem State.offer_poolUsed (s : State) (r : FRec) : (s.offer r).poolUsed = s.poolUsed := rfl
@[simp] theorem State.offer_board (s : State) (r : FRec) : (s.offer r).board = s.board := rfl
@[simp] theorem State.offer_stageQ (s : State) (r : FRec) : (s.offer r).stageQ = s.stageQ := rfl
@[simp] theorem State.offer_posts (s : State) (r : FRec) : (s.offer r).posts = s.posts := rfl
@[simp] theorem State.offer_forks (s : State) (r : FRec) : (s.offer r).forks = s.forks := rfl
@[simp] theorem State.offer_joins (s : State) (r : FRec) : (s.offer r).joins = s.joins := rfl
@[simp] theorem State.offer_invs (s : State) (r : FRec) : (s.offer r).invs = s.invs := rfl
@[simp] theorem State.offer_contained (s : State) (r : FRec) : (s.offer r).contained = s.contained := rfl
@[simp] theorem State.offer_routes (s : State) (r : FRec) : (s.offer r).routes = s.routes := rfl
@[simp] theorem State.offer_links (s : State) (r : FRec) : (s.offer r).links = s.links := rfl
@[simp] theorem State.offer_mgmt (s : State) (r : FRec) : (s.offer r).mgmt = s.mgmt := rfl

@[simp] theorem State.landP_sched (s : State) (p : Pend) : (s.landP p).sched = s.sched := rfl
@[simp] theorem State.landP_arg (s : State) (p : Pend) : (s.landP p).arg = s.arg := rfl
@[simp] theorem State.landP_cur (s : State) (p : Pend) : (s.landP p).cur = s.cur := rfl
@[simp] theorem State.landP_freeCount (s : State) (p : Pend) : (s.landP p).freeCount = s.freeCount := rfl
@[simp] theorem State.landP_mem (s : State) (p : Pend) : (s.landP p).mem = s.mem := rfl
@[simp] theorem State.landP_badMem (s : State) (p : Pend) : (s.landP p).badMem = s.badMem := rfl
@[simp] theorem State.landP_softMem (s : State) (p : Pend) : (s.landP p).softMem = s.softMem := rfl
@[simp] theorem State.landP_softTables (s : State) (p : Pend) : (s.landP p).softTables = s.softTables := rfl
@[simp] theorem State.landP_tiles (s : State) (p : Pend) : (s.landP p).tiles = s.tiles := rfl
@[simp] theorem State.landP_ciss (s : State) (p : Pend) : (s.landP p).ciss = s.ciss := rfl
@[simp] theorem State.landP_tasks (s : State) (p : Pend) : (s.landP p).tasks = s.tasks := rfl
@[simp] theorem State.landP_steps (s : State) (p : Pend) : (s.landP p).steps = s.steps := rfl
@[simp] theorem State.landP_nextTask (s : State) (p : Pend) : (s.landP p).nextTask = s.nextTask := rfl
@[simp] theorem State.landP_revs (s : State) (p : Pend) : (s.landP p).revs = s.revs := rfl
@[simp] theorem State.landP_nextRev (s : State) (p : Pend) : (s.landP p).nextRev = s.nextRev := rfl
@[simp] theorem State.landP_framesUsed (s : State) (p : Pend) : (s.landP p).framesUsed = s.framesUsed := rfl
@[simp] theorem State.landP_poolUsed (s : State) (p : Pend) : (s.landP p).poolUsed = s.poolUsed := rfl
@[simp] theorem State.landP_board (s : State) (p : Pend) : (s.landP p).board = s.board := rfl
@[simp] theorem State.landP_stageQ (s : State) (p : Pend) : (s.landP p).stageQ = s.stageQ := rfl
@[simp] theorem State.landP_posts (s : State) (p : Pend) : (s.landP p).posts = s.posts := rfl
@[simp] theorem State.landP_records (s : State) (p : Pend) : (s.landP p).records = s.records := rfl
@[simp] theorem State.landP_forks (s : State) (p : Pend) : (s.landP p).forks = s.forks := rfl
@[simp] theorem State.landP_joins (s : State) (p : Pend) : (s.landP p).joins = s.joins := rfl
@[simp] theorem State.landP_invs (s : State) (p : Pend) : (s.landP p).invs = s.invs := rfl
@[simp] theorem State.landP_contained (s : State) (p : Pend) : (s.landP p).contained = s.contained := rfl
@[simp] theorem State.landP_routes (s : State) (p : Pend) : (s.landP p).routes = s.routes := rfl
@[simp] theorem State.landP_links (s : State) (p : Pend) : (s.landP p).links = s.links := rfl
@[simp] theorem State.landP_mgmt (s : State) (p : Pend) : (s.landP p).mgmt = s.mgmt := rfl

@[simp] theorem State.land_sched (s : State) (slot : Nat) (file : RFile) (n : Nat) (v : PVal) (l : Nat) : (s.land slot file n v l).sched = s.sched := rfl
@[simp] theorem State.land_arg (s : State) (slot : Nat) (file : RFile) (n : Nat) (v : PVal) (l : Nat) : (s.land slot file n v l).arg = s.arg := rfl
@[simp] theorem State.land_cur (s : State) (slot : Nat) (file : RFile) (n : Nat) (v : PVal) (l : Nat) : (s.land slot file n v l).cur = s.cur := rfl
@[simp] theorem State.land_freeCount (s : State) (slot : Nat) (file : RFile) (n : Nat) (v : PVal) (l : Nat) : (s.land slot file n v l).freeCount = s.freeCount := rfl
@[simp] theorem State.land_mem (s : State) (slot : Nat) (file : RFile) (n : Nat) (v : PVal) (l : Nat) : (s.land slot file n v l).mem = s.mem := rfl
@[simp] theorem State.land_badMem (s : State) (slot : Nat) (file : RFile) (n : Nat) (v : PVal) (l : Nat) : (s.land slot file n v l).badMem = s.badMem := rfl
@[simp] theorem State.land_softMem (s : State) (slot : Nat) (file : RFile) (n : Nat) (v : PVal) (l : Nat) : (s.land slot file n v l).softMem = s.softMem := rfl
@[simp] theorem State.land_softTables (s : State) (slot : Nat) (file : RFile) (n : Nat) (v : PVal) (l : Nat) : (s.land slot file n v l).softTables = s.softTables := rfl
@[simp] theorem State.land_tiles (s : State) (slot : Nat) (file : RFile) (n : Nat) (v : PVal) (l : Nat) : (s.land slot file n v l).tiles = s.tiles := rfl
@[simp] theorem State.land_ciss (s : State) (slot : Nat) (file : RFile) (n : Nat) (v : PVal) (l : Nat) : (s.land slot file n v l).ciss = s.ciss := rfl
@[simp] theorem State.land_tasks (s : State) (slot : Nat) (file : RFile) (n : Nat) (v : PVal) (l : Nat) : (s.land slot file n v l).tasks = s.tasks := rfl
@[simp] theorem State.land_steps (s : State) (slot : Nat) (file : RFile) (n : Nat) (v : PVal) (l : Nat) : (s.land slot file n v l).steps = s.steps := rfl
@[simp] theorem State.land_nextTask (s : State) (slot : Nat) (file : RFile) (n : Nat) (v : PVal) (l : Nat) : (s.land slot file n v l).nextTask = s.nextTask := rfl
@[simp] theorem State.land_revs (s : State) (slot : Nat) (file : RFile) (n : Nat) (v : PVal) (l : Nat) : (s.land slot file n v l).revs = s.revs := rfl
@[simp] theorem State.land_nextRev (s : State) (slot : Nat) (file : RFile) (n : Nat) (v : PVal) (l : Nat) : (s.land slot file n v l).nextRev = s.nextRev := rfl
@[simp] theorem State.land_framesUsed (s : State) (slot : Nat) (file : RFile) (n : Nat) (v : PVal) (l : Nat) : (s.land slot file n v l).framesUsed = s.framesUsed := rfl
@[simp] theorem State.land_poolUsed (s : State) (slot : Nat) (file : RFile) (n : Nat) (v : PVal) (l : Nat) : (s.land slot file n v l).poolUsed = s.poolUsed := rfl
@[simp] theorem State.land_board (s : State) (slot : Nat) (file : RFile) (n : Nat) (v : PVal) (l : Nat) : (s.land slot file n v l).board = s.board := rfl
@[simp] theorem State.land_stageQ (s : State) (slot : Nat) (file : RFile) (n : Nat) (v : PVal) (l : Nat) : (s.land slot file n v l).stageQ = s.stageQ := rfl
@[simp] theorem State.land_posts (s : State) (slot : Nat) (file : RFile) (n : Nat) (v : PVal) (l : Nat) : (s.land slot file n v l).posts = s.posts := rfl
@[simp] theorem State.land_records (s : State) (slot : Nat) (file : RFile) (n : Nat) (v : PVal) (l : Nat) : (s.land slot file n v l).records = s.records := rfl
@[simp] theorem State.land_forks (s : State) (slot : Nat) (file : RFile) (n : Nat) (v : PVal) (l : Nat) : (s.land slot file n v l).forks = s.forks := rfl
@[simp] theorem State.land_joins (s : State) (slot : Nat) (file : RFile) (n : Nat) (v : PVal) (l : Nat) : (s.land slot file n v l).joins = s.joins := rfl
@[simp] theorem State.land_invs (s : State) (slot : Nat) (file : RFile) (n : Nat) (v : PVal) (l : Nat) : (s.land slot file n v l).invs = s.invs := rfl
@[simp] theorem State.land_contained (s : State) (slot : Nat) (file : RFile) (n : Nat) (v : PVal) (l : Nat) : (s.land slot file n v l).contained = s.contained := rfl
@[simp] theorem State.land_routes (s : State) (slot : Nat) (file : RFile) (n : Nat) (v : PVal) (l : Nat) : (s.land slot file n v l).routes = s.routes := rfl
@[simp] theorem State.land_links (s : State) (slot : Nat) (file : RFile) (n : Nat) (v : PVal) (l : Nat) : (s.land slot file n v l).links = s.links := rfl
@[simp] theorem State.land_mgmt (s : State) (slot : Nat) (file : RFile) (n : Nat) (v : PVal) (l : Nat) : (s.land slot file n v l).mgmt = s.mgmt := rfl

@[simp] theorem State.landPair_sched (s : State) (slot p : Nat) (b : Bool) (l : Nat) : (s.landPair slot p b l).sched = s.sched := rfl
@[simp] theorem State.landPair_arg (s : State) (slot p : Nat) (b : Bool) (l : Nat) : (s.landPair slot p b l).arg = s.arg := rfl
@[simp] theorem State.landPair_cur (s : State) (slot p : Nat) (b : Bool) (l : Nat) : (s.landPair slot p b l).cur = s.cur := rfl
@[simp] theorem State.landPair_freeCount (s : State) (slot p : Nat) (b : Bool) (l : Nat) : (s.landPair slot p b l).freeCount = s.freeCount := rfl
@[simp] theorem State.landPair_mem (s : State) (slot p : Nat) (b : Bool) (l : Nat) : (s.landPair slot p b l).mem = s.mem := rfl
@[simp] theorem State.landPair_badMem (s : State) (slot p : Nat) (b : Bool) (l : Nat) : (s.landPair slot p b l).badMem = s.badMem := rfl
@[simp] theorem State.landPair_softMem (s : State) (slot p : Nat) (b : Bool) (l : Nat) : (s.landPair slot p b l).softMem = s.softMem := rfl
@[simp] theorem State.landPair_softTables (s : State) (slot p : Nat) (b : Bool) (l : Nat) : (s.landPair slot p b l).softTables = s.softTables := rfl
@[simp] theorem State.landPair_tiles (s : State) (slot p : Nat) (b : Bool) (l : Nat) : (s.landPair slot p b l).tiles = s.tiles := rfl
@[simp] theorem State.landPair_ciss (s : State) (slot p : Nat) (b : Bool) (l : Nat) : (s.landPair slot p b l).ciss = s.ciss := rfl
@[simp] theorem State.landPair_tasks (s : State) (slot p : Nat) (b : Bool) (l : Nat) : (s.landPair slot p b l).tasks = s.tasks := rfl
@[simp] theorem State.landPair_steps (s : State) (slot p : Nat) (b : Bool) (l : Nat) : (s.landPair slot p b l).steps = s.steps := rfl
@[simp] theorem State.landPair_nextTask (s : State) (slot p : Nat) (b : Bool) (l : Nat) : (s.landPair slot p b l).nextTask = s.nextTask := rfl
@[simp] theorem State.landPair_revs (s : State) (slot p : Nat) (b : Bool) (l : Nat) : (s.landPair slot p b l).revs = s.revs := rfl
@[simp] theorem State.landPair_nextRev (s : State) (slot p : Nat) (b : Bool) (l : Nat) : (s.landPair slot p b l).nextRev = s.nextRev := rfl
@[simp] theorem State.landPair_framesUsed (s : State) (slot p : Nat) (b : Bool) (l : Nat) : (s.landPair slot p b l).framesUsed = s.framesUsed := rfl
@[simp] theorem State.landPair_poolUsed (s : State) (slot p : Nat) (b : Bool) (l : Nat) : (s.landPair slot p b l).poolUsed = s.poolUsed := rfl
@[simp] theorem State.landPair_board (s : State) (slot p : Nat) (b : Bool) (l : Nat) : (s.landPair slot p b l).board = s.board := rfl
@[simp] theorem State.landPair_stageQ (s : State) (slot p : Nat) (b : Bool) (l : Nat) : (s.landPair slot p b l).stageQ = s.stageQ := rfl
@[simp] theorem State.landPair_posts (s : State) (slot p : Nat) (b : Bool) (l : Nat) : (s.landPair slot p b l).posts = s.posts := rfl
@[simp] theorem State.landPair_records (s : State) (slot p : Nat) (b : Bool) (l : Nat) : (s.landPair slot p b l).records = s.records := rfl
@[simp] theorem State.landPair_forks (s : State) (slot p : Nat) (b : Bool) (l : Nat) : (s.landPair slot p b l).forks = s.forks := rfl
@[simp] theorem State.landPair_joins (s : State) (slot p : Nat) (b : Bool) (l : Nat) : (s.landPair slot p b l).joins = s.joins := rfl
@[simp] theorem State.landPair_invs (s : State) (slot p : Nat) (b : Bool) (l : Nat) : (s.landPair slot p b l).invs = s.invs := rfl
@[simp] theorem State.landPair_contained (s : State) (slot p : Nat) (b : Bool) (l : Nat) : (s.landPair slot p b l).contained = s.contained := rfl
@[simp] theorem State.landPair_routes (s : State) (slot p : Nat) (b : Bool) (l : Nat) : (s.landPair slot p b l).routes = s.routes := rfl
@[simp] theorem State.landPair_links (s : State) (slot p : Nat) (b : Bool) (l : Nat) : (s.landPair slot p b l).links = s.links := rfl
@[simp] theorem State.landPair_mgmt (s : State) (slot p : Nat) (b : Bool) (l : Nat) : (s.landPair slot p b l).mgmt = s.mgmt := rfl

@[simp] theorem State.gateAdd_sched (s : State) (e : GateEff) : (s.gateAdd e).sched = s.sched := rfl
@[simp] theorem State.gateAdd_arg (s : State) (e : GateEff) : (s.gateAdd e).arg = s.arg := rfl
@[simp] theorem State.gateAdd_cur (s : State) (e : GateEff) : (s.gateAdd e).cur = s.cur := rfl
@[simp] theorem State.gateAdd_freeCount (s : State) (e : GateEff) : (s.gateAdd e).freeCount = s.freeCount := rfl
@[simp] theorem State.gateAdd_mem (s : State) (e : GateEff) : (s.gateAdd e).mem = s.mem := rfl
@[simp] theorem State.gateAdd_badMem (s : State) (e : GateEff) : (s.gateAdd e).badMem = s.badMem := rfl
@[simp] theorem State.gateAdd_softMem (s : State) (e : GateEff) : (s.gateAdd e).softMem = s.softMem := rfl
@[simp] theorem State.gateAdd_softTables (s : State) (e : GateEff) : (s.gateAdd e).softTables = s.softTables := rfl
@[simp] theorem State.gateAdd_tiles (s : State) (e : GateEff) : (s.gateAdd e).tiles = s.tiles := rfl
@[simp] theorem State.gateAdd_ciss (s : State) (e : GateEff) : (s.gateAdd e).ciss = s.ciss := rfl
@[simp] theorem State.gateAdd_tasks (s : State) (e : GateEff) : (s.gateAdd e).tasks = s.tasks := rfl
@[simp] theorem State.gateAdd_steps (s : State) (e : GateEff) : (s.gateAdd e).steps = s.steps := rfl
@[simp] theorem State.gateAdd_nextTask (s : State) (e : GateEff) : (s.gateAdd e).nextTask = s.nextTask := rfl
@[simp] theorem State.gateAdd_revs (s : State) (e : GateEff) : (s.gateAdd e).revs = s.revs := rfl
@[simp] theorem State.gateAdd_nextRev (s : State) (e : GateEff) : (s.gateAdd e).nextRev = s.nextRev := rfl
@[simp] theorem State.gateAdd_framesUsed (s : State) (e : GateEff) : (s.gateAdd e).framesUsed = s.framesUsed := rfl
@[simp] theorem State.gateAdd_poolUsed (s : State) (e : GateEff) : (s.gateAdd e).poolUsed = s.poolUsed := rfl
@[simp] theorem State.gateAdd_board (s : State) (e : GateEff) : (s.gateAdd e).board = s.board := rfl
@[simp] theorem State.gateAdd_stageQ (s : State) (e : GateEff) : (s.gateAdd e).stageQ = s.stageQ := rfl
@[simp] theorem State.gateAdd_posts (s : State) (e : GateEff) : (s.gateAdd e).posts = s.posts := rfl
@[simp] theorem State.gateAdd_records (s : State) (e : GateEff) : (s.gateAdd e).records = s.records := rfl
@[simp] theorem State.gateAdd_forks (s : State) (e : GateEff) : (s.gateAdd e).forks = s.forks := rfl
@[simp] theorem State.gateAdd_joins (s : State) (e : GateEff) : (s.gateAdd e).joins = s.joins := rfl
@[simp] theorem State.gateAdd_invs (s : State) (e : GateEff) : (s.gateAdd e).invs = s.invs := rfl
@[simp] theorem State.gateAdd_contained (s : State) (e : GateEff) : (s.gateAdd e).contained = s.contained := rfl
@[simp] theorem State.gateAdd_routes (s : State) (e : GateEff) : (s.gateAdd e).routes = s.routes := rfl
@[simp] theorem State.gateAdd_links (s : State) (e : GateEff) : (s.gateAdd e).links = s.links := rfl
@[simp] theorem State.gateAdd_mgmt (s : State) (e : GateEff) : (s.gateAdd e).mgmt = s.mgmt := rfl

@[simp] theorem State.holdAdd_sched (s : State) (k : ArrKind) (p : Nat) : (s.holdAdd k p).sched = s.sched := rfl
@[simp] theorem State.holdAdd_arg (s : State) (k : ArrKind) (p : Nat) : (s.holdAdd k p).arg = s.arg := rfl
@[simp] theorem State.holdAdd_cur (s : State) (k : ArrKind) (p : Nat) : (s.holdAdd k p).cur = s.cur := rfl
@[simp] theorem State.holdAdd_freeCount (s : State) (k : ArrKind) (p : Nat) : (s.holdAdd k p).freeCount = s.freeCount := rfl
@[simp] theorem State.holdAdd_mem (s : State) (k : ArrKind) (p : Nat) : (s.holdAdd k p).mem = s.mem := rfl
@[simp] theorem State.holdAdd_badMem (s : State) (k : ArrKind) (p : Nat) : (s.holdAdd k p).badMem = s.badMem := rfl
@[simp] theorem State.holdAdd_softMem (s : State) (k : ArrKind) (p : Nat) : (s.holdAdd k p).softMem = s.softMem := rfl
@[simp] theorem State.holdAdd_softTables (s : State) (k : ArrKind) (p : Nat) : (s.holdAdd k p).softTables = s.softTables := rfl
@[simp] theorem State.holdAdd_tiles (s : State) (k : ArrKind) (p : Nat) : (s.holdAdd k p).tiles = s.tiles := rfl
@[simp] theorem State.holdAdd_ciss (s : State) (k : ArrKind) (p : Nat) : (s.holdAdd k p).ciss = s.ciss := rfl
@[simp] theorem State.holdAdd_tasks (s : State) (k : ArrKind) (p : Nat) : (s.holdAdd k p).tasks = s.tasks := rfl
@[simp] theorem State.holdAdd_steps (s : State) (k : ArrKind) (p : Nat) : (s.holdAdd k p).steps = s.steps := rfl
@[simp] theorem State.holdAdd_nextTask (s : State) (k : ArrKind) (p : Nat) : (s.holdAdd k p).nextTask = s.nextTask := rfl
@[simp] theorem State.holdAdd_revs (s : State) (k : ArrKind) (p : Nat) : (s.holdAdd k p).revs = s.revs := rfl
@[simp] theorem State.holdAdd_nextRev (s : State) (k : ArrKind) (p : Nat) : (s.holdAdd k p).nextRev = s.nextRev := rfl
@[simp] theorem State.holdAdd_framesUsed (s : State) (k : ArrKind) (p : Nat) : (s.holdAdd k p).framesUsed = s.framesUsed := rfl
@[simp] theorem State.holdAdd_poolUsed (s : State) (k : ArrKind) (p : Nat) : (s.holdAdd k p).poolUsed = s.poolUsed := rfl
@[simp] theorem State.holdAdd_board (s : State) (k : ArrKind) (p : Nat) : (s.holdAdd k p).board = s.board := rfl
@[simp] theorem State.holdAdd_stageQ (s : State) (k : ArrKind) (p : Nat) : (s.holdAdd k p).stageQ = s.stageQ := rfl
@[simp] theorem State.holdAdd_posts (s : State) (k : ArrKind) (p : Nat) : (s.holdAdd k p).posts = s.posts := rfl
@[simp] theorem State.holdAdd_records (s : State) (k : ArrKind) (p : Nat) : (s.holdAdd k p).records = s.records := rfl
@[simp] theorem State.holdAdd_forks (s : State) (k : ArrKind) (p : Nat) : (s.holdAdd k p).forks = s.forks := rfl
@[simp] theorem State.holdAdd_joins (s : State) (k : ArrKind) (p : Nat) : (s.holdAdd k p).joins = s.joins := rfl
@[simp] theorem State.holdAdd_invs (s : State) (k : ArrKind) (p : Nat) : (s.holdAdd k p).invs = s.invs := rfl
@[simp] theorem State.holdAdd_contained (s : State) (k : ArrKind) (p : Nat) : (s.holdAdd k p).contained = s.contained := rfl
@[simp] theorem State.holdAdd_routes (s : State) (k : ArrKind) (p : Nat) : (s.holdAdd k p).routes = s.routes := rfl
@[simp] theorem State.holdAdd_links (s : State) (k : ArrKind) (p : Nat) : (s.holdAdd k p).links = s.links := rfl
@[simp] theorem State.holdAdd_mgmt (s : State) (k : ArrKind) (p : Nat) : (s.holdAdd k p).mgmt = s.mgmt := rfl

@[simp] theorem State.stallNow_sched (s : State) : (s.stallNow).sched = s.sched := rfl
@[simp] theorem State.stallNow_arg (s : State) : (s.stallNow).arg = s.arg := rfl
@[simp] theorem State.stallNow_cur (s : State) : (s.stallNow).cur = s.cur := rfl
@[simp] theorem State.stallNow_freeCount (s : State) : (s.stallNow).freeCount = s.freeCount := rfl
@[simp] theorem State.stallNow_mem (s : State) : (s.stallNow).mem = s.mem := rfl
@[simp] theorem State.stallNow_badMem (s : State) : (s.stallNow).badMem = s.badMem := rfl
@[simp] theorem State.stallNow_softMem (s : State) : (s.stallNow).softMem = s.softMem := rfl
@[simp] theorem State.stallNow_softTables (s : State) : (s.stallNow).softTables = s.softTables := rfl
@[simp] theorem State.stallNow_tiles (s : State) : (s.stallNow).tiles = s.tiles := rfl
@[simp] theorem State.stallNow_ciss (s : State) : (s.stallNow).ciss = s.ciss := rfl
@[simp] theorem State.stallNow_tasks (s : State) : (s.stallNow).tasks = s.tasks := rfl
@[simp] theorem State.stallNow_steps (s : State) : (s.stallNow).steps = s.steps := rfl
@[simp] theorem State.stallNow_nextTask (s : State) : (s.stallNow).nextTask = s.nextTask := rfl
@[simp] theorem State.stallNow_revs (s : State) : (s.stallNow).revs = s.revs := rfl
@[simp] theorem State.stallNow_nextRev (s : State) : (s.stallNow).nextRev = s.nextRev := rfl
@[simp] theorem State.stallNow_framesUsed (s : State) : (s.stallNow).framesUsed = s.framesUsed := rfl
@[simp] theorem State.stallNow_poolUsed (s : State) : (s.stallNow).poolUsed = s.poolUsed := rfl
@[simp] theorem State.stallNow_board (s : State) : (s.stallNow).board = s.board := rfl
@[simp] theorem State.stallNow_stageQ (s : State) : (s.stallNow).stageQ = s.stageQ := rfl
@[simp] theorem State.stallNow_posts (s : State) : (s.stallNow).posts = s.posts := rfl
@[simp] theorem State.stallNow_records (s : State) : (s.stallNow).records = s.records := rfl
@[simp] theorem State.stallNow_forks (s : State) : (s.stallNow).forks = s.forks := rfl
@[simp] theorem State.stallNow_joins (s : State) : (s.stallNow).joins = s.joins := rfl
@[simp] theorem State.stallNow_invs (s : State) : (s.stallNow).invs = s.invs := rfl
@[simp] theorem State.stallNow_contained (s : State) : (s.stallNow).contained = s.contained := rfl
@[simp] theorem State.stallNow_routes (s : State) : (s.stallNow).routes = s.routes := rfl
@[simp] theorem State.stallNow_links (s : State) : (s.stallNow).links = s.links := rfl
@[simp] theorem State.stallNow_mgmt (s : State) : (s.stallNow).mgmt = s.mgmt := rfl

@[simp] theorem State.transfer_sched (s : State) (t : Nat) : (s.transfer t).sched = s.sched := rfl
@[simp] theorem State.transfer_arg (s : State) (t : Nat) : (s.transfer t).arg = s.arg := rfl
@[simp] theorem State.transfer_cur (s : State) (t : Nat) : (s.transfer t).cur = s.cur := rfl
@[simp] theorem State.transfer_freeCount (s : State) (t : Nat) : (s.transfer t).freeCount = s.freeCount := rfl
@[simp] theorem State.transfer_mem (s : State) (t : Nat) : (s.transfer t).mem = s.mem := rfl
@[simp] theorem State.transfer_badMem (s : State) (t : Nat) : (s.transfer t).badMem = s.badMem := rfl
@[simp] theorem State.transfer_softMem (s : State) (t : Nat) : (s.transfer t).softMem = s.softMem := rfl
@[simp] theorem State.transfer_softTables (s : State) (t : Nat) : (s.transfer t).softTables = s.softTables := rfl
@[simp] theorem State.transfer_tiles (s : State) (t : Nat) : (s.transfer t).tiles = s.tiles := rfl
@[simp] theorem State.transfer_ciss (s : State) (t : Nat) : (s.transfer t).ciss = s.ciss := rfl
@[simp] theorem State.transfer_tasks (s : State) (t : Nat) : (s.transfer t).tasks = s.tasks := rfl
@[simp] theorem State.transfer_steps (s : State) (t : Nat) : (s.transfer t).steps = s.steps := rfl
@[simp] theorem State.transfer_nextTask (s : State) (t : Nat) : (s.transfer t).nextTask = s.nextTask := rfl
@[simp] theorem State.transfer_revs (s : State) (t : Nat) : (s.transfer t).revs = s.revs := rfl
@[simp] theorem State.transfer_nextRev (s : State) (t : Nat) : (s.transfer t).nextRev = s.nextRev := rfl
@[simp] theorem State.transfer_framesUsed (s : State) (t : Nat) : (s.transfer t).framesUsed = s.framesUsed := rfl
@[simp] theorem State.transfer_poolUsed (s : State) (t : Nat) : (s.transfer t).poolUsed = s.poolUsed := rfl
@[simp] theorem State.transfer_board (s : State) (t : Nat) : (s.transfer t).board = s.board := rfl
@[simp] theorem State.transfer_stageQ (s : State) (t : Nat) : (s.transfer t).stageQ = s.stageQ := rfl
@[simp] theorem State.transfer_posts (s : State) (t : Nat) : (s.transfer t).posts = s.posts := rfl
@[simp] theorem State.transfer_records (s : State) (t : Nat) : (s.transfer t).records = s.records := rfl
@[simp] theorem State.transfer_forks (s : State) (t : Nat) : (s.transfer t).forks = s.forks := rfl
@[simp] theorem State.transfer_joins (s : State) (t : Nat) : (s.transfer t).joins = s.joins := rfl
@[simp] theorem State.transfer_invs (s : State) (t : Nat) : (s.transfer t).invs = s.invs := rfl
@[simp] theorem State.transfer_contained (s : State) (t : Nat) : (s.transfer t).contained = s.contained := rfl
@[simp] theorem State.transfer_routes (s : State) (t : Nat) : (s.transfer t).routes = s.routes := rfl
@[simp] theorem State.transfer_links (s : State) (t : Nat) : (s.transfer t).links = s.links := rfl
@[simp] theorem State.transfer_mgmt (s : State) (t : Nat) : (s.transfer t).mgmt = s.mgmt := rfl

@[simp] theorem State.correctTables_arg (s : State) : s.correctTables.arg = s.arg := by
  unfold State.correctTables; split <;> rfl
@[simp] theorem State.correctTables_cur (s : State) : s.correctTables.cur = s.cur := by
  unfold State.correctTables; split <;> rfl
@[simp] theorem State.correctTables_sched (s : State) : s.correctTables.sched = s.sched := by
  unfold State.correctTables; split <;> rfl
@[simp] theorem State.correctTables_freeCount (s : State) : s.correctTables.freeCount = s.freeCount := by
  unfold State.correctTables; split <;> rfl
@[simp] theorem State.correctTables_mem (s : State) : s.correctTables.mem = s.mem := by
  unfold State.correctTables; split <;> rfl
@[simp] theorem State.correctTables_badMem (s : State) : s.correctTables.badMem = s.badMem := by
  unfold State.correctTables; split <;> rfl
@[simp] theorem State.correctTables_softMem (s : State) : s.correctTables.softMem = s.softMem := by
  unfold State.correctTables; split <;> rfl
@[simp] theorem State.correctTables_ctxs (s : State) : s.correctTables.ctxs = s.ctxs := by
  unfold State.correctTables; split <;> rfl
@[simp] theorem State.correctTables_tiles (s : State) : s.correctTables.tiles = s.tiles := by
  unfold State.correctTables; split <;> rfl
@[simp] theorem State.correctTables_ciss (s : State) : s.correctTables.ciss = s.ciss := by
  unfold State.correctTables; split <;> rfl
@[simp] theorem State.correctTables_tasks (s : State) : s.correctTables.tasks = s.tasks := by
  unfold State.correctTables; split <;> rfl
@[simp] theorem State.correctTables_steps (s : State) : s.correctTables.steps = s.steps := by
  unfold State.correctTables; split <;> rfl
@[simp] theorem State.correctTables_nextTask (s : State) : s.correctTables.nextTask = s.nextTask := by
  unfold State.correctTables; split <;> rfl
@[simp] theorem State.correctTables_revs (s : State) : s.correctTables.revs = s.revs := by
  unfold State.correctTables; split <;> rfl
@[simp] theorem State.correctTables_nextRev (s : State) : s.correctTables.nextRev = s.nextRev := by
  unfold State.correctTables; split <;> rfl
@[simp] theorem State.correctTables_framesUsed (s : State) : s.correctTables.framesUsed = s.framesUsed := by
  unfold State.correctTables; split <;> rfl
@[simp] theorem State.correctTables_poolUsed (s : State) : s.correctTables.poolUsed = s.poolUsed := by
  unfold State.correctTables; split <;> rfl
@[simp] theorem State.correctTables_board (s : State) : s.correctTables.board = s.board := by
  unfold State.correctTables; split <;> rfl
@[simp] theorem State.correctTables_stageQ (s : State) : s.correctTables.stageQ = s.stageQ := by
  unfold State.correctTables; split <;> rfl
@[simp] theorem State.correctTables_posts (s : State) : s.correctTables.posts = s.posts := by
  unfold State.correctTables; split <;> rfl
@[simp] theorem State.correctTables_records (s : State) : s.correctTables.records = s.records := by
  unfold State.correctTables; split <;> rfl
@[simp] theorem State.correctTables_forks (s : State) : s.correctTables.forks = s.forks := by
  unfold State.correctTables; split <;> rfl
@[simp] theorem State.correctTables_joins (s : State) : s.correctTables.joins = s.joins := by
  unfold State.correctTables; split <;> rfl
@[simp] theorem State.correctTables_invs (s : State) : s.correctTables.invs = s.invs := by
  unfold State.correctTables; split <;> rfl
@[simp] theorem State.correctTables_contained (s : State) : s.correctTables.contained = s.contained := by
  unfold State.correctTables; split <;> rfl
@[simp] theorem State.correctTables_routes (s : State) : s.correctTables.routes = s.routes := by
  unfold State.correctTables; split <;> rfl
@[simp] theorem State.correctTables_links (s : State) : s.correctTables.links = s.links := by
  unfold State.correctTables; split <;> rfl
@[simp] theorem State.correctTables_softTables (s : State) : s.correctTables.softTables = [] := by
  unfold State.correctTables; split <;> simp_all
/-- With no single-bit error in the tables nothing is corrected. -/
@[simp] theorem State.correctTables_of_nil (s : State) (h : s.softTables = []) : s.correctTables = s := by
  simp [State.correctTables, h]

@[simp] theorem State.atTurn_arg (s : State) (t : Turn) : (s.atTurn t).arg = t.arg := rfl
@[simp] theorem State.atTurn_cur (s : State) (t : Turn) : (s.atTurn t).cur = t.arg.c := rfl
@[simp] theorem State.atTurn_sched (s : State) (t : Turn) : (s.atTurn t).sched = s.sched := by
  unfold State.atTurn; split <;> simp
@[simp] theorem State.atTurn_freeCount (s : State) (t : Turn) : (s.atTurn t).freeCount = s.freeCount := by
  unfold State.atTurn; split <;> simp
@[simp] theorem State.atTurn_mem (s : State) (t : Turn) : (s.atTurn t).mem = s.mem := by
  unfold State.atTurn; split <;> simp
@[simp] theorem State.atTurn_badMem (s : State) (t : Turn) : (s.atTurn t).badMem = s.badMem := by
  unfold State.atTurn; split <;> simp
@[simp] theorem State.atTurn_softMem (s : State) (t : Turn) : (s.atTurn t).softMem = s.softMem := by
  unfold State.atTurn; split <;> simp
@[simp] theorem State.atTurn_ctxs (s : State) (t : Turn) : (s.atTurn t).ctxs = s.ctxs := by
  unfold State.atTurn; split <;> simp
@[simp] theorem State.atTurn_tiles (s : State) (t : Turn) : (s.atTurn t).tiles = s.tiles := by
  unfold State.atTurn; split <;> simp
@[simp] theorem State.atTurn_ciss (s : State) (t : Turn) : (s.atTurn t).ciss = s.ciss := by
  unfold State.atTurn; split <;> simp
@[simp] theorem State.atTurn_tasks (s : State) (t : Turn) : (s.atTurn t).tasks = s.tasks := by
  unfold State.atTurn; split <;> simp
@[simp] theorem State.atTurn_steps (s : State) (t : Turn) : (s.atTurn t).steps = s.steps := by
  unfold State.atTurn; split <;> simp
@[simp] theorem State.atTurn_nextTask (s : State) (t : Turn) : (s.atTurn t).nextTask = s.nextTask := by
  unfold State.atTurn; split <;> simp
@[simp] theorem State.atTurn_revs (s : State) (t : Turn) : (s.atTurn t).revs = s.revs := by
  unfold State.atTurn; split <;> simp
@[simp] theorem State.atTurn_nextRev (s : State) (t : Turn) : (s.atTurn t).nextRev = s.nextRev := by
  unfold State.atTurn; split <;> simp
@[simp] theorem State.atTurn_framesUsed (s : State) (t : Turn) : (s.atTurn t).framesUsed = s.framesUsed := by
  unfold State.atTurn; split <;> simp
@[simp] theorem State.atTurn_poolUsed (s : State) (t : Turn) : (s.atTurn t).poolUsed = s.poolUsed := by
  unfold State.atTurn; split <;> simp
@[simp] theorem State.atTurn_board (s : State) (t : Turn) : (s.atTurn t).board = s.board := by
  unfold State.atTurn; split <;> simp
@[simp] theorem State.atTurn_stageQ (s : State) (t : Turn) : (s.atTurn t).stageQ = s.stageQ := by
  unfold State.atTurn; split <;> simp
@[simp] theorem State.atTurn_posts (s : State) (t : Turn) : (s.atTurn t).posts = s.posts := by
  unfold State.atTurn; split <;> simp
@[simp] theorem State.atTurn_records (s : State) (t : Turn) : (s.atTurn t).records = s.records := by
  unfold State.atTurn; split <;> simp
@[simp] theorem State.atTurn_forks (s : State) (t : Turn) : (s.atTurn t).forks = s.forks := by
  unfold State.atTurn; split <;> simp
@[simp] theorem State.atTurn_joins (s : State) (t : Turn) : (s.atTurn t).joins = s.joins := by
  unfold State.atTurn; split <;> simp
@[simp] theorem State.atTurn_invs (s : State) (t : Turn) : (s.atTurn t).invs = s.invs := by
  unfold State.atTurn; split <;> simp
@[simp] theorem State.atTurn_contained (s : State) (t : Turn) : (s.atTurn t).contained = s.contained := by
  unfold State.atTurn; split <;> simp
@[simp] theorem State.atTurn_routes (s : State) (t : Turn) : (s.atTurn t).routes = s.routes := by
  unfold State.atTurn; split <;> simp
@[simp] theorem State.atTurn_links (s : State) (t : Turn) : (s.atTurn t).links = s.links := by
  unfold State.atTurn; split <;> simp

/-! ### Contexts, tiles, cisterns -/

theorem State.ctx_setCtx_same (s : State) (c : Nat) (x : Ctx) : (s.setCtx c x).ctx c = x := vget_vput_same _ _ _

theorem State.ctx_setCtx_other (s : State) (c d : Nat) (x : Ctx) (h : c % 384 ≠ d % 384) :
    (s.setCtx c x).ctx d = s.ctx d := vget_vput_other _ _ _ _ h

@[simp] theorem State.ctx_updCtx_same (s : State) (c : Nat) (f : Ctx → Ctx) : (s.updCtx c f).ctx c = f (s.ctx c) :=
  s.ctx_setCtx_same c _

theorem State.ctx_updCtx_other (s : State) (c d : Nat) (f : Ctx → Ctx) (h : c % 384 ≠ d % 384) :
    (s.updCtx c f).ctx d = s.ctx d := s.ctx_setCtx_other c d _ h

@[simp] theorem State.me_updMe (s : State) (f : Ctx → Ctx) : (s.updMe f).me = f s.me := s.ctx_updCtx_same s.cur f

@[simp] theorem State.me_updArch (s : State) (f : Arch → Arch) : (s.updArch f).me = { s.me with a := f s.me.a } :=
  s.me_updMe _

@[simp] theorem State.ctx_updTile (s : State) (t c : Nat) (f : Tile → Tile) : (s.updTile t f).ctx c = s.ctx c := rfl
@[simp] theorem State.me_updTile (s : State) (t : Nat) (f : Tile → Tile) : (s.updTile t f).me = s.me := rfl
@[simp] theorem State.ctx_updCis (s : State) (k c : Nat) (f : Cistern → Cistern) : (s.updCis k f).ctx c = s.ctx c := rfl
@[simp] theorem State.me_updCis (s : State) (k : Nat) (f : Cistern → Cistern) : (s.updCis k f).me = s.me := rfl
@[simp] theorem State.ctx_updTask (s : State) (n c : Nat) (f : Task → Task) : (s.updTask n f).ctx c = s.ctx c := rfl
@[simp] theorem State.me_updTask (s : State) (n : Nat) (f : Task → Task) : (s.updTask n f).me = s.me := rfl
@[simp] theorem State.ctx_updStep (s : State) (n k c : Nat) (f : Step → Step) : (s.updStep n k f).ctx c = s.ctx c := rfl
@[simp] theorem State.me_updStep (s : State) (n k : Nat) (f : Step → Step) : (s.updStep n k f).me = s.me := rfl
@[simp] theorem State.ctx_offer (s : State) (r : FRec) (c : Nat) : (s.offer r).ctx c = s.ctx c := rfl
@[simp] theorem State.me_offer (s : State) (r : FRec) : (s.offer r).me = s.me := rfl

@[simp] theorem State.tile_updTile_same (s : State) (t : Nat) (f : Tile → Tile) : (s.updTile t f).tile t = f (s.tile t) :=
  vget_vput_same _ _ _

@[simp] theorem State.cis_updCis_same (s : State) (k : Nat) (f : Cistern → Cistern) : (s.updCis k f).cis k = f (s.cis k) :=
  vget_vput_same _ _ _

@[simp] theorem State.tile_updCtx (s : State) (c t : Nat) (f : Ctx → Ctx) : (s.updCtx c f).tile t = s.tile t := rfl
@[simp] theorem State.tile_updMe (s : State) (t : Nat) (f : Ctx → Ctx) : (s.updMe f).tile t = s.tile t := rfl
@[simp] theorem State.cis_updCtx (s : State) (c k : Nat) (f : Ctx → Ctx) : (s.updCtx c f).cis k = s.cis k := rfl
@[simp] theorem State.cis_updMe (s : State) (k : Nat) (f : Ctx → Ctx) : (s.updMe f).cis k = s.cis k := rfl

/-- A tile whose clock cycle a context closes has nobody left to serve in it. -/
@[simp] theorem State.tile_closeTurn (s : State) (c : Nat) :
    (s.closeTurn c true).tile (tileOf c) = { s.tile (tileOf c) with used := 0, second := none, strBusy := false } := by
  rw [State.closeTurn, if_pos rfl, State.tile_updTile_same]

@[simp] theorem State.closeTurn_false (s : State) (c : Nat) : s.closeTurn c false = s := rfl

@[simp] theorem State.ctx_closeTurn (s : State) (c d : Nat) (last : Bool) : (s.closeTurn c last).ctx d = s.ctx d := by
  cases last <;> rfl

@[simp] theorem State.mem_closeTurn (s : State) (c : Nat) (last : Bool) : (s.closeTurn c last).mem = s.mem := by
  cases last <;> rfl

@[simp] theorem Ctx.keepBundle_a (x : Ctx) (bs : List Byte) : (x.keepBundle bs).a = x.a := rfl
@[simp] theorem Ctx.keepBundle_pc (x : Ctx) (bs : List Byte) : (x.keepBundle bs).pc = x.pc := rfl
@[simp] theorem Ctx.keepBundle_fetched (x : Ctx) (bs : List Byte) : (x.keepBundle bs).fetched = some bs := rfl

/-- The context after a result is put on its way. -/
theorem State.me_landP (s : State) (p : Pend) : (s.landP p).me =
    { s.me with a := s.me.a.addPend { p with seq := s.me.opSeq, pc := s.me.pc }, opSeq := s.me.opSeq + 1 } :=
  s.me_updMe _

/-- The context after an effect is gated. -/
theorem State.me_gateAdd (s : State) (e : GateEff) :
    (s.gateAdd e).me = { s.me with gate := s.me.gate ++ [e], opSeq := s.me.opSeq + 1 } := s.me_updMe _

/-- The context after an array operation is held. -/
theorem State.me_holdAdd (s : State) (k : ArrKind) (path : Nat) : (s.holdAdd k path).me = { s.me with
    hold := s.me.hold ++ [{ kind := k, seq := s.me.opSeq, pc := s.me.pc, fences := s.me.a.fencesFor path }]
    opSeq := s.me.opSeq + 1 } := s.me_updMe _

end Sys2Proof.Machine
end

