-- ==== Sys2Proof/Laws/Ops.lean ====
section
/-! SUPPORT. What the shared operations can do: running under a guard, putting results on their way, the gate and commit,
rollback, traps and kills. Each says once what its operation leaves and what it changes. -/

namespace Sys2Proof.Machine

/-! ### Running under a guard (R38, R51) -/

theorem run_true {g : Nat} {s : State} {f : State → State} (h : s.me.a.rP g = true) : run g s f = .next (f s) := by
  simp [run, h]

theorem run_false {g : Nat} {s : State} {f : State → State} (h : s.me.a.rP g = false) : run g s f = .next s := by
  simp [run, h]

theorem tryRun_false {g : Nat} {s : State} {f : State → Except Trap State} (h : s.me.a.rP g = false) :
    tryRun g s f = .next s := by simp [tryRun, h]

theorem tryRun_ok {g : Nat} {s t : State} {f : State → Except Trap State} (h : s.me.a.rP g = true) (hf : f s = .ok t) :
    tryRun g s f = .next t := by simp [tryRun, h, hf]

theorem tryRun_error {g : Nat} {s : State} {e : Trap} {f : State → Except Trap State} (h : s.me.a.rP g = true)
    (hf : f s = .error e) : tryRun g s f = .next (takeTrap e s) := by simp [tryRun, h, hf]

/-- An act that may trap has one of three outcomes. -/
theorem tryRun_cases (g : Nat) (s : State) (f : State → Except Trap State) :
    tryRun g s f = .next s ∨ (∃ t, f s = .ok t ∧ tryRun g s f = .next t) ∨
      ∃ e, f s = .error e ∧ tryRun g s f = .next (takeTrap e s) := by
  unfold tryRun
  split
  · split
    · exact .inr (.inl ⟨_, ‹_›, rfl⟩)
    · exact .inr (.inr ⟨_, ‹_›, rfl⟩)
  · exact .inl rfl

theorem waitRun_false {g : Nat} {s : State} {r : State → Bool} {f : State → Except Trap State}
    (h : s.me.a.rP g = false) : waitRun g s r f = .next s := by simp [waitRun, h]

theorem waitRun_wait {g : Nat} {s : State} {r : State → Bool} {f : State → Except Trap State}
    (h : s.me.a.rP g = true) (hr : r s = false) : waitRun g s r f = .next s.stallNow := by simp [waitRun, h, hr]

theorem waitRun_ok {g : Nat} {s t : State} {r : State → Bool} {f : State → Except Trap State}
    (h : s.me.a.rP g = true) (hr : r s = true) (hf : f s = .ok t) : waitRun g s r f = .next t := by
  simp [waitRun, h, hr, hf]

theorem waitRun_error {g : Nat} {s : State} {e : Trap} {r : State → Bool} {f : State → Except Trap State}
    (h : s.me.a.rP g = true) (hr : r s = true) (hf : f s = .error e) : waitRun g s r f = .next (takeTrap e s) := by
  simp [waitRun, h, hr, hf]

/-- An act with a wait before it has one of four outcomes. -/
theorem waitRun_cases (g : Nat) (s : State) (r : State → Bool) (f : State → Except Trap State) :
    waitRun g s r f = .next s ∨ waitRun g s r f = .next s.stallNow ∨ (∃ t, f s = .ok t ∧ waitRun g s r f = .next t) ∨
      ∃ e, f s = .error e ∧ waitRun g s r f = .next (takeTrap e s) := by
  unfold waitRun
  split
  · split
    · split
      · exact .inr (.inr (.inl ⟨_, ‹_›, rfl⟩))
      · exact .inr (.inr (.inr ⟨_, ‹_›, rfl⟩))
    · exact .inr (.inl rfl)
  · exact .inl rfl

/-! ### Results on their way (R49) -/

/-- Only the present context changes when a result is put on its way. -/
theorem State.ctx_landP_other (s : State) (p : Pend) (c : Nat) (h : s.cur % 384 ≠ c % 384) :
    (s.landP p).ctx c = s.ctx c := s.ctx_updCtx_other _ _ _ h

/-- A write to s0 or a0 is discarded; every other joins the pending list. -/
theorem Arch.addPend_cases (x : Arch) (p : Pend) :
    (x.addPend p = x ∧ (p.file = .s ∨ p.file = .a) ∧ p.reg % 32 = 0) ∨ x.addPend p = { x with pend := x.pend ++ [p] } := by
  unfold Arch.addPend
  split
  · rename_i h
    refine .inl ⟨rfl, ?_⟩
    simpa using h
  · exact .inr rfl

theorem State.me_land (s : State) (slot : Nat) (file : RFile) (n : Nat) (v : PVal) (l : Nat) :
    (s.land slot file n v l).me = { s.me with
      a := s.me.a.addPend { file := file, reg := n, val := v, left := l, slot := slot, seq := s.me.opSeq, pc := s.me.pc }
      opSeq := s.me.opSeq + 1 } := s.me_landP _

/-- A landing touches no register but its own. -/
theorem Arch.put_s_other (x : Arch) (n m : Nat) (y : Word) (h : n % 32 ≠ m % 32) :
    (x.put .s n (.word y)).rS m = x.rS m := by
  simp only [Arch.put]
  split
  · rfl
  · simp only [Arch.rS]
    split
    · rfl
    · exact vget_vput_other _ _ _ _ h

theorem Arch.put_s_same (x : Arch) (n : Nat) (y : Word) (h : n % 32 ≠ 0) : (x.put .s n (.word y)).rS n = y := by
  simp [Arch.put, Arch.rS, h, vget_vput_same]

/-- The registers that read as constants read so whatever lands. -/
theorem Arch.put_fixed (x : Arch) (f : RFile) (n : Nat) (v : PVal) :
    (x.put f n v).rS 0 = 0 ∧ (x.put f n v).rA 0 = 0 ∧ (x.put f n v).rP 0 = true ∧ (x.put f n v).rP 1 = false ∧
      (x.put f n v).rM 0 = BitVec.allOnes 128 := by
  simp [Arch.rS, Arch.rA, Arch.rP, Arch.rM]

/-! ### Gate, commit, mark (R50, R142) -/

/-- A fold that keeps memory at each element keeps it. -/
theorem foldl_mem {α : Type} {f : State → α → State} (hf : ∀ s x, (f s x).mem = s.mem) : ∀ (l : List α) (s : State),
    (l.foldl f s).mem = s.mem
  | [], _ => rfl
  | x :: l, s => by rw [List.foldl_cons, foldl_mem hf l, hf]

/-- Putting a post on its way changes only the posts. -/
theorem State.addPost_posts (s : State) (c : Nat) (q : PostEff) : ∃ l, s.addPost c q = { s with posts := l } := by
  unfold State.addPost
  split
  · split
    · exact ⟨_, rfl⟩
    · exact ⟨_, rfl⟩
  · exact ⟨_, rfl⟩

@[simp] theorem State.addPost_mem (s : State) (c : Nat) (q : PostEff) : (s.addPost c q).mem = s.mem := by
  obtain ⟨l, h⟩ := s.addPost_posts c q
  rw [h]

@[simp] theorem State.addPost_ctxs (s : State) (c : Nat) (q : PostEff) : (s.addPost c q).ctxs = s.ctxs := by
  obtain ⟨l, h⟩ := s.addPost_posts c q
  rw [h]

@[simp] theorem State.release_mem (s : State) (c : Nat) (e : GateEff) : (s.release c e).mem = s.mem := by
  cases e <;> simp [State.release]

@[simp] theorem State.commit_mem (s : State) (c : Nat) : (s.commit c).mem = s.mem := by
  unfold State.commit
  simp only [State.updCtx_mem]
  exact foldl_mem (fun _ _ => State.release_mem _ _ _) _ _

@[simp] theorem State.mark_mem (s : State) (c n : Nat) : (s.mark c n).mem = s.mem := by
  unfold State.mark
  simp

/-- After a mark the gate and the array hold are empty, the request record is clear, the state is its own shadow, and the
restart PC is the mark's. -/
theorem State.mark_ctx (s : State) (c n : Nat) :
    let x := (s.mark c n).ctx c
    x.gate = [] ∧ x.hold = [] ∧ x.req = none ∧ x.sh = x.a ∧ x.restart = n ∧ x.markSeq = x.opSeq ∧ x.tidUndo = [] := by
  simp [State.mark, State.commit, Ctx.shadow]

/-! ### Rollback (R145) -/

@[simp] theorem State.rollback_mem (s : State) (c : Nat) (p : Option Nat) : (s.rollback c p).mem = s.mem := by
  simp [State.rollback]

theorem Ctx.post_a (x : Ctx) (f n : Nat) : (x.post f n).a = x.a := by
  unfold Ctx.post
  simp only
  split <;> rfl

/-- Rollback puts the shadow back, at the restart PC, and discards gate and hold. -/
theorem Ctx.rollback_spec (x : Ctx) (p : Option Nat) :
    let y := x.rollback p
    y.a = y.sh ∧ y.a.s = x.sh.s ∧ y.a.a = x.sh.a ∧ y.a.v = x.sh.v ∧ y.a.w = x.sh.w ∧ y.a.m = x.sh.m ∧ y.a.p = x.sh.p ∧
      y.a.nmr = x.sh.nmr ∧ y.a.fflags = x.sh.fflags ∧ y.a.loops = x.sh.loops ∧ y.pc = x.restart ∧ y.inIssue = false := by
  simp [Ctx.rollback]

/-! ### Traps (R150, R151) -/

@[simp] theorem State.endLockstep_mem (s : State) (c : Nat) : (s.endLockstep c).mem = s.mem := by
  unfold State.endLockstep
  split
  · rfl
  · split
    · rfl
    · refine foldl_mem ?_ _ _
      intro t e
      split <;> rfl

/-- Parking writes the save area and nothing else of memory. -/
theorem State.park_mem (s : State) (c : Nat) (t : Trap) : (s.park c t).mem =
    (match s.areaOf c with
      | some area => s.putImage area ((s.ctx c).imageFields 1 t.cause [])
      | none => s).mem := by
  simp only [State.park, State.offer_mem, State.updStep_mem]
  split <;> split <;> simp_all

/-- Parking keeps memory in canonical form. -/
theorem State.park_wf {s : State} (h : Memory.wf s.mem = true) (c : Nat) (t : Trap) : Memory.wf (s.park c t).mem = true := by
  rw [State.park_mem]
  split
  · exact State.putImage_wf h _ _
  · exact h

theorem takeTrap_wf {s : State} (h : Memory.wf s.mem = true) (t : Trap) : Memory.wf (takeTrap t s).mem = true := by
  unfold takeTrap
  exact State.park_wf (by simpa using h) _ _

theorem takeCommitTrap_wf {s : State} (h : Memory.wf s.mem = true) (t : Trap) (n : Nat) :
    Memory.wf (takeCommitTrap t n s).mem = true := by
  unfold takeCommitTrap
  exact State.park_wf (by simpa using h) _ _

/-- An act that may trap keeps memory in canonical form if its body does. -/
theorem tryRun_wf {g : Nat} {s t : State} {f : State → Except Trap State} (h : Memory.wf s.mem = true)
    (hf : ∀ u, f s = .ok u → Memory.wf u.mem = true) (ht : tryRun g s f = .next t) : Memory.wf t.mem = true := by
  rcases tryRun_cases g s f with h1 | ⟨u, hu, h1⟩ | ⟨e, _, h1⟩ <;> rw [h1] at ht <;> cases ht
  · exact h
  · exact hf _ hu
  · exact takeTrap_wf h e

theorem waitRun_wf {g : Nat} {s t : State} {r : State → Bool} {f : State → Except Trap State}
    (h : Memory.wf s.mem = true) (hf : ∀ u, f s = .ok u → Memory.wf u.mem = true) (ht : waitRun g s r f = .next t) :
    Memory.wf t.mem = true := by
  rcases waitRun_cases g s r f with h1 | h1 | ⟨u, hu, h1⟩ | ⟨e, _, h1⟩ <;> rw [h1] at ht <;> cases ht
  · exact h
  · exact h
  · exact hf _ hu
  · exact takeTrap_wf h e

theorem run_wf {g : Nat} {s t : State} {f : State → State} (h : Memory.wf s.mem = true)
    (hf : Memory.wf (f s).mem = true) (ht : run g s f = .next t) : Memory.wf t.mem = true := by
  unfold run at ht
  cases ht
  split
  · exact hf
  · exact h

/-! ### Kills (R149) -/

/-- The report of a cancelled command adds records and does nothing else. -/
theorem State.reportCancelled_eq (s : State) (c : Nat) (r : SphCmd) :
    ∃ l, s.reportCancelled c r = { s with records := s.records ++ l } := by
  unfold State.reportCancelled
  split
  · split
    · exact ⟨[], by simp⟩
    · exact ⟨_, rfl⟩
  · exact ⟨[], by simp⟩

@[simp] theorem State.reportCancelled_mem (s : State) (c : Nat) (r : SphCmd) : (s.reportCancelled c r).mem = s.mem := by
  unfold State.reportCancelled
  split
  · split <;> rfl
  · rfl

theorem State.reports_mem (c : Nat) (l : List SphCmd) (s : State) :
    (l.foldl (fun t r => t.reportCancelled c r) s).mem = s.mem := by
  induction l generalizing s with
  | nil => rfl
  | cons r l ih => exact (ih _).trans (s.reportCancelled_mem c r)

@[simp] theorem State.cancel_mem (s : State) (c : Nat) (f : Nat → Bool) : (s.cancel c f).mem = s.mem :=
  State.reports_mem c _ s

@[simp] theorem State.killCtx_mem (s : State) (c : Nat) : (s.killCtx c).mem = s.mem := by
  unfold State.killCtx
  simp only [State.updStep_mem, State.updTile_mem, State.updCtx_mem, State.reports_mem]
@[simp] theorem State.killStep_mem (s : State) (n k : Nat) : (s.killStep n k).mem = s.mem := rfl

end Sys2Proof.Machine
end

