-- ==== Sys2Proof/Laws/PerInstr.lean ====
section
/-! SUPPORT. Statements for every instruction as syntax, one lemma per constructor. `Encode`: the word of a well-formed
instruction, read in its slot position, is that instruction. -/

set_option Elab.async false

namespace Sys2Proof.Laws

/-! ### Packing and cutting along a layout -/

/-- The word of a layout with these operand values. -/
def packWord : List (Nat × Option Nat) → List Nat → Nat
  | [], _ => 0
  | (_, some v) :: rest, ops => v * 2 ^ layoutWidth rest + packWord rest ops
  | (_, none) :: rest, [] => packWord rest []
  | (_, none) :: rest, x :: ops => x * 2 ^ layoutWidth rest + packWord rest ops

/-- The fixed values fit their widths, and the operand values theirs, one for each. -/
def packable : List (Nat × Option Nat) → List Nat → Prop
  | [], ops => ops = []
  | (w, some v) :: rest, ops => v < 2 ^ w ∧ packable rest ops
  | (_, none) :: _, [] => False
  | (w, none) :: rest, x :: ops => x < 2 ^ w ∧ packable rest ops

theorem packWord_lt : ∀ (l : List (Nat × Option Nat)) (ops : List Nat), packable l ops →
    packWord l ops < 2 ^ layoutWidth l
  | [], _, _ => by simp [packWord, layoutWidth]
  | (w, some v) :: rest, ops, h => by
    have ih := packWord_lt rest ops h.2
    have h1 : (v + 1) * 2 ^ layoutWidth rest ≤ 2 ^ w * 2 ^ layoutWidth rest := Nat.mul_le_mul_right _ h.1
    simp only [packWord, layoutWidth, Nat.pow_add]
    rw [Nat.add_mul] at h1
    omega
  | (w, none) :: rest, x :: ops, h => by
    have ih := packWord_lt rest ops h.2
    have h1 : (x + 1) * 2 ^ layoutWidth rest ≤ 2 ^ w * 2 ^ layoutWidth rest := Nat.mul_le_mul_right _ h.1
    simp only [packWord, layoutWidth, Nat.pow_add]
    rw [Nat.add_mul] at h1
    omega

/-- Cutting looks only at the bits of the layout. -/
theorem unpackWord_high : ∀ (l : List (Nat × Option Nat)) (x v : Nat),
    unpackWord l (v * 2 ^ layoutWidth l + x) = unpackWord l x
  | [], _, _ => rfl
  | (w, f) :: rest, x, v => by
    have hb : v * 2 ^ (w + layoutWidth rest) = (v * 2 ^ w) * 2 ^ layoutWidth rest := by
      rw [Nat.pow_add, ← Nat.mul_assoc]
    have h1 : unpackWord rest (v * 2 ^ (w + layoutWidth rest) + x) = unpackWord rest x := by
      rw [hb]
      exact unpackWord_high rest x _
    have h2 : (v * 2 ^ (w + layoutWidth rest) + x) / 2 ^ layoutWidth rest % 2 ^ w = x / 2 ^ layoutWidth rest % 2 ^ w := by
      rw [hb, Nat.add_comm, Nat.add_mul_div_right _ _ (Nat.two_pow_pos _), Nat.add_mul_mod_self_right]
    cases f <;> simp only [unpackWord, layoutWidth, h1, h2]

theorem field_of (v w r x : Nat) (hv : v < 2 ^ w) (hx : x < 2 ^ r) : (v * 2 ^ r + x) / 2 ^ r % 2 ^ w = v := by
  rw [Nat.add_comm, Nat.add_mul_div_right _ _ (Nat.two_pow_pos _), Nat.div_eq_of_lt hx, Nat.zero_add, Nat.mod_eq_of_lt hv]

/-- Cutting a packed word gives the operand values back. -/
theorem unpackWord_pack : ∀ (l : List (Nat × Option Nat)) (ops : List Nat), packable l ops →
    unpackWord l (packWord l ops) = some ops
  | [], _, h => by
    cases h
    rfl
  | (w, some v) :: rest, ops, h => by
    have ih := unpackWord_pack rest ops h.2
    simp only [packWord, unpackWord, field_of v w _ _ h.1 (packWord_lt rest ops h.2), if_true, unpackWord_high, ih]
  | (w, none) :: rest, x :: ops, h => by
    have ih := unpackWord_pack rest ops h.2
    simp only [packWord, unpackWord, field_of x w _ _ h.1 (packWord_lt rest ops h.2), unpackWord_high, ih]

/-! ### Two layouts that no word fits both -/

/-- The fixed value of a bit of a layout. -/
def layoutBit : List (Nat × Option Nat) → Nat → Option Bool
  | [], _ => none
  | (w, f) :: rest, p =>
    if p < layoutWidth rest then layoutBit rest p
    else if p < layoutWidth rest + w then f.map fun v => v.testBit (p - layoutWidth rest)
    else none

theorem layoutBit_of_unpack : ∀ (l : List (Nat × Option Nat)) (x p : Nat) (ops : List Nat) (b : Bool),
    unpackWord l x = some ops → layoutBit l p = some b → x.testBit p = b
  | [], _, _, _, _, _, h => by simp [layoutBit] at h
  | (w, f) :: rest, x, p, ops, b, hu, hb => by
    have hrest : ∃ ops', unpackWord rest x = some ops' := by
      cases f with
      | some v =>
        simp only [unpackWord] at hu
        split at hu
        · exact ⟨ops, hu⟩
        · cases hu
      | none =>
        simp only [unpackWord] at hu
        split at hu
        · exact ⟨_, ‹_›⟩
        · cases hu
    obtain ⟨ops', ho⟩ := hrest
    simp only [layoutBit] at hb
    split at hb
    · exact layoutBit_of_unpack rest x p ops' b ho hb
    · rename_i h1
      split at hb
      · rename_i h2
        cases f with
        | none => simp at hb
        | some v =>
          simp only [unpackWord] at hu
          split at hu
          · rename_i hv
            simp only [Option.map_some, Option.some.injEq] at hb
            rw [← hb, ← hv, Nat.testBit_mod_two_pow, Nat.testBit_div_two_pow]
            have h3 : p - layoutWidth rest < w := by omega
            simp only [h3, decide_true, Bool.true_and]
            congr 1
            omega
          · cases hu
      · cases hb

/-- A bit the two layouts fix differently. -/
def clash (l m : List (Nat × Option Nat)) : Bool :=
  (List.range 32).any fun p => match layoutBit l p, layoutBit m p with
    | some a, some b => a != b
    | _, _ => false

theorem unpack_of_clash {l m : List (Nat × Option Nat)} {x : Nat} {ops : List Nat} (hc : clash l m = true)
    (hu : unpackWord m x = some ops) : unpackWord l x = none := by
  simp only [clash, List.any_eq_true] at hc
  obtain ⟨p, _, hp⟩ := hc
  cases hl : unpackWord l x with
  | none => rfl
  | some ops' =>
    exfalso
    split at hp
    · rename_i a b ha hb
      have h1 := layoutBit_of_unpack l x p ops' a hl ha
      have h2 := layoutBit_of_unpack m x p ops b hu hb
      rw [h1] at h2
      simp [h2] at hp
    · cases hp

/-! ### Reading a word by its row -/

theorem readRows_pick : ∀ (rows : List Row) (j : Nat) (r : Row) (x : Nat) (ops : List Nat) (i : Instr),
    rows[j]? = some r → ((rows.take j).all fun q => clash q.layout r.layout) = true →
    unpackWord r.layout x = some ops → r.build ops = some i → readRows rows x = some i
  | [], _, _, _, _, _, h, _, _, _ => by simp at h
  | q :: rows, 0, r, x, ops, i, h, _, hu, hb => by
    simp only [List.getElem?_cons_zero, Option.some.injEq] at h
    subst h
    simp [readRows, Row.read, hu, hb]
  | q :: rows, j + 1, r, x, ops, i, h, hc, hu, hb => by
    simp only [List.take_succ_cons, List.all_cons, Bool.and_eq_true] at hc
    simp only [List.getElem?_cons_succ] at h
    simp only [readRows, Row.read, unpack_of_clash hc.1 hu]
    exact readRows_pick rows j r x ops i h hc.2 hu hb

theorem decodeSlot_of_read (k o w : Nat) (i : Instr) (ho : w / 2 ^ 28 % 16 = o)
    (hr : readRows (slotRows k o) w = some i) (hi : i.brokenItem = none) : decodeSlot k w = .ok i := by
  unfold decodeSlot
  rw [ho, hr]
  simp [hi]

/-- A word packed along row `j` of an opcode map is read as that row's instruction. -/
theorem decode_row (k o j : Nat) (r : Row) (rest : List (Nat × Option Nat)) (ops : List Nat) (i : Instr) (w : Nat)
    (hr : (slotRows k o)[j]? = some r) (hc : (((slotRows k o).take j).all fun q => clash q.layout r.layout) = true)
    (hl : r.layout = (4, some o) :: rest) (h28 : layoutWidth rest = 28) (hp : packable r.layout ops)
    (hw : w = packWord r.layout ops) (hb : r.build ops = some i) (hi : i.brokenItem = none) : decodeSlot k w = .ok i := by
  have hu := unpackWord_pack r.layout ops hp
  rw [← hw] at hu
  have ho : w / 2 ^ 28 % 16 = o := by
    have := hp
    rw [hl] at this
    rw [hw, hl]
    simp only [packWord, h28]
    exact field_of o 4 28 _ this.1 (h28 ▸ packWord_lt rest ops this.2)
  exact decodeSlot_of_read k o w i ho (readRows_pick _ j r w ops i hr hc hu hb) hi

/-! ### Encode -/

theorem fits_iff (l : List (Nat × Nat)) : fits l = true ↔ ∀ p ∈ l, p.1 < 2 ^ p.2 := by
  simp only [fits, List.all_eq_true, decide_eq_true_eq]

/-- The word of a well-formed slot instruction, read in its slot position, is that instruction; an event has no word. -/
def Encode.Statement (i : Instr) : Prop :=
  i.wf = true → match encodeWord i with
    | some (k, w) => w < 2 ^ 32 ∧ decodeSlot k w = .ok i
    | none => i.slot = none

theorem Encode.of_word (i : Instr) (k w : Nat) (he : encodeWord i = some (k, w))
    (h : i.wf = true → w < 2 ^ 32 ∧ decodeSlot k w = .ok i) : Encode.Statement i := by
  intro hi
  rw [he]
  exact h hi

/-- The widths of a layout's operands. -/
def operandWidths : List (Nat × Option Nat) → List Nat
  | [] => []
  | (_, some _) :: rest => operandWidths rest
  | (w, none) :: rest => w :: operandWidths rest

/-- Every fixed value fits its width. -/
def fixedFit : List (Nat × Option Nat) → Bool
  | [] => true
  | (w, some v) :: rest => decide (v < 2 ^ w) && fixedFit rest
  | (_, none) :: rest => fixedFit rest

/-- Operand values that fit, in the order of the layout, can be packed. -/
theorem packable_of_fits : ∀ (l : List (Nat × Option Nat)) (ops : List Nat) (fl : List (Nat × Nat)),
    fixedFit l = true → fl = ops.zip (operandWidths l) ∧ ops.length = (operandWidths l).length → fits fl = true →
    packable l ops
  | [], ops, _, _, h, _ => List.eq_nil_of_length_eq_zero h.2
  | (w, some v) :: rest, ops, fl, hx, h, hf => by
    simp only [fixedFit, Bool.and_eq_true, decide_eq_true_eq] at hx
    exact ⟨hx.1, packable_of_fits rest ops fl hx.2 h hf⟩
  | (w, none) :: rest, [], fl, hx, h, hf => by simp [operandWidths] at h
  | (w, none) :: rest, x :: ops, fl, hx, h, hf => by
    obtain ⟨h1, h2⟩ := h
    subst h1
    simp only [operandWidths, List.zip_cons_cons, fits, List.all_cons, Bool.and_eq_true, decide_eq_true_eq] at hf
    exact ⟨hf.1, packable_of_fits rest ops _ hx ⟨rfl, by simpa [operandWidths] using h2⟩ hf.2⟩

/-- What a packed row needs to meet the statement. -/
theorem Encode.of_row (i : Instr) (k o j : Nat) (r : Row) (rest : List (Nat × Option Nat)) (ops : List Nat) (w : Nat)
    (he : encodeWord i = some (k, w)) (hr : (slotRows k o)[j]? = some r)
    (hc : (((slotRows k o).take j).all fun q => clash q.layout r.layout) = true)
    (hl : r.layout = (4, some o) :: rest) (h28 : layoutWidth rest = 28) (hb : r.build ops = some i)
    (hp : i.fieldsFit = true → packable r.layout ops) (hw : w = packWord r.layout ops) : Encode.Statement i := by
  intro h
  simp only [Instr.wf, Bool.and_eq_true, Option.isNone_iff_eq_none] at h
  rw [he]
  refine ⟨?_, decode_row k o j r rest ops i w hr hc hl h28 (hp h.1) hw hb h.2⟩
  have h1 := packWord_lt r.layout ops (hp h.1)
  rw [← hw, hl] at h1
  simpa [layoutWidth, h28] using h1

theorem Encode.nopS (g : Nat) : Encode.Statement (.nopS g) := by
  refine Encode.of_row _ 0 0 3 _ _ [g] _ rfl rfl (by decide) rfl rfl rfl ?_ ?_
  · intro h
    exact packable_of_fits _ _ _ rfl ⟨rfl, rfl⟩ h
  · simp only [packWord, layoutWidth]
    omega
theorem Encode.yield (g : Nat) : Encode.Statement (.yield g) := by
  refine Encode.of_row _ 0 0 4 _ _ [g] _ rfl rfl (by decide) rfl rfl rfl ?_ ?_
  · intro h
    exact packable_of_fits _ _ _ rfl ⟨rfl, rfl⟩ h
  · simp only [packWord, layoutWidth]
    omega
theorem Encode.exit (g : Nat) : Encode.Statement (.exit g) := by
  refine Encode.of_row _ 0 0 5 _ _ [g] _ rfl rfl (by decide) rfl rfl rfl ?_ ?_
  · intro h
    exact packable_of_fits _ _ _ rfl ⟨rfl, rfl⟩ h
  · simp only [packWord, layoutWidth]
    omega
theorem Encode.trap (g c : Nat) : Encode.Statement (.trap g c) := by
  refine Encode.of_row _ 0 0 6 _ _ [g, c] _ rfl rfl (by decide) rfl rfl rfl ?_ ?_
  · intro h
    exact packable_of_fits _ _ _ rfl ⟨rfl, rfl⟩ h
  · simp only [packWord, layoutWidth]
    omega
/-- The rows of opcode 0 of the S slot on the word of a `sysc`. -/
theorem Encode.sysc_row (g c w : Nat) (hw : w = 4194304 + g * 16777216 + c) (h24 : w / 2 ^ 0 % 2 ^ 24 = 4194304 + c)
    (h8 : w / 2 ^ 16 % 2 ^ 8 = 64) (h4 : w / 2 ^ 24 % 2 ^ 4 = g) (h5 : w / 2 ^ 28 % 2 ^ 4 = 0)
    (h16 : w / 2 ^ 0 % 2 ^ 16 = c) (hc : 4194304 + c ≠ 4259584 ∧ 4194304 + c ≠ 4259585 ∧ 4194304 + c ≠ 4259586) :
    readRows (slotRows 0 0) w = some (.sysc g c) := by
  have e4 : ¬ 4194304 + c = 0 := by omega
  have e5 : ¬ 4194304 + c = 1048576 := by omega
  have e6 : ¬ 4194304 + c = 2097152 := by omega
  have e7 : ¬ (64 : Nat) = 48 := by omega
  clear hw
  generalize hy : 4194304 + c = y at *
  simp only [slotRows, rowsS, rowsS0, readRows, Row.read, unpackWord, layoutWidth, Nat.reduceAdd, h24, h8, h4, h5, h16,
    hc.1, hc.2.1, hc.2.2, e4, e5, e6, e7, if_true, if_false]

theorem Encode.sysc (g c : Nat) : Encode.Statement (.sysc g c) := by
  refine Encode.of_word _ 0 (4194304 + g * 16777216 + c) rfl fun h => ?_
  have h1 : fits [(g, 4), (c, 16)] = true := (Bool.and_eq_true _ _ ▸ h : _ ∧ _).1
  have h2 : (Instr.sysc g c).brokenItem = none := Option.isNone_iff_eq_none.mp (Bool.and_eq_true _ _ ▸ h : _ ∧ _).2
  have hg : g < 2 ^ 4 := (fits_iff _).mp h1 (g, 4) (by simp)
  have hc : c < 2 ^ 16 := (fits_iff _).mp h1 (c, 16) (by simp)
  have hn : c / 256 ≠ 255 ∨ 3 ≤ c % 256 := by
    have hb : (if (c / 256 != 255 || decide (3 ≤ c % 256)) = true then none else some 1) = none := h2
    split at hb
    · rename_i hx
      rcases (Bool.or_eq_true _ _).mp hx with hx | hx
      · exact .inl (by simpa using hx)
      · exact .inr (of_decide_eq_true hx)
    · cases hb
  clear h h1
  generalize hw : 4194304 + g * 16777216 + c = w
  have hr := Encode.sysc_row g c w hw.symm (by omega) (by omega) (by omega) (by omega) (by omega) (by omega)
  refine ⟨by omega, ?_⟩
  exact decodeSlot_of_read 0 0 w _ (by omega) hr h2
theorem Encode.brk (g c : Nat) : Encode.Statement (.brk g c) := by
  refine Encode.of_row _ 0 0 8 _ _ [g, c] _ rfl rfl (by decide) rfl rfl rfl ?_ ?_
  · intro h
    exact packable_of_fits _ _ _ rfl ⟨rfl, rfl⟩ h
  · simp only [packWord, layoutWidth]
    omega
theorem Encode.syscResume (g : Nat) : Encode.Statement (.syscResume g) := by
  refine Encode.of_row _ 0 0 0 _ _ [g] _ rfl rfl (by decide) rfl rfl rfl ?_ ?_
  · intro h
    exact packable_of_fits _ _ _ rfl ⟨rfl, rfl⟩ h
  · simp only [packWord, layoutWidth]
    omega
theorem Encode.syscKillStep (g : Nat) : Encode.Statement (.syscKillStep g) := by
  refine Encode.of_row _ 0 0 1 _ _ [g] _ rfl rfl (by decide) rfl rfl rfl ?_ ?_
  · intro h
    exact packable_of_fits _ _ _ rfl ⟨rfl, rfl⟩ h
  · simp only [packWord, layoutWidth]
    omega
theorem Encode.syscLocate (g : Nat) : Encode.Statement (.syscLocate g) := by
  refine Encode.of_row _ 0 0 2 _ _ [g] _ rfl rfl (by decide) rfl rfl rfl ?_ ?_
  · intro h
    exact packable_of_fits _ _ _ rfl ⟨rfl, rfl⟩ h
  · simp only [packWord, layoutWidth]
    omega
theorem Encode.add (g d a b x : Nat) : Encode.Statement (.add g d a b x) := by
  refine Encode.of_row _ 0 1 0 _ _ [g, d, a, b, x] _ rfl rfl (by decide) rfl rfl rfl ?_ ?_
  · intro h
    exact packable_of_fits _ _ _ rfl ⟨rfl, rfl⟩ h
  · simp only [packWord, layoutWidth]
    omega
theorem Encode.sub (g d a b x : Nat) : Encode.Statement (.sub g d a b x) := by
  refine Encode.of_row _ 0 1 1 _ _ [g, d, a, b, x] _ rfl rfl (by decide) rfl rfl rfl ?_ ?_
  · intro h
    exact packable_of_fits _ _ _ rfl ⟨rfl, rfl⟩ h
  · simp only [packWord, layoutWidth]
    omega
theorem Encode.mul (g d a b x : Nat) : Encode.Statement (.mul g d a b x) := by
  refine Encode.of_row _ 0 1 2 _ _ [g, d, a, b, x] _ rfl rfl (by decide) rfl rfl rfl ?_ ?_
  · intro h
    exact packable_of_fits _ _ _ rfl ⟨rfl, rfl⟩ h
  · simp only [packWord, layoutWidth]
    omega
theorem Encode.mulh (g d a b x : Nat) : Encode.Statement (.mulh g d a b x) := by
  refine Encode.of_row _ 0 1 3 _ _ [g, d, a, b, x] _ rfl rfl (by decide) rfl rfl rfl ?_ ?_
  · intro h
    exact packable_of_fits _ _ _ rfl ⟨rfl, rfl⟩ h
  · simp only [packWord, layoutWidth]
    omega
theorem Encode.mulhn (g d a b x : Nat) : Encode.Statement (.mulhn g d a b x) := by
  refine Encode.of_row _ 0 1 4 _ _ [g, d, a, b, x] _ rfl rfl (by decide) rfl rfl rfl ?_ ?_
  · intro h
    exact packable_of_fits _ _ _ rfl ⟨rfl, rfl⟩ h
  · simp only [packWord, layoutWidth]
    omega
theorem Encode.div (g d a b x : Nat) : Encode.Statement (.div g d a b x) := by
  refine Encode.of_row _ 0 1 5 _ _ [g, d, a, b, x] _ rfl rfl (by decide) rfl rfl rfl ?_ ?_
  · intro h
    exact packable_of_fits _ _ _ rfl ⟨rfl, rfl⟩ h
  · simp only [packWord, layoutWidth]
    omega
theorem Encode.divn (g d a b x : Nat) : Encode.Statement (.divn g d a b x) := by
  refine Encode.of_row _ 0 1 6 _ _ [g, d, a, b, x] _ rfl rfl (by decide) rfl rfl rfl ?_ ?_
  · intro h
    exact packable_of_fits _ _ _ rfl ⟨rfl, rfl⟩ h
  · simp only [packWord, layoutWidth]
    omega
theorem Encode.rem (g d a b x : Nat) : Encode.Statement (.rem g d a b x) := by
  refine Encode.of_row _ 0 1 7 _ _ [g, d, a, b, x] _ rfl rfl (by decide) rfl rfl rfl ?_ ?_
  · intro h
    exact packable_of_fits _ _ _ rfl ⟨rfl, rfl⟩ h
  · simp only [packWord, layoutWidth]
    omega
theorem Encode.remn (g d a b x : Nat) : Encode.Statement (.remn g d a b x) := by
  refine Encode.of_row _ 0 1 8 _ _ [g, d, a, b, x] _ rfl rfl (by decide) rfl rfl rfl ?_ ?_
  · intro h
    exact packable_of_fits _ _ _ rfl ⟨rfl, rfl⟩ h
  · simp only [packWord, layoutWidth]
    omega
theorem Encode.and (g d a b x : Nat) : Encode.Statement (.and g d a b x) := by
  refine Encode.of_row _ 0 1 9 _ _ [g, d, a, b, x] _ rfl rfl (by decide) rfl rfl rfl ?_ ?_
  · intro h
    exact packable_of_fits _ _ _ rfl ⟨rfl, rfl⟩ h
  · simp only [packWord, layoutWidth]
    omega
theorem Encode.or (g d a b x : Nat) : Encode.Statement (.or g d a b x) := by
  refine Encode.of_row _ 0 1 10 _ _ [g, d, a, b, x] _ rfl rfl (by decide) rfl rfl rfl ?_ ?_
  · intro h
    exact packable_of_fits _ _ _ rfl ⟨rfl, rfl⟩ h
  · simp only [packWord, layoutWidth]
    omega
theorem Encode.xor (g d a b x : Nat) : Encode.Statement (.xor g d a b x) := by
  refine Encode.of_row _ 0 1 11 _ _ [g, d, a, b, x] _ rfl rfl (by decide) rfl rfl rfl ?_ ?_
  · intro h
    exact packable_of_fits _ _ _ rfl ⟨rfl, rfl⟩ h
  · simp only [packWord, layoutWidth]
    omega
theorem Encode.andn (g d a b x : Nat) : Encode.Statement (.andn g d a b x) := by
  refine Encode.of_row _ 0 1 12 _ _ [g, d, a, b, x] _ rfl rfl (by decide) rfl rfl rfl ?_ ?_
  · intro h
    exact packable_of_fits _ _ _ rfl ⟨rfl, rfl⟩ h
  · simp only [packWord, layoutWidth]
    omega
theorem Encode.shl (g d a b x : Nat) : Encode.Statement (.shl g d a b x) := by
  refine Encode.of_row _ 0 1 13 _ _ [g, d, a, b, x] _ rfl rfl (by decide) rfl rfl rfl ?_ ?_
  · intro h
    exact packable_of_fits _ _ _ rfl ⟨rfl, rfl⟩ h
  · simp only [packWord, layoutWidth]
    omega
theorem Encode.shr (g d a b x : Nat) : Encode.Statement (.shr g d a b x) := by
  refine Encode.of_row _ 0 1 14 _ _ [g, d, a, b, x] _ rfl rfl (by decide) rfl rfl rfl ?_ ?_
  · intro h
    exact packable_of_fits _ _ _ rfl ⟨rfl, rfl⟩ h
  · simp only [packWord, layoutWidth]
    omega
theorem Encode.sha (g d a b x : Nat) : Encode.Statement (.sha g d a b x) := by
  refine Encode.of_row _ 0 1 15 _ _ [g, d, a, b, x] _ rfl rfl (by decide) rfl rfl rfl ?_ ?_
  · intro h
    exact packable_of_fits _ _ _ rfl ⟨rfl, rfl⟩ h
  · simp only [packWord, layoutWidth]
    omega
theorem Encode.min (g d a b x : Nat) : Encode.Statement (.min g d a b x) := by
  refine Encode.of_row _ 0 1 16 _ _ [g, d, a, b, x] _ rfl rfl (by decide) rfl rfl rfl ?_ ?_
  · intro h
    exact packable_of_fits _ _ _ rfl ⟨rfl, rfl⟩ h
  · simp only [packWord, layoutWidth]
    omega
theorem Encode.max (g d a b x : Nat) : Encode.Statement (.max g d a b x) := by
  refine Encode.of_row _ 0 1 17 _ _ [g, d, a, b, x] _ rfl rfl (by decide) rfl rfl rfl ?_ ?_
  · intro h
    exact packable_of_fits _ _ _ rfl ⟨rfl, rfl⟩ h
  · simp only [packWord, layoutWidth]
    omega
theorem Encode.minn (g d a b x : Nat) : Encode.Statement (.minn g d a b x) := by
  refine Encode.of_row _ 0 1 18 _ _ [g, d, a, b, x] _ rfl rfl (by decide) rfl rfl rfl ?_ ?_
  · intro h
    exact packable_of_fits _ _ _ rfl ⟨rfl, rfl⟩ h
  · simp only [packWord, layoutWidth]
    omega
theorem Encode.maxn (g d a b x : Nat) : Encode.Statement (.maxn g d a b x) := by
  refine Encode.of_row _ 0 1 19 _ _ [g, d, a, b, x] _ rfl rfl (by decide) rfl rfl rfl ?_ ?_
  · intro h
    exact packable_of_fits _ _ _ rfl ⟨rfl, rfl⟩ h
  · simp only [packWord, layoutWidth]
    omega
theorem Encode.clz (g d a x : Nat) : Encode.Statement (.clz g d a x) := by
  refine Encode.of_row _ 0 1 20 _ _ [g, d, a, x] _ rfl rfl (by decide) rfl rfl rfl ?_ ?_
  · intro h
    exact packable_of_fits _ _ _ rfl ⟨rfl, rfl⟩ h
  · simp only [packWord, layoutWidth]
    omega
theorem Encode.popc (g d a x : Nat) : Encode.Statement (.popc g d a x) := by
  refine Encode.of_row _ 0 1 21 _ _ [g, d, a, x] _ rfl rfl (by decide) rfl rfl rfl ?_ ?_
  · intro h
    exact packable_of_fits _ _ _ rfl ⟨rfl, rfl⟩ h
  · simp only [packWord, layoutWidth]
    omega
theorem Encode.addi (g d a x i : Nat) : Encode.Statement (.addi g d a x i) := by
  refine Encode.of_row _ 0 2 0 _ _ [g, d, a, x, i] _ rfl rfl (by decide) rfl rfl rfl ?_ ?_
  · intro h
    exact packable_of_fits _ _ _ rfl ⟨rfl, rfl⟩ h
  · simp only [packWord, layoutWidth]
    omega
theorem Encode.muli (g d a x i : Nat) : Encode.Statement (.muli g d a x i) := by
  refine Encode.of_row _ 0 2 1 _ _ [g, d, a, x, i] _ rfl rfl (by decide) rfl rfl rfl ?_ ?_
  · intro h
    exact packable_of_fits _ _ _ rfl ⟨rfl, rfl⟩ h
  · simp only [packWord, layoutWidth]
    omega
theorem Encode.andi (g d a x i : Nat) : Encode.Statement (.andi g d a x i) := by
  refine Encode.of_row _ 0 2 2 _ _ [g, d, a, x, i] _ rfl rfl (by decide) rfl rfl rfl ?_ ?_
  · intro h
    exact packable_of_fits _ _ _ rfl ⟨rfl, rfl⟩ h
  · simp only [packWord, layoutWidth]
    omega
theorem Encode.ori (g d a x i : Nat) : Encode.Statement (.ori g d a x i) := by
  refine Encode.of_row _ 0 2 3 _ _ [g, d, a, x, i] _ rfl rfl (by decide) rfl rfl rfl ?_ ?_
  · intro h
    exact packable_of_fits _ _ _ rfl ⟨rfl, rfl⟩ h
  · simp only [packWord, layoutWidth]
    omega
theorem Encode.xori (g d a x i : Nat) : Encode.Statement (.xori g d a x i) := by
  refine Encode.of_row _ 0 2 4 _ _ [g, d, a, x, i] _ rfl rfl (by decide) rfl rfl rfl ?_ ?_
  · intro h
    exact packable_of_fits _ _ _ rfl ⟨rfl, rfl⟩ h
  · simp only [packWord, layoutWidth]
    omega
theorem Encode.andni (g d a x i : Nat) : Encode.Statement (.andni g d a x i) := by
  refine Encode.of_row _ 0 2 5 _ _ [g, d, a, x, i] _ rfl rfl (by decide) rfl rfl rfl ?_ ?_
  · intro h
    exact packable_of_fits _ _ _ rfl ⟨rfl, rfl⟩ h
  · simp only [packWord, layoutWidth]
    omega
theorem Encode.shli (g d a x i : Nat) : Encode.Statement (.shli g d a x i) := by
  refine Encode.of_row _ 0 2 6 _ _ [g, d, a, x, i] _ rfl rfl (by decide) rfl rfl rfl ?_ ?_
  · intro h
    exact packable_of_fits _ _ _ rfl ⟨rfl, rfl⟩ h
  · simp only [packWord, layoutWidth]
    omega
theorem Encode.shri (g d a x i : Nat) : Encode.Statement (.shri g d a x i) := by
  refine Encode.of_row _ 0 2 7 _ _ [g, d, a, x, i] _ rfl rfl (by decide) rfl rfl rfl ?_ ?_
  · intro h
    exact packable_of_fits _ _ _ rfl ⟨rfl, rfl⟩ h
  · simp only [packWord, layoutWidth]
    omega
theorem Encode.shai (g d a x i : Nat) : Encode.Statement (.shai g d a x i) := by
  refine Encode.of_row _ 0 2 8 _ _ [g, d, a, x, i] _ rfl rfl (by decide) rfl rfl rfl ?_ ?_
  · intro h
    exact packable_of_fits _ _ _ rfl ⟨rfl, rfl⟩ h
  · simp only [packWord, layoutWidth]
    omega
theorem Encode.mini (g d a x i : Nat) : Encode.Statement (.mini g d a x i) := by
  refine Encode.of_row _ 0 2 9 _ _ [g, d, a, x, i] _ rfl rfl (by decide) rfl rfl rfl ?_ ?_
  · intro h
    exact packable_of_fits _ _ _ rfl ⟨rfl, rfl⟩ h
  · simp only [packWord, layoutWidth]
    omega
theorem Encode.maxi (g d a x i : Nat) : Encode.Statement (.maxi g d a x i) := by
  refine Encode.of_row _ 0 2 10 _ _ [g, d, a, x, i] _ rfl rfl (by decide) rfl rfl rfl ?_ ?_
  · intro h
    exact packable_of_fits _ _ _ rfl ⟨rfl, rfl⟩ h
  · simp only [packWord, layoutWidth]
    omega
theorem Encode.minni (g d a x i : Nat) : Encode.Statement (.minni g d a x i) := by
  refine Encode.of_row _ 0 2 11 _ _ [g, d, a, x, i] _ rfl rfl (by decide) rfl rfl rfl ?_ ?_
  · intro h
    exact packable_of_fits _ _ _ rfl ⟨rfl, rfl⟩ h
  · simp only [packWord, layoutWidth]
    omega
theorem Encode.maxni (g d a x i : Nat) : Encode.Statement (.maxni g d a x i) := by
  refine Encode.of_row _ 0 2 12 _ _ [g, d, a, x, i] _ rfl rfl (by decide) rfl rfl rfl ?_ ?_
  · intro h
    exact packable_of_fits _ _ _ rfl ⟨rfl, rfl⟩ h
  · simp only [packWord, layoutWidth]
    omega
theorem Encode.ceq (g p a b x : Nat) : Encode.Statement (.ceq g p a b x) := by
  refine Encode.of_row _ 0 3 0 _ _ [g, p, a, b, x] _ rfl rfl (by decide) rfl rfl rfl ?_ ?_
  · intro h
    exact packable_of_fits _ _ _ rfl ⟨rfl, rfl⟩ h
  · simp only [packWord, layoutWidth]
    omega
theorem Encode.cne (g p a b x : Nat) : Encode.Statement (.cne g p a b x) := by
  refine Encode.of_row _ 0 3 1 _ _ [g, p, a, b, x] _ rfl rfl (by decide) rfl rfl rfl ?_ ?_
  · intro h
    exact packable_of_fits _ _ _ rfl ⟨rfl, rfl⟩ h
  · simp only [packWord, layoutWidth]
    omega
theorem Encode.clt (g p a b x : Nat) : Encode.Statement (.clt g p a b x) := by
  refine Encode.of_row _ 0 3 2 _ _ [g, p, a, b, x] _ rfl rfl (by decide) rfl rfl rfl ?_ ?_
  · intro h
    exact packable_of_fits _ _ _ rfl ⟨rfl, rfl⟩ h
  · simp only [packWord, layoutWidth]
    omega
theorem Encode.cle (g p a b x : Nat) : Encode.Statement (.cle g p a b x) := by
  refine Encode.of_row _ 0 3 3 _ _ [g, p, a, b, x] _ rfl rfl (by decide) rfl rfl rfl ?_ ?_
  · intro h
    exact packable_of_fits _ _ _ rfl ⟨rfl, rfl⟩ h
  · simp only [packWord, layoutWidth]
    omega
theorem Encode.cltn (g p a b x : Nat) : Encode.Statement (.cltn g p a b x) := by
  refine Encode.of_row _ 0 3 4 _ _ [g, p, a, b, x] _ rfl rfl (by decide) rfl rfl rfl ?_ ?_
  · intro h
    exact packable_of_fits _ _ _ rfl ⟨rfl, rfl⟩ h
  · simp only [packWord, layoutWidth]
    omega
theorem Encode.clen (g p a b x : Nat) : Encode.Statement (.clen g p a b x) := by
  refine Encode.of_row _ 0 3 5 _ _ [g, p, a, b, x] _ rfl rfl (by decide) rfl rfl rfl ?_ ?_
  · intro h
    exact packable_of_fits _ _ _ rfl ⟨rfl, rfl⟩ h
  · simp only [packWord, layoutWidth]
    omega
theorem Encode.ceqi (g p a i : Nat) : Encode.Statement (.ceqi g p a i) := by
  refine Encode.of_row _ 0 4 0 _ _ [g, p, a, i] _ rfl rfl (by decide) rfl rfl rfl ?_ ?_
  · intro h
    exact packable_of_fits _ _ _ rfl ⟨rfl, rfl⟩ h
  · simp only [packWord, layoutWidth]
    omega
theorem Encode.cnei (g p a i : Nat) : Encode.Statement (.cnei g p a i) := by
  refine Encode.of_row _ 0 4 1 _ _ [g, p, a, i] _ rfl rfl (by decide) rfl rfl rfl ?_ ?_
  · intro h
    exact packable_of_fits _ _ _ rfl ⟨rfl, rfl⟩ h
  · simp only [packWord, layoutWidth]
    omega
theorem Encode.clti (g p a i : Nat) : Encode.Statement (.clti g p a i) := by
  refine Encode.of_row _ 0 4 2 _ _ [g, p, a, i] _ rfl rfl (by decide) rfl rfl rfl ?_ ?_
  · intro h
    exact packable_of_fits _ _ _ rfl ⟨rfl, rfl⟩ h
  · simp only [packWord, layoutWidth]
    omega
theorem Encode.clei (g p a i : Nat) : Encode.Statement (.clei g p a i) := by
  refine Encode.of_row _ 0 4 3 _ _ [g, p, a, i] _ rfl rfl (by decide) rfl rfl rfl ?_ ?_
  · intro h
    exact packable_of_fits _ _ _ rfl ⟨rfl, rfl⟩ h
  · simp only [packWord, layoutWidth]
    omega
theorem Encode.cltni (g p a i : Nat) : Encode.Statement (.cltni g p a i) := by
  refine Encode.of_row _ 0 4 4 _ _ [g, p, a, i] _ rfl rfl (by decide) rfl rfl rfl ?_ ?_
  · intro h
    exact packable_of_fits _ _ _ rfl ⟨rfl, rfl⟩ h
  · simp only [packWord, layoutWidth]
    omega
theorem Encode.cleni (g p a i : Nat) : Encode.Statement (.cleni g p a i) := by
  refine Encode.of_row _ 0 4 5 _ _ [g, p, a, i] _ rfl rfl (by decide) rfl rfl rfl ?_ ?_
  · intro h
    exact packable_of_fits _ _ _ rfl ⟨rfl, rfl⟩ h
  · simp only [packWord, layoutWidth]
    omega
theorem Encode.lih (g d h i : Nat) : Encode.Statement (.lih g d h i) := by
  refine Encode.of_row _ 0 5 0 _ _ [g, d, h, i] _ rfl rfl (by decide) rfl rfl rfl ?_ ?_
  · intro h
    exact packable_of_fits _ _ _ rfl ⟨rfl, rfl⟩ h
  · simp only [packWord, layoutWidth]
    omega
theorem Encode.lihK (g d h i : Nat) : Encode.Statement (.lihK g d h i) := by
  refine Encode.of_row _ 0 5 1 _ _ [g, d, h, i] _ rfl rfl (by decide) rfl rfl rfl ?_ ?_
  · intro h
    exact packable_of_fits _ _ _ rfl ⟨rfl, rfl⟩ h
  · simp only [packWord, layoutWidth]
    omega
theorem Encode.sel (g d a b p x : Nat) : Encode.Statement (.sel g d a b p x) := by
  refine Encode.of_row _ 0 6 0 _ _ [g, d, a, b, p, x] _ rfl rfl (by decide) rfl rfl rfl ?_ ?_
  · intro h
    exact packable_of_fits _ _ _ rfl ⟨rfl, rfl⟩ h
  · simp only [packWord, layoutWidth]
    omega
theorem Encode.pand (g d a b : Nat) : Encode.Statement (.pand g d a b) := by
  refine Encode.of_row _ 0 7 0 _ _ [g, d, a, b] _ rfl rfl (by decide) rfl rfl rfl ?_ ?_
  · intro h
    exact packable_of_fits _ _ _ rfl ⟨rfl, rfl⟩ h
  · simp only [packWord, layoutWidth]
    omega
theorem Encode.por (g d a b : Nat) : Encode.Statement (.por g d a b) := by
  refine Encode.of_row _ 0 7 1 _ _ [g, d, a, b] _ rfl rfl (by decide) rfl rfl rfl ?_ ?_
  · intro h
    exact packable_of_fits _ _ _ rfl ⟨rfl, rfl⟩ h
  · simp only [packWord, layoutWidth]
    omega
theorem Encode.pxor (g d a b : Nat) : Encode.Statement (.pxor g d a b) := by
  refine Encode.of_row _ 0 7 2 _ _ [g, d, a, b] _ rfl rfl (by decide) rfl rfl rfl ?_ ?_
  · intro h
    exact packable_of_fits _ _ _ rfl ⟨rfl, rfl⟩ h
  · simp only [packWord, layoutWidth]
    omega
theorem Encode.pset (g d v : Nat) : Encode.Statement (.pset g d v) := by
  refine Encode.of_row _ 0 7 3 _ _ [g, d, v] _ rfl rfl (by decide) rfl rfl rfl ?_ ?_
  · intro h
    exact packable_of_fits _ _ _ rfl ⟨rfl, rfl⟩ h
  · simp only [packWord, layoutWidth]
    omega
theorem Encode.br (g o : Nat) : Encode.Statement (.br g o) := by
  refine Encode.of_row _ 0 8 0 _ _ [g, o] _ rfl rfl (by decide) rfl rfl rfl ?_ ?_
  · intro h
    exact packable_of_fits _ _ _ rfl ⟨rfl, rfl⟩ h
  · simp only [packWord, layoutWidth]
    omega
theorem Encode.call (g d o : Nat) : Encode.Statement (.call g d o) := by
  refine Encode.of_row _ 0 8 1 _ _ [g, d, o] _ rfl rfl (by decide) rfl rfl rfl ?_ ?_
  · intro h
    exact packable_of_fits _ _ _ rfl ⟨rfl, rfl⟩ h
  · simp only [packWord, layoutWidth]
    omega
theorem Encode.bra (g d a x : Nat) : Encode.Statement (.bra g d a x) := by
  refine Encode.of_row _ 0 8 2 _ _ [g, d, a, x] _ rfl rfl (by decide) rfl rfl rfl ?_ ?_
  · intro h
    exact packable_of_fits _ _ _ rfl ⟨rfl, rfl⟩ h
  · simp only [packWord, layoutWidth]
    omega
theorem Encode.ret (g a x : Nat) : Encode.Statement (.ret g a x) := by
  refine Encode.of_row _ 0 8 3 _ _ [g, a, x] _ rfl rfl (by decide) rfl rfl rfl ?_ ?_
  · intro h
    exact packable_of_fits _ _ _ rfl ⟨rfl, rfl⟩ h
  · simp only [packWord, layoutWidth]
    omega
theorem Encode.lpBegReg (g l a : Nat) : Encode.Statement (.lpBegReg g l a) := by
  refine Encode.of_row _ 0 9 0 _ _ [g, l, a] _ rfl rfl (by decide) rfl rfl rfl ?_ ?_
  · intro h
    exact packable_of_fits _ _ _ rfl ⟨rfl, rfl⟩ h
  · simp only [packWord, layoutWidth]
    omega
theorem Encode.lpBegImm (g l c : Nat) : Encode.Statement (.lpBegImm g l c) := by
  refine Encode.of_row _ 0 9 1 _ _ [g, l, c] _ rfl rfl (by decide) rfl rfl rfl ?_ ?_
  · intro h
    exact packable_of_fits _ _ _ rfl ⟨rfl, rfl⟩ h
  · simp only [packWord, layoutWidth]
    omega
theorem Encode.lpIdx (g d k : Nat) : Encode.Statement (.lpIdx g d k) := by
  refine Encode.of_row _ 0 9 2 _ _ [g, d, k] _ rfl rfl (by decide) rfl rfl rfl ?_ ?_
  · intro h
    exact packable_of_fits _ _ _ rfl ⟨rfl, rfl⟩ h
  · simp only [packWord, layoutWidth]
    omega
theorem Encode.lpBrk (g : Nat) : Encode.Statement (.lpBrk g) := by
  refine Encode.of_row _ 0 9 3 _ _ [g] _ rfl rfl (by decide) rfl rfl rfl ?_ ?_
  · intro h
    exact packable_of_fits _ _ _ rfl ⟨rfl, rfl⟩ h
  · simp only [packWord, layoutWidth]
    omega
theorem Encode.xcp (g f d s a l x : Nat) : Encode.Statement (.xcp g f d s a l x) := by
  refine Encode.of_row _ 0 10 0 _ _ [g, f, d, s, a, l, x] _ rfl rfl (by decide) rfl rfl rfl ?_ ?_
  · intro h
    exact packable_of_fits _ _ _ rfl ⟨rfl, rfl⟩ h
  · simp only [packWord, layoutWidth]
    omega
theorem Encode.xbase (g b r m k : Nat) : Encode.Statement (.xbase g b r m k) := by
  refine Encode.of_row _ 0 10 1 _ _ [g, b, r, m, k] _ rfl rfl (by decide) rfl rfl rfl ?_ ?_
  · intro h
    exact packable_of_fits _ _ _ rfl ⟨rfl, rfl⟩ h
  · simp only [packWord, layoutWidth]
    omega
theorem Encode.getm (g d : Nat) : Encode.Statement (.getm g d) := by
  refine Encode.of_row _ 0 11 0 _ _ [g, d] _ rfl rfl (by decide) rfl rfl rfl ?_ ?_
  · intro h
    exact packable_of_fits _ _ _ rfl ⟨rfl, rfl⟩ h
  · simp only [packWord, layoutWidth]
    omega
theorem Encode.setm (g a m : Nat) : Encode.Statement (.setm g a m) := by
  refine Encode.of_row _ 0 11 1 _ _ [g, a, m] _ rfl rfl (by decide) rfl rfl rfl ?_ ?_
  · intro h
    exact packable_of_fits _ _ _ rfl ⟨rfl, rfl⟩ h
  · simp only [packWord, layoutWidth]
    omega
theorem Encode.flGet (g d s : Nat) : Encode.Statement (.flGet g d s) := by
  refine Encode.of_row _ 0 11 2 _ _ [g, d, s] _ rfl rfl (by decide) rfl rfl rfl ?_ ?_
  · intro h
    exact packable_of_fits _ _ _ rfl ⟨rfl, rfl⟩ h
  · simp only [packWord, layoutWidth]
    omega
theorem Encode.flClr (g s m : Nat) : Encode.Statement (.flClr g s m) := by
  refine Encode.of_row _ 0 11 3 _ _ [g, s, m] _ rfl rfl (by decide) rfl rfl rfl ?_ ?_
  · intro h
    exact packable_of_fits _ _ _ rfl ⟨rfl, rfl⟩ h
  · simp only [packWord, layoutWidth]
    omega
theorem Encode.tlaunch (g d a x : Nat) : Encode.Statement (.tlaunch g d a x) := by
  refine Encode.of_row _ 0 12 0 _ _ [g, d, a, x] _ rfl rfl (by decide) rfl rfl rfl ?_ ?_
  · intro h
    exact packable_of_fits _ _ _ rfl ⟨rfl, rfl⟩ h
  · simp only [packWord, layoutWidth]
    omega
theorem Encode.tfork (g d a x : Nat) : Encode.Statement (.tfork g d a x) := by
  refine Encode.of_row _ 0 12 1 _ _ [g, d, a, x] _ rfl rfl (by decide) rfl rfl rfl ?_ ?_
  · intro h
    exact packable_of_fits _ _ _ rfl ⟨rfl, rfl⟩ h
  · simp only [packWord, layoutWidth]
    omega
theorem Encode.tjoin (g d a x : Nat) : Encode.Statement (.tjoin g d a x) := by
  refine Encode.of_row _ 0 12 2 _ _ [g, d, a, x] _ rfl rfl (by decide) rfl rfl rfl ?_ ?_
  · intro h
    exact packable_of_fits _ _ _ rfl ⟨rfl, rfl⟩ h
  · simp only [packWord, layoutWidth]
    omega
theorem Encode.tjoinAll (g : Nat) : Encode.Statement (.tjoinAll g) := by
  refine Encode.of_row _ 0 12 3 _ _ [g] _ rfl rfl (by decide) rfl rfl rfl ?_ ?_
  · intro h
    exact packable_of_fits _ _ _ rfl ⟨rfl, rfl⟩ h
  · simp only [packWord, layoutWidth]
    omega
theorem Encode.tkill (g a x : Nat) : Encode.Statement (.tkill g a x) := by
  refine Encode.of_row _ 0 12 4 _ _ [g, a, x] _ rfl rfl (by decide) rfl rfl rfl ?_ ?_
  · intro h
    exact packable_of_fits _ _ _ rfl ⟨rfl, rfl⟩ h
  · simp only [packWord, layoutWidth]
    omega
theorem Encode.rgnSet (g a x : Nat) : Encode.Statement (.rgnSet g a x) := by
  refine Encode.of_row _ 0 12 5 _ _ [g, a, x] _ rfl rfl (by decide) rfl rfl rfl ?_ ?_
  · intro h
    exact packable_of_fits _ _ _ rfl ⟨rfl, rfl⟩ h
  · simp only [packWord, layoutWidth]
    omega
theorem Encode.stgAdvImm (g i : Nat) : Encode.Statement (.stgAdvImm g i) := by
  refine Encode.of_row _ 0 12 6 _ _ [g, i] _ rfl rfl (by decide) rfl rfl rfl ?_ ?_
  · intro h
    exact packable_of_fits _ _ _ rfl ⟨rfl, rfl⟩ h
  · simp only [packWord, layoutWidth]
    omega
theorem Encode.stgAdvReg (g a x : Nat) : Encode.Statement (.stgAdvReg g a x) := by
  refine Encode.of_row _ 0 12 7 _ _ [g, a, x] _ rfl rfl (by decide) rfl rfl rfl ?_ ?_
  · intro h
    exact packable_of_fits _ _ _ rfl ⟨rfl, rfl⟩ h
  · simp only [packWord, layoutWidth]
    omega
theorem Encode.stgSetImm (g i : Nat) : Encode.Statement (.stgSetImm g i) := by
  refine Encode.of_row _ 0 12 8 _ _ [g, i] _ rfl rfl (by decide) rfl rfl rfl ?_ ?_
  · intro h
    exact packable_of_fits _ _ _ rfl ⟨rfl, rfl⟩ h
  · simp only [packWord, layoutWidth]
    omega
theorem Encode.stgSetReg (g a x : Nat) : Encode.Statement (.stgSetReg g a x) := by
  refine Encode.of_row _ 0 12 9 _ _ [g, a, x] _ rfl rfl (by decide) rfl rfl rfl ?_ ?_
  · intro h
    exact packable_of_fits _ _ _ rfl ⟨rfl, rfl⟩ h
  · simp only [packWord, layoutWidth]
    omega
theorem Encode.stgWlImm (g d i : Nat) : Encode.Statement (.stgWlImm g d i) := by
  refine Encode.of_row _ 0 12 10 _ _ [g, d, i] _ rfl rfl (by decide) rfl rfl rfl ?_ ?_
  · intro h
    exact packable_of_fits _ _ _ rfl ⟨rfl, rfl⟩ h
  · simp only [packWord, layoutWidth]
    omega
theorem Encode.stgWlReg (g d a x : Nat) : Encode.Statement (.stgWlReg g d a x) := by
  refine Encode.of_row _ 0 12 11 _ _ [g, d, a, x] _ rfl rfl (by decide) rfl rfl rfl ?_ ?_
  · intro h
    exact packable_of_fits _ _ _ rfl ⟨rfl, rfl⟩ h
  · simp only [packWord, layoutWidth]
    omega
theorem Encode.stgRd (g d k x : Nat) : Encode.Statement (.stgRd g d k x) := by
  refine Encode.of_row _ 0 12 12 _ _ [g, d, k, x] _ rfl rfl (by decide) rfl rfl rfl ?_ ?_
  · intro h
    exact packable_of_fits _ _ _ rfl ⟨rfl, rfl⟩ h
  · simp only [packWord, layoutWidth]
    omega
theorem Encode.tidSet (g t a x : Nat) : Encode.Statement (.tidSet g t a x) := by
  refine Encode.of_row _ 0 13 0 _ _ [g, t, a, x] _ rfl rfl (by decide) rfl rfl rfl ?_ ?_
  · intro h
    exact packable_of_fits _ _ _ rfl ⟨rfl, rfl⟩ h
  · simp only [packWord, layoutWidth]
    omega
theorem Encode.tidGet (g t d x w : Nat) : Encode.Statement (.tidGet g t d x w) := by
  refine Encode.of_row _ 0 13 1 _ _ [g, t, d, x, w] _ rfl rfl (by decide) rfl rfl rfl ?_ ?_
  · intro h
    exact packable_of_fits _ _ _ rfl ⟨rfl, rfl⟩ h
  · simp only [packWord, layoutWidth]
    omega
theorem Encode.header (d k s y n c t l : Nat) : Encode.Statement (.header d k s y n c t l) := by
  refine Encode.of_row _ 0 15 0 _ _ [d, k, s, y, n, c, t, l] _ rfl rfl (by decide) rfl rfl rfl ?_ ?_
  · intro h
    exact packable_of_fits _ _ _ rfl ⟨rfl, rfl⟩ h
  · simp only [packWord, layoutWidth]
    omega
theorem Encode.nopM (g : Nat) : Encode.Statement (.nopM g) := by
  refine Encode.of_row _ 1 0 0 _ _ [g] _ rfl rfl (by decide) rfl rfl rfl ?_ ?_
  · intro h
    exact packable_of_fits _ _ _ rfl ⟨rfl, rfl⟩ h
  · simp only [packWord, layoutWidth]
    omega
theorem Encode.waitcImm (g k i : Nat) : Encode.Statement (.waitcImm g k i) := by
  refine Encode.of_row _ 1 0 1 _ _ [g, k, i] _ rfl rfl (by decide) rfl rfl rfl ?_ ?_
  · intro h
    exact packable_of_fits _ _ _ rfl ⟨rfl, rfl⟩ h
  · simp only [packWord, layoutWidth]
    omega
theorem Encode.waitcReg (g k a x : Nat) : Encode.Statement (.waitcReg g k a x) := by
  refine Encode.of_row _ 1 0 2 _ _ [g, k, a, x] _ rfl rfl (by decide) rfl rfl rfl ?_ ?_
  · intro h
    exact packable_of_fits _ _ _ rfl ⟨rfl, rfl⟩ h
  · simp only [packWord, layoutWidth]
    omega
theorem Encode.xf (g a b : Nat) : Encode.Statement (.xf g a b) := by
  refine Encode.of_row _ 1 0 3 _ _ [g, a, b] _ rfl rfl (by decide) rfl rfl rfl ?_ ?_
  · intro h
    exact packable_of_fits _ _ _ rfl ⟨rfl, rfl⟩ h
  · simp only [packWord, layoutWidth]
    omega
theorem Encode.phase (g : Nat) : Encode.Statement (.phase g) := by
  refine Encode.of_row _ 1 0 4 _ _ [g] _ rfl rfl (by decide) rfl rfl rfl ?_ ?_
  · intro h
    exact packable_of_fits _ _ _ rfl ⟨rfl, rfl⟩ h
  · simp only [packWord, layoutWidth]
    omega
theorem Encode.rwsR (g p a l x : Nat) : Encode.Statement (.rwsR g p a l x) := by
  refine Encode.of_row _ 1 0 5 _ _ [g, p, a, l, x] _ rfl rfl (by decide) rfl rfl rfl ?_ ?_
  · intro h
    exact packable_of_fits _ _ _ rfl ⟨rfl, rfl⟩ h
  · simp only [packWord, layoutWidth]
    omega
theorem Encode.rwsW (g p a l x : Nat) : Encode.Statement (.rwsW g p a l x) := by
  refine Encode.of_row _ 1 0 6 _ _ [g, p, a, l, x] _ rfl rfl (by decide) rfl rfl rfl ?_ ?_
  · intro h
    exact packable_of_fits _ _ _ rfl ⟨rfl, rfl⟩ h
  · simp only [packWord, layoutWidth]
    omega
theorem Encode.fpost (g t f n : Nat) : Encode.Statement (.fpost g t f n) := by
  refine Encode.of_row _ 1 0 7 _ _ [g, t, f, n] _ rfl rfl (by decide) rfl rfl rfl ?_ ?_
  · intro h
    exact packable_of_fits _ _ _ rfl ⟨rfl, rfl⟩ h
  · simp only [packWord, layoutWidth]
    omega
theorem Encode.fset (g f a x : Nat) : Encode.Statement (.fset g f a x) := by
  refine Encode.of_row _ 1 0 8 _ _ [g, f, a, x] _ rfl rfl (by decide) rfl rfl rfl ?_ ?_
  · intro h
    exact packable_of_fits _ _ _ rfl ⟨rfl, rfl⟩ h
  · simp only [packWord, layoutWidth]
    omega
theorem Encode.rcIncReg (g c b x : Nat) : Encode.Statement (.rcIncReg g c b x) := by
  refine Encode.of_row _ 1 0 9 _ _ [g, c, b, x] _ rfl rfl (by decide) rfl rfl rfl ?_ ?_
  · intro h
    exact packable_of_fits _ _ _ rfl ⟨rfl, rfl⟩ h
  · simp only [packWord, layoutWidth]
    omega
theorem Encode.rcIncImm (g c x m : Nat) : Encode.Statement (.rcIncImm g c x m) := by
  refine Encode.of_row _ 1 0 10 _ _ [g, c, x, m] _ rfl rfl (by decide) rfl rfl rfl ?_ ?_
  · intro h
    exact packable_of_fits _ _ _ rfl ⟨rfl, rfl⟩ h
  · simp only [packWord, layoutWidth]
    omega
theorem Encode.rcSnap (g a x : Nat) : Encode.Statement (.rcSnap g a x) := by
  refine Encode.of_row _ 1 0 11 _ _ [g, a, x] _ rfl rfl (by decide) rfl rfl rfl ?_ ?_
  · intro h
    exact packable_of_fits _ _ _ rfl ⟨rfl, rfl⟩ h
  · simp only [packWord, layoutWidth]
    omega
theorem Encode.lb (g f d b x o : Nat) : Encode.Statement (.lb g f d b x o) := by
  refine Encode.of_row _ 1 1 0 _ _ [g, f, d, b, x, o] _ rfl rfl (by decide) rfl rfl rfl ?_ ?_
  · intro h
    exact packable_of_fits _ _ _ rfl ⟨rfl, rfl⟩ h
  · simp only [packWord, layoutWidth]
    omega
theorem Encode.lbn (g f d b x o : Nat) : Encode.Statement (.lbn g f d b x o) := by
  refine Encode.of_row _ 1 1 1 _ _ [g, f, d, b, x, o] _ rfl rfl (by decide) rfl rfl rfl ?_ ?_
  · intro h
    exact packable_of_fits _ _ _ rfl ⟨rfl, rfl⟩ h
  · simp only [packWord, layoutWidth]
    omega
theorem Encode.lh (g f d b x o : Nat) : Encode.Statement (.lh g f d b x o) := by
  refine Encode.of_row _ 1 1 2 _ _ [g, f, d, b, x, o] _ rfl rfl (by decide) rfl rfl rfl ?_ ?_
  · intro h
    exact packable_of_fits _ _ _ rfl ⟨rfl, rfl⟩ h
  · simp only [packWord, layoutWidth]
    omega
theorem Encode.lhn (g f d b x o : Nat) : Encode.Statement (.lhn g f d b x o) := by
  refine Encode.of_row _ 1 1 3 _ _ [g, f, d, b, x, o] _ rfl rfl (by decide) rfl rfl rfl ?_ ?_
  · intro h
    exact packable_of_fits _ _ _ rfl ⟨rfl, rfl⟩ h
  · simp only [packWord, layoutWidth]
    omega
theorem Encode.lw (g f d b x o : Nat) : Encode.Statement (.lw g f d b x o) := by
  refine Encode.of_row _ 1 1 4 _ _ [g, f, d, b, x, o] _ rfl rfl (by decide) rfl rfl rfl ?_ ?_
  · intro h
    exact packable_of_fits _ _ _ rfl ⟨rfl, rfl⟩ h
  · simp only [packWord, layoutWidth]
    omega
theorem Encode.lwn (g f d b x o : Nat) : Encode.Statement (.lwn g f d b x o) := by
  refine Encode.of_row _ 1 1 5 _ _ [g, f, d, b, x, o] _ rfl rfl (by decide) rfl rfl rfl ?_ ?_
  · intro h
    exact packable_of_fits _ _ _ rfl ⟨rfl, rfl⟩ h
  · simp only [packWord, layoutWidth]
    omega
theorem Encode.ld (g f d b x o : Nat) : Encode.Statement (.ld g f d b x o) := by
  refine Encode.of_row _ 1 1 6 _ _ [g, f, d, b, x, o] _ rfl rfl (by decide) rfl rfl rfl ?_ ?_
  · intro h
    exact packable_of_fits _ _ _ rfl ⟨rfl, rfl⟩ h
  · simp only [packWord, layoutWidth]
    omega
theorem Encode.sb (g f s b x o : Nat) : Encode.Statement (.sb g f s b x o) := by
  refine Encode.of_row _ 1 2 0 _ _ [g, f, s, b, x, o] _ rfl rfl (by decide) rfl rfl rfl ?_ ?_
  · intro h
    exact packable_of_fits _ _ _ rfl ⟨rfl, rfl⟩ h
  · simp only [packWord, layoutWidth]
    omega
theorem Encode.sh (g f s b x o : Nat) : Encode.Statement (.sh g f s b x o) := by
  refine Encode.of_row _ 1 2 1 _ _ [g, f, s, b, x, o] _ rfl rfl (by decide) rfl rfl rfl ?_ ?_
  · intro h
    exact packable_of_fits _ _ _ rfl ⟨rfl, rfl⟩ h
  · simp only [packWord, layoutWidth]
    omega
theorem Encode.sw (g f s b x o : Nat) : Encode.Statement (.sw g f s b x o) := by
  refine Encode.of_row _ 1 2 2 _ _ [g, f, s, b, x, o] _ rfl rfl (by decide) rfl rfl rfl ?_ ?_
  · intro h
    exact packable_of_fits _ _ _ rfl ⟨rfl, rfl⟩ h
  · simp only [packWord, layoutWidth]
    omega
theorem Encode.sd (g f s b x o : Nat) : Encode.Statement (.sd g f s b x o) := by
  refine Encode.of_row _ 1 2 3 _ _ [g, f, s, b, x, o] _ rfl rfl (by decide) rfl rfl rfl ?_ ?_
  · intro h
    exact packable_of_fits _ _ _ rfl ⟨rfl, rfl⟩ h
  · simp only [packWord, layoutWidth]
    omega
theorem Encode.vld (g f d b m x o : Nat) : Encode.Statement (.vld g f d b m x o) := by
  refine Encode.of_row _ 1 3 0 _ _ [g, f, d, b, m, x, o] _ rfl rfl (by decide) rfl rfl rfl ?_ ?_
  · intro h
    exact packable_of_fits _ _ _ rfl ⟨rfl, rfl⟩ h
  · simp only [packWord, layoutWidth]
    omega
theorem Encode.vst (g f d b m x o : Nat) : Encode.Statement (.vst g f d b m x o) := by
  refine Encode.of_row _ 1 3 1 _ _ [g, f, d, b, m, x, o] _ rfl rfl (by decide) rfl rfl rfl ?_ ?_
  · intro h
    exact packable_of_fits _ _ _ rfl ⟨rfl, rfl⟩ h
  · simp only [packWord, layoutWidth]
    omega
theorem Encode.vldx (g f d b m x i : Nat) : Encode.Statement (.vldx g f d b m x i) := by
  refine Encode.of_row _ 1 3 2 _ _ [g, f, d, b, m, x, i] _ rfl rfl (by decide) rfl rfl rfl ?_ ?_
  · intro h
    exact packable_of_fits _ _ _ rfl ⟨rfl, rfl⟩ h
  · simp only [packWord, layoutWidth]
    omega
theorem Encode.vstx (g f d b m x i : Nat) : Encode.Statement (.vstx g f d b m x i) := by
  refine Encode.of_row _ 1 3 3 _ _ [g, f, d, b, m, x, i] _ rfl rfl (by decide) rfl rfl rfl ?_ ?_
  · intro h
    exact packable_of_fits _ _ _ rfl ⟨rfl, rfl⟩ h
  · simp only [packWord, layoutWidth]
    omega
theorem Encode.vldb (g f d b m x o : Nat) : Encode.Statement (.vldb g f d b m x o) := by
  refine Encode.of_row _ 1 3 4 _ _ [g, f, d, b, m, x, o] _ rfl rfl (by decide) rfl rfl rfl ?_ ?_
  · intro h
    exact packable_of_fits _ _ _ rfl ⟨rfl, rfl⟩ h
  · simp only [packWord, layoutWidth]
    omega
theorem Encode.spl (g f r x o : Nat) : Encode.Statement (.spl g f r x o) := by
  refine Encode.of_row _ 1 4 0 _ _ [g, f, r, x, o] _ rfl rfl (by decide) rfl rfl rfl ?_ ?_
  · intro h
    exact packable_of_fits _ _ _ rfl ⟨rfl, rfl⟩ h
  · simp only [packWord, layoutWidth]
    omega
theorem Encode.sps (g f r x o : Nat) : Encode.Statement (.sps g f r x o) := by
  refine Encode.of_row _ 1 4 1 _ _ [g, f, r, x, o] _ rfl rfl (by decide) rfl rfl rfl ?_ ?_
  · intro h
    exact packable_of_fits _ _ _ rfl ⟨rfl, rfl⟩ h
  · simp only [packWord, layoutWidth]
    omega
theorem Encode.qbind (g q a b : Nat) : Encode.Statement (.qbind g q a b) := by
  refine Encode.of_row _ 1 5 0 _ _ [g, q, a, b] _ rfl rfl (by decide) rfl rfl rfl ?_ ?_
  · intro h
    exact packable_of_fits _ _ _ rfl ⟨rfl, rfl⟩ h
  · simp only [packWord, layoutWidth]
    omega
theorem Encode.qld (g q f d k o : Nat) : Encode.Statement (.qld g q f d k o) := by
  refine Encode.of_row _ 1 5 1 _ _ [g, q, f, d, k, o] _ rfl rfl (by decide) rfl rfl rfl ?_ ?_
  · intro h
    exact packable_of_fits _ _ _ rfl ⟨rfl, rfl⟩ h
  · simp only [packWord, layoutWidth]
    omega
theorem Encode.qst (g q f d k o : Nat) : Encode.Statement (.qst g q f d k o) := by
  refine Encode.of_row _ 1 5 2 _ _ [g, q, f, d, k, o] _ rfl rfl (by decide) rfl rfl rfl ?_ ?_
  · intro h
    exact packable_of_fits _ _ _ rfl ⟨rfl, rfl⟩ h
  · simp only [packWord, layoutWidth]
    omega
theorem Encode.qadvP (g q n : Nat) : Encode.Statement (.qadvP g q n) := by
  refine Encode.of_row _ 1 5 3 _ _ [g, q, n] _ rfl rfl (by decide) rfl rfl rfl ?_ ?_
  · intro h
    exact packable_of_fits _ _ _ rfl ⟨rfl, rfl⟩ h
  · simp only [packWord, layoutWidth]
    omega
theorem Encode.qadvC (g q n : Nat) : Encode.Statement (.qadvC g q n) := by
  refine Encode.of_row _ 1 5 4 _ _ [g, q, n] _ rfl rfl (by decide) rfl rfl rfl ?_ ?_
  · intro h
    exact packable_of_fits _ _ _ rfl ⟨rfl, rfl⟩ h
  · simp only [packWord, layoutWidth]
    omega
theorem Encode.qstat (g q d k : Nat) : Encode.Statement (.qstat g q d k) := by
  refine Encode.of_row _ 1 5 5 _ _ [g, q, d, k] _ rfl rfl (by decide) rfl rfl rfl ?_ ?_
  · intro h
    exact packable_of_fits _ _ _ rfl ⟨rfl, rfl⟩ h
  · simp only [packWord, layoutWidth]
    omega
theorem Encode.atomAdd (g d a b x : Nat) : Encode.Statement (.atomAdd g d a b x) := by
  refine Encode.of_row _ 1 6 0 _ _ [g, d, a, b, x] _ rfl rfl (by decide) rfl rfl rfl ?_ ?_
  · intro h
    exact packable_of_fits _ _ _ rfl ⟨rfl, rfl⟩ h
  · simp only [packWord, layoutWidth]
    omega
theorem Encode.atomMin (g d a b n x : Nat) : Encode.Statement (.atomMin g d a b n x) := by
  refine Encode.of_row _ 1 6 1 _ _ [g, d, a, b, n, x] _ rfl rfl (by decide) rfl rfl rfl ?_ ?_
  · intro h
    exact packable_of_fits _ _ _ rfl ⟨rfl, rfl⟩ h
  · simp only [packWord, layoutWidth]
    omega
theorem Encode.atomMax (g d a b n x : Nat) : Encode.Statement (.atomMax g d a b n x) := by
  refine Encode.of_row _ 1 6 2 _ _ [g, d, a, b, n, x] _ rfl rfl (by decide) rfl rfl rfl ?_ ?_
  · intro h
    exact packable_of_fits _ _ _ rfl ⟨rfl, rfl⟩ h
  · simp only [packWord, layoutWidth]
    omega
theorem Encode.atomXchg (g d a b x : Nat) : Encode.Statement (.atomXchg g d a b x) := by
  refine Encode.of_row _ 1 6 3 _ _ [g, d, a, b, x] _ rfl rfl (by decide) rfl rfl rfl ?_ ?_
  · intro h
    exact packable_of_fits _ _ _ rfl ⟨rfl, rfl⟩ h
  · simp only [packWord, layoutWidth]
    omega
theorem Encode.atomCas (g d a b c x : Nat) : Encode.Statement (.atomCas g d a b c x) := by
  refine Encode.of_row _ 1 6 4 _ _ [g, d, a, b, c, x] _ rfl rfl (by decide) rfl rfl rfl ?_ ?_
  · intro h
    exact packable_of_fits _ _ _ rfl ⟨rfl, rfl⟩ h
  · simp only [packWord, layoutWidth]
    omega
theorem Encode.atomIncb (g d a p c x : Nat) : Encode.Statement (.atomIncb g d a p c x) := by
  refine Encode.of_row _ 1 6 5 _ _ [g, d, a, p, c, x] _ rfl rfl (by decide) rfl rfl rfl ?_ ?_
  · intro h
    exact packable_of_fits _ _ _ rfl ⟨rfl, rfl⟩ h
  · simp only [packWord, layoutWidth]
    omega
theorem Encode.aadd (g d a x b : Nat) : Encode.Statement (.aadd g d a x b) := by
  refine Encode.of_row _ 1 7 0 _ _ [g, d, a, x, b] _ rfl rfl (by decide) rfl rfl rfl ?_ ?_
  · intro h
    exact packable_of_fits _ _ _ rfl ⟨rfl, rfl⟩ h
  · simp only [packWord, layoutWidth]
    omega
theorem Encode.aaddi (g d a x i : Nat) : Encode.Statement (.aaddi g d a x i) := by
  refine Encode.of_row _ 1 7 1 _ _ [g, d, a, x, i] _ rfl rfl (by decide) rfl rfl rfl ?_ ?_
  · intro h
    exact packable_of_fits _ _ _ rfl ⟨rfl, rfl⟩ h
  · simp only [packWord, layoutWidth]
    omega
theorem Encode.ashl (g d a x b k : Nat) : Encode.Statement (.ashl g d a x b k) := by
  refine Encode.of_row _ 1 7 2 _ _ [g, d, a, x, b, k] _ rfl rfl (by decide) rfl rfl rfl ?_ ?_
  · intro h
    exact packable_of_fits _ _ _ rfl ⟨rfl, rfl⟩ h
  · simp only [packWord, layoutWidth]
    omega
theorem Encode.amov (g d a x e s : Nat) : Encode.Statement (.amov g d a x e s) := by
  refine Encode.of_row _ 1 7 3 _ _ [g, d, a, x, e, s] _ rfl rfl (by decide) rfl rfl rfl ?_ ?_
  · intro h
    exact packable_of_fits _ _ _ rfl ⟨rfl, rfl⟩ h
  · simp only [packWord, layoutWidth]
    omega
theorem Encode.sphCp (g d s c x u v : Nat) : Encode.Statement (.sphCp g d s c x u v) := by
  refine Encode.of_row _ 1 8 0 _ _ [g, d, s, c, x, u, v] _ rfl rfl (by decide) rfl rfl rfl ?_ ?_
  · intro h
    exact packable_of_fits _ _ _ rfl ⟨rfl, rfl⟩ h
  · simp only [packWord, layoutWidth]
    omega
theorem Encode.sphGth (g d t c x : Nat) : Encode.Statement (.sphGth g d t c x) := by
  refine Encode.of_row _ 1 8 1 _ _ [g, d, t, c, x] _ rfl rfl (by decide) rfl rfl rfl ?_ ?_
  · intro h
    exact packable_of_fits _ _ _ rfl ⟨rfl, rfl⟩ h
  · simp only [packWord, layoutWidth]
    omega
theorem Encode.sphSct (g t s c x : Nat) : Encode.Statement (.sphSct g t s c x) := by
  refine Encode.of_row _ 1 8 2 _ _ [g, t, s, c, x] _ rfl rfl (by decide) rfl rfl rfl ?_ ?_
  · intro h
    exact packable_of_fits _ _ _ rfl ⟨rfl, rfl⟩ h
  · simp only [packWord, layoutWidth]
    omega
theorem Encode.sphSctAdd (g t s c x : Nat) : Encode.Statement (.sphSctAdd g t s c x) := by
  refine Encode.of_row _ 1 8 3 _ _ [g, t, s, c, x] _ rfl rfl (by decide) rfl rfl rfl ?_ ?_
  · intro h
    exact packable_of_fits _ _ _ rfl ⟨rfl, rfl⟩ h
  · simp only [packWord, layoutWidth]
    omega
theorem Encode.sphRed (g d s c x u v : Nat) : Encode.Statement (.sphRed g d s c x u v) := by
  refine Encode.of_row _ 1 8 4 _ _ [g, d, s, c, x, u, v] _ rfl rfl (by decide) rfl rfl rfl ?_ ?_
  · intro h
    exact packable_of_fits _ _ _ rfl ⟨rfl, rfl⟩ h
  · simp only [packWord, layoutWidth]
    omega
theorem Encode.sphFill (g d p c x v : Nat) : Encode.Statement (.sphFill g d p c x v) := by
  refine Encode.of_row _ 1 8 5 _ _ [g, d, p, c, x, v] _ rfl rfl (by decide) rfl rfl rfl ?_ ?_
  · intro h
    exact packable_of_fits _ _ _ rfl ⟨rfl, rfl⟩ h
  · simp only [packWord, layoutWidth]
    omega
theorem Encode.sphAtom (g d t c x o : Nat) : Encode.Statement (.sphAtom g d t c x o) := by
  refine Encode.of_row _ 1 8 6 _ _ [g, d, t, c, x, o] _ rfl rfl (by decide) rfl rfl rfl ?_ ?_
  · intro h
    exact packable_of_fits _ _ _ rfl ⟨rfl, rfl⟩ h
  · simp only [packWord, layoutWidth]
    omega
theorem Encode.sphCnl (g a l x : Nat) : Encode.Statement (.sphCnl g a l x) := by
  refine Encode.of_row _ 1 8 7 _ _ [g, a, l, x] _ rfl rfl (by decide) rfl rfl rfl ?_ ?_
  · intro h
    exact packable_of_fits _ _ _ rfl ⟨rfl, rfl⟩ h
  · simp only [packWord, layoutWidth]
    omega
theorem Encode.sphPre (g s c x : Nat) : Encode.Statement (.sphPre g s c x) := by
  refine Encode.of_row _ 1 8 8 _ _ [g, s, c, x] _ rfl rfl (by decide) rfl rfl rfl ?_ ?_
  · intro h
    exact packable_of_fits _ _ _ rfl ⟨rfl, rfl⟩ h
  · simp only [packWord, layoutWidth]
    omega
theorem Encode.sphStat (g d s x : Nat) : Encode.Statement (.sphStat g d s x) := by
  refine Encode.of_row _ 1 8 9 _ _ [g, d, s, x] _ rfl rfl (by decide) rfl rfl rfl ?_ ?_
  · intro h
    exact packable_of_fits _ _ _ rfl ⟨rfl, rfl⟩ h
  · simp only [packWord, layoutWidth]
    omega
theorem Encode.sphImm (g d v c x w : Nat) : Encode.Statement (.sphImm g d v c x w) := by
  refine Encode.of_row _ 1 8 10 _ _ [g, d, v, c, x, w] _ rfl rfl (by decide) rfl rfl rfl ?_ ?_
  · intro h
    exact packable_of_fits _ _ _ rfl ⟨rfl, rfl⟩ h
  · simp only [packWord, layoutWidth]
    omega
theorem Encode.nopV (g : Nat) : Encode.Statement (.nopV g) := by
  refine Encode.of_row _ 2 0 0 _ _ [g] _ rfl rfl (by decide) rfl rfl rfl ?_ ?_
  · intro h
    exact packable_of_fits _ _ _ rfl ⟨rfl, rfl⟩ h
  · simp only [packWord, layoutWidth]
    omega
theorem Encode.ffma (g d a b m t r : Nat) : Encode.Statement (.ffma g d a b m t r) := by
  refine Encode.of_row _ 2 1 0 _ _ [g, d, a, b, m, t, r] _ rfl rfl (by decide) rfl rfl rfl ?_ ?_
  · intro h
    exact packable_of_fits _ _ _ rfl ⟨rfl, rfl⟩ h
  · simp only [packWord, layoutWidth]
    omega
theorem Encode.ffms (g d a b m t r : Nat) : Encode.Statement (.ffms g d a b m t r) := by
  refine Encode.of_row _ 2 2 0 _ _ [g, d, a, b, m, t, r] _ rfl rfl (by decide) rfl rfl rfl ?_ ?_
  · intro h
    exact packable_of_fits _ _ _ rfl ⟨rfl, rfl⟩ h
  · simp only [packWord, layoutWidth]
    omega
theorem Encode.fnma (g d a b m t r : Nat) : Encode.Statement (.fnma g d a b m t r) := by
  refine Encode.of_row _ 2 3 0 _ _ [g, d, a, b, m, t, r] _ rfl rfl (by decide) rfl rfl rfl ?_ ?_
  · intro h
    exact packable_of_fits _ _ _ rfl ⟨rfl, rfl⟩ h
  · simp only [packWord, layoutWidth]
    omega
theorem Encode.fadd (g d a b m t r : Nat) : Encode.Statement (.fadd g d a b m t r) := by
  refine Encode.of_row _ 2 4 0 _ _ [g, d, a, b, m, t, r] _ rfl rfl (by decide) rfl rfl rfl ?_ ?_
  · intro h
    exact packable_of_fits _ _ _ rfl ⟨rfl, rfl⟩ h
  · simp only [packWord, layoutWidth]
    omega
theorem Encode.fsub (g d a b m t r : Nat) : Encode.Statement (.fsub g d a b m t r) := by
  refine Encode.of_row _ 2 5 0 _ _ [g, d, a, b, m, t, r] _ rfl rfl (by decide) rfl rfl rfl ?_ ?_
  · intro h
    exact packable_of_fits _ _ _ rfl ⟨rfl, rfl⟩ h
  · simp only [packWord, layoutWidth]
    omega
theorem Encode.fmul (g d a b m t r : Nat) : Encode.Statement (.fmul g d a b m t r) := by
  refine Encode.of_row _ 2 6 0 _ _ [g, d, a, b, m, t, r] _ rfl rfl (by decide) rfl rfl rfl ?_ ?_
  · intro h
    exact packable_of_fits _ _ _ rfl ⟨rfl, rfl⟩ h
  · simp only [packWord, layoutWidth]
    omega
theorem Encode.fdiv (g d a b m t r : Nat) : Encode.Statement (.fdiv g d a b m t r) := by
  refine Encode.of_row _ 2 7 0 _ _ [g, d, a, b, m, t, r] _ rfl rfl (by decide) rfl rfl rfl ?_ ?_
  · intro h
    exact packable_of_fits _ _ _ rfl ⟨rfl, rfl⟩ h
  · simp only [packWord, layoutWidth]
    omega
theorem Encode.fsqrt (g d a m t r : Nat) : Encode.Statement (.fsqrt g d a m t r) := by
  refine Encode.of_row _ 2 8 0 _ _ [g, d, a, m, t, r] _ rfl rfl (by decide) rfl rfl rfl ?_ ?_
  · intro h
    exact packable_of_fits _ _ _ rfl ⟨rfl, rfl⟩ h
  · simp only [packWord, layoutWidth]
    omega
theorem Encode.frcp (g d a m t r : Nat) : Encode.Statement (.frcp g d a m t r) := by
  refine Encode.of_row _ 2 8 1 _ _ [g, d, a, m, t, r] _ rfl rfl (by decide) rfl rfl rfl ?_ ?_
  · intro h
    exact packable_of_fits _ _ _ rfl ⟨rfl, rfl⟩ h
  · simp only [packWord, layoutWidth]
    omega
theorem Encode.frsq (g d a m t r : Nat) : Encode.Statement (.frsq g d a m t r) := by
  refine Encode.of_row _ 2 8 2 _ _ [g, d, a, m, t, r] _ rfl rfl (by decide) rfl rfl rfl ?_ ?_
  · intro h
    exact packable_of_fits _ _ _ rfl ⟨rfl, rfl⟩ h
  · simp only [packWord, layoutWidth]
    omega
theorem Encode.fexp2 (g d a m t r : Nat) : Encode.Statement (.fexp2 g d a m t r) := by
  refine Encode.of_row _ 2 8 3 _ _ [g, d, a, m, t, r] _ rfl rfl (by decide) rfl rfl rfl ?_ ?_
  · intro h
    exact packable_of_fits _ _ _ rfl ⟨rfl, rfl⟩ h
  · simp only [packWord, layoutWidth]
    omega
theorem Encode.flog2 (g d a m t r : Nat) : Encode.Statement (.flog2 g d a m t r) := by
  refine Encode.of_row _ 2 8 4 _ _ [g, d, a, m, t, r] _ rfl rfl (by decide) rfl rfl rfl ?_ ?_
  · intro h
    exact packable_of_fits _ _ _ rfl ⟨rfl, rfl⟩ h
  · simp only [packWord, layoutWidth]
    omega
theorem Encode.fcvt (g d a e s m r : Nat) : Encode.Statement (.fcvt g d a e s m r) := by
  refine Encode.of_row _ 2 9 0 _ _ [g, d, a, e, s, m, r] _ rfl rfl (by decide) rfl rfl rfl ?_ ?_
  · intro h
    exact packable_of_fits _ _ _ rfl ⟨rfl, rfl⟩ h
  · simp only [packWord, layoutWidth]
    omega
theorem Encode.fmin (g d a b m t : Nat) : Encode.Statement (.fmin g d a b m t) := by
  refine Encode.of_row _ 2 10 0 _ _ [g, d, a, b, m, t] _ rfl rfl (by decide) rfl rfl rfl ?_ ?_
  · intro h
    exact packable_of_fits _ _ _ rfl ⟨rfl, rfl⟩ h
  · simp only [packWord, layoutWidth]
    omega
theorem Encode.fmax (g d a b m t : Nat) : Encode.Statement (.fmax g d a b m t) := by
  refine Encode.of_row _ 2 10 1 _ _ [g, d, a, b, m, t] _ rfl rfl (by decide) rfl rfl rfl ?_ ?_
  · intro h
    exact packable_of_fits _ _ _ rfl ⟨rfl, rfl⟩ h
  · simp only [packWord, layoutWidth]
    omega
theorem Encode.fabs (g d a m t : Nat) : Encode.Statement (.fabs g d a m t) := by
  refine Encode.of_row _ 2 10 2 _ _ [g, d, a, m, t] _ rfl rfl (by decide) rfl rfl rfl ?_ ?_
  · intro h
    exact packable_of_fits _ _ _ rfl ⟨rfl, rfl⟩ h
  · simp only [packWord, layoutWidth]
    omega
theorem Encode.fneg (g d a m t : Nat) : Encode.Statement (.fneg g d a m t) := by
  refine Encode.of_row _ 2 10 3 _ _ [g, d, a, m, t] _ rfl rfl (by decide) rfl rfl rfl ?_ ?_
  · intro h
    exact packable_of_fits _ _ _ rfl ⟨rfl, rfl⟩ h
  · simp only [packWord, layoutWidth]
    omega
theorem Encode.fscl (g d a b m t : Nat) : Encode.Statement (.fscl g d a b m t) := by
  refine Encode.of_row _ 2 10 4 _ _ [g, d, a, b, m, t] _ rfl rfl (by decide) rfl rfl rfl ?_ ?_
  · intro h
    exact packable_of_fits _ _ _ rfl ⟨rfl, rfl⟩ h
  · simp only [packWord, layoutWidth]
    omega
theorem Encode.fcmp (g e a b m t c : Nat) : Encode.Statement (.fcmp g e a b m t c) := by
  refine Encode.of_row _ 2 11 0 _ _ [g, e, a, b, m, t, c] _ rfl rfl (by decide) rfl rfl rfl ?_ ?_
  · intro h
    exact packable_of_fits _ _ _ rfl ⟨rfl, rfl⟩ h
  · simp only [packWord, layoutWidth]
    omega
theorem Encode.icmp (g e a b m t c : Nat) : Encode.Statement (.icmp g e a b m t c) := by
  refine Encode.of_row _ 2 11 1 _ _ [g, e, a, b, m, t, c] _ rfl rfl (by decide) rfl rfl rfl ?_ ?_
  · intro h
    exact packable_of_fits _ _ _ rfl ⟨rfl, rfl⟩ h
  · simp only [packWord, layoutWidth]
    omega
theorem Encode.iadd (g d a b m n s : Nat) : Encode.Statement (.iadd g d a b m n s) := by
  refine Encode.of_row _ 2 12 0 _ _ [g, d, a, b, m, n, s] _ rfl rfl (by decide) rfl rfl rfl ?_ ?_
  · intro h
    exact packable_of_fits _ _ _ rfl ⟨rfl, rfl⟩ h
  · simp only [packWord, layoutWidth]
    omega
theorem Encode.isub (g d a b m n s : Nat) : Encode.Statement (.isub g d a b m n s) := by
  refine Encode.of_row _ 2 12 1 _ _ [g, d, a, b, m, n, s] _ rfl rfl (by decide) rfl rfl rfl ?_ ?_
  · intro h
    exact packable_of_fits _ _ _ rfl ⟨rfl, rfl⟩ h
  · simp only [packWord, layoutWidth]
    omega
theorem Encode.imul (g d a b m n s : Nat) : Encode.Statement (.imul g d a b m n s) := by
  refine Encode.of_row _ 2 12 2 _ _ [g, d, a, b, m, n, s] _ rfl rfl (by decide) rfl rfl rfl ?_ ?_
  · intro h
    exact packable_of_fits _ _ _ rfl ⟨rfl, rfl⟩ h
  · simp only [packWord, layoutWidth]
    omega
theorem Encode.imin (g d a b m n s : Nat) : Encode.Statement (.imin g d a b m n s) := by
  refine Encode.of_row _ 2 12 3 _ _ [g, d, a, b, m, n, s] _ rfl rfl (by decide) rfl rfl rfl ?_ ?_
  · intro h
    exact packable_of_fits _ _ _ rfl ⟨rfl, rfl⟩ h
  · simp only [packWord, layoutWidth]
    omega
theorem Encode.imax (g d a b m n s : Nat) : Encode.Statement (.imax g d a b m n s) := by
  refine Encode.of_row _ 2 12 4 _ _ [g, d, a, b, m, n, s] _ rfl rfl (by decide) rfl rfl rfl ?_ ?_
  · intro h
    exact packable_of_fits _ _ _ rfl ⟨rfl, rfl⟩ h
  · simp only [packWord, layoutWidth]
    omega
theorem Encode.iand (g d a b m n s : Nat) : Encode.Statement (.iand g d a b m n s) := by
  refine Encode.of_row _ 2 13 0 _ _ [g, d, a, b, m, n, s] _ rfl rfl (by decide) rfl rfl rfl ?_ ?_
  · intro h
    exact packable_of_fits _ _ _ rfl ⟨rfl, rfl⟩ h
  · simp only [packWord, layoutWidth]
    omega
theorem Encode.ior (g d a b m n s : Nat) : Encode.Statement (.ior g d a b m n s) := by
  refine Encode.of_row _ 2 13 1 _ _ [g, d, a, b, m, n, s] _ rfl rfl (by decide) rfl rfl rfl ?_ ?_
  · intro h
    exact packable_of_fits _ _ _ rfl ⟨rfl, rfl⟩ h
  · simp only [packWord, layoutWidth]
    omega
theorem Encode.ixor (g d a b m n s : Nat) : Encode.Statement (.ixor g d a b m n s) := by
  refine Encode.of_row _ 2 13 2 _ _ [g, d, a, b, m, n, s] _ rfl rfl (by decide) rfl rfl rfl ?_ ?_
  · intro h
    exact packable_of_fits _ _ _ rfl ⟨rfl, rfl⟩ h
  · simp only [packWord, layoutWidth]
    omega
theorem Encode.ishl (g d a b m n s : Nat) : Encode.Statement (.ishl g d a b m n s) := by
  refine Encode.of_row _ 2 13 3 _ _ [g, d, a, b, m, n, s] _ rfl rfl (by decide) rfl rfl rfl ?_ ?_
  · intro h
    exact packable_of_fits _ _ _ rfl ⟨rfl, rfl⟩ h
  · simp only [packWord, layoutWidth]
    omega
theorem Encode.ishr (g d a b m n s : Nat) : Encode.Statement (.ishr g d a b m n s) := by
  refine Encode.of_row _ 2 13 4 _ _ [g, d, a, b, m, n, s] _ rfl rfl (by decide) rfl rfl rfl ?_ ?_
  · intro h
    exact packable_of_fits _ _ _ rfl ⟨rfl, rfl⟩ h
  · simp only [packWord, layoutWidth]
    omega
theorem Encode.isha (g d a b m n s : Nat) : Encode.Statement (.isha g d a b m n s) := by
  refine Encode.of_row _ 2 13 5 _ _ [g, d, a, b, m, n, s] _ rfl rfl (by decide) rfl rfl rfl ?_ ?_
  · intro h
    exact packable_of_fits _ _ _ rfl ⟨rfl, rfl⟩ h
  · simp only [packWord, layoutWidth]
    omega
theorem Encode.vsel (g d a m s : Nat) : Encode.Statement (.vsel g d a m s) := by
  refine Encode.of_row _ 2 14 0 _ _ [g, d, a, m, s] _ rfl rfl (by decide) rfl rfl rfl ?_ ?_
  · intro h
    exact packable_of_fits _ _ _ rfl ⟨rfl, rfl⟩ h
  · simp only [packWord, layoutWidth]
    omega
theorem Encode.vperm (g d a b s : Nat) : Encode.Statement (.vperm g d a b s) := by
  refine Encode.of_row _ 2 14 1 _ _ [g, d, a, b, s] _ rfl rfl (by decide) rfl rfl rfl ?_ ?_
  · intro h
    exact packable_of_fits _ _ _ rfl ⟨rfl, rfl⟩ h
  · simp only [packWord, layoutWidth]
    omega
theorem Encode.vbcLane (g d s a l : Nat) : Encode.Statement (.vbcLane g d s a l) := by
  refine Encode.of_row _ 2 14 2 _ _ [g, d, s, a, l] _ rfl rfl (by decide) rfl rfl rfl ?_ ?_
  · intro h
    exact packable_of_fits _ _ _ rfl ⟨rfl, rfl⟩ h
  · simp only [packWord, layoutWidth]
    omega
theorem Encode.vbcImm (g d s p i : Nat) : Encode.Statement (.vbcImm g d s p i) := by
  refine Encode.of_row _ 2 14 3 _ _ [g, d, s, p, i] _ rfl rfl (by decide) rfl rfl rfl ?_ ?_
  · intro h
    exact packable_of_fits _ _ _ rfl ⟨rfl, rfl⟩ h
  · simp only [packWord, layoutWidth]
    omega
theorem Encode.vmov (g d a m s : Nat) : Encode.Statement (.vmov g d a m s) := by
  refine Encode.of_row _ 2 14 4 _ _ [g, d, a, m, s] _ rfl rfl (by decide) rfl rfl rfl ?_ ?_
  · intro h
    exact packable_of_fits _ _ _ rfl ⟨rfl, rfl⟩ h
  · simp only [packWord, layoutWidth]
    omega
theorem Encode.vsum (g d a m t : Nat) : Encode.Statement (.vsum g d a m t) := by
  refine Encode.of_row _ 2 14 5 _ _ [g, d, a, m, t] _ rfl rfl (by decide) rfl rfl rfl ?_ ?_
  · intro h
    exact packable_of_fits _ _ _ rfl ⟨rfl, rfl⟩ h
  · simp only [packWord, layoutWidth]
    omega
theorem Encode.vmaxr (g d a m t : Nat) : Encode.Statement (.vmaxr g d a m t) := by
  refine Encode.of_row _ 2 14 6 _ _ [g, d, a, m, t] _ rfl rfl (by decide) rfl rfl rfl ?_ ?_
  · intro h
    exact packable_of_fits _ _ _ rfl ⟨rfl, rfl⟩ h
  · simp only [packWord, layoutWidth]
    omega
theorem Encode.vminr (g d a m t : Nat) : Encode.Statement (.vminr g d a m t) := by
  refine Encode.of_row _ 2 14 7 _ _ [g, d, a, m, t] _ rfl rfl (by decide) rfl rfl rfl ?_ ?_
  · intro h
    exact packable_of_fits _ _ _ rfl ⟨rfl, rfl⟩ h
  · simp only [packWord, layoutWidth]
    omega
theorem Encode.vexpmax (g d a m t : Nat) : Encode.Statement (.vexpmax g d a m t) := by
  refine Encode.of_row _ 2 14 8 _ _ [g, d, a, m, t] _ rfl rfl (by decide) rfl rfl rfl ?_ ?_
  · intro h
    exact packable_of_fits _ _ _ rfl ⟨rfl, rfl⟩ h
  · simp only [packWord, layoutWidth]
    omega
theorem Encode.vnzs (g d a m e s f : Nat) : Encode.Statement (.vnzs g d a m e s f) := by
  refine Encode.of_row _ 2 14 9 _ _ [g, d, a, m, e, s, f] _ rfl rfl (by decide) rfl rfl rfl ?_ ?_
  · intro h
    exact packable_of_fits _ _ _ rfl ⟨rfl, rfl⟩ h
  · simp only [packWord, layoutWidth]
    omega
theorem Encode.vcmpk (g d a m e s : Nat) : Encode.Statement (.vcmpk g d a m e s) := by
  refine Encode.of_row _ 2 14 10 _ _ [g, d, a, m, e, s] _ rfl rfl (by decide) rfl rfl rfl ?_ ?_
  · intro h
    exact packable_of_fits _ _ _ rfl ⟨rfl, rfl⟩ h
  · simp only [packWord, layoutWidth]
    omega
theorem Encode.fcls (g d a m t : Nat) : Encode.Statement (.fcls g d a m t) := by
  refine Encode.of_row _ 2 14 11 _ _ [g, d, a, m, t] _ rfl rfl (by decide) rfl rfl rfl ?_ ?_
  · intro h
    exact packable_of_fits _ _ _ rfl ⟨rfl, rfl⟩ h
  · simp only [packWord, layoutWidth]
    omega
theorem Encode.mand (g e a b : Nat) : Encode.Statement (.mand g e a b) := by
  refine Encode.of_row _ 2 14 12 _ _ [g, e, a, b] _ rfl rfl (by decide) rfl rfl rfl ?_ ?_
  · intro h
    exact packable_of_fits _ _ _ rfl ⟨rfl, rfl⟩ h
  · simp only [packWord, layoutWidth]
    omega
theorem Encode.mor (g e a b : Nat) : Encode.Statement (.mor g e a b) := by
  refine Encode.of_row _ 2 14 13 _ _ [g, e, a, b] _ rfl rfl (by decide) rfl rfl rfl ?_ ?_
  · intro h
    exact packable_of_fits _ _ _ rfl ⟨rfl, rfl⟩ h
  · simp only [packWord, layoutWidth]
    omega
theorem Encode.mnot (g e a : Nat) : Encode.Statement (.mnot g e a) := by
  refine Encode.of_row _ 2 14 14 _ _ [g, e, a] _ rfl rfl (by decide) rfl rfl rfl ?_ ?_
  · intro h
    exact packable_of_fits _ _ _ rfl ⟨rfl, rfl⟩ h
  · simp only [packWord, layoutWidth]
    omega
theorem Encode.mpop (g d a : Nat) : Encode.Statement (.mpop g d a) := by
  refine Encode.of_row _ 2 14 15 _ _ [g, d, a] _ rfl rfl (by decide) rfl rfl rfl ?_ ?_
  · intro h
    exact packable_of_fits _ _ _ rfl ⟨rfl, rfl⟩ h
  · simp only [packWord, layoutWidth]
    omega
theorem Encode.vsp (g d p : Nat) : Encode.Statement (.vsp g d p) := by
  refine Encode.of_row _ 2 14 16 _ _ [g, d, p] _ rfl rfl (by decide) rfl rfl rfl ?_ ?_
  · intro h
    exact packable_of_fits _ _ _ rfl ⟨rfl, rfl⟩ h
  · simp only [packWord, layoutWidth]
    omega
theorem Encode.nopX (g : Nat) : Encode.Statement (.nopX g) := by
  refine Encode.of_row _ 3 0 0 _ _ [g] _ rfl rfl (by decide) rfl rfl rfl ?_ ?_
  · intro h
    exact packable_of_fits _ _ _ rfl ⟨rfl, rfl⟩ h
  · simp only [packWord, layoutWidth]
    omega
theorem Encode.ffmaW (g d a b m t r : Nat) : Encode.Statement (.ffmaW g d a b m t r) := by
  refine Encode.of_row _ 3 1 0 _ _ [g, d, a, b, m, t, r] _ rfl rfl (by decide) rfl rfl rfl ?_ ?_
  · intro h
    exact packable_of_fits _ _ _ rfl ⟨rfl, rfl⟩ h
  · simp only [packWord, layoutWidth]
    omega
theorem Encode.ffmsW (g d a b m t r : Nat) : Encode.Statement (.ffmsW g d a b m t r) := by
  refine Encode.of_row _ 3 2 0 _ _ [g, d, a, b, m, t, r] _ rfl rfl (by decide) rfl rfl rfl ?_ ?_
  · intro h
    exact packable_of_fits _ _ _ rfl ⟨rfl, rfl⟩ h
  · simp only [packWord, layoutWidth]
    omega
theorem Encode.fnmaW (g d a b m t r : Nat) : Encode.Statement (.fnmaW g d a b m t r) := by
  refine Encode.of_row _ 3 3 0 _ _ [g, d, a, b, m, t, r] _ rfl rfl (by decide) rfl rfl rfl ?_ ?_
  · intro h
    exact packable_of_fits _ _ _ rfl ⟨rfl, rfl⟩ h
  · simp only [packWord, layoutWidth]
    omega
theorem Encode.faddW (g d a b m t r : Nat) : Encode.Statement (.faddW g d a b m t r) := by
  refine Encode.of_row _ 3 4 0 _ _ [g, d, a, b, m, t, r] _ rfl rfl (by decide) rfl rfl rfl ?_ ?_
  · intro h
    exact packable_of_fits _ _ _ rfl ⟨rfl, rfl⟩ h
  · simp only [packWord, layoutWidth]
    omega
theorem Encode.fsubW (g d a b m t r : Nat) : Encode.Statement (.fsubW g d a b m t r) := by
  refine Encode.of_row _ 3 5 0 _ _ [g, d, a, b, m, t, r] _ rfl rfl (by decide) rfl rfl rfl ?_ ?_
  · intro h
    exact packable_of_fits _ _ _ rfl ⟨rfl, rfl⟩ h
  · simp only [packWord, layoutWidth]
    omega
theorem Encode.fmulW (g d a b m t r : Nat) : Encode.Statement (.fmulW g d a b m t r) := by
  refine Encode.of_row _ 3 6 0 _ _ [g, d, a, b, m, t, r] _ rfl rfl (by decide) rfl rfl rfl ?_ ?_
  · intro h
    exact packable_of_fits _ _ _ rfl ⟨rfl, rfl⟩ h
  · simp only [packWord, layoutWidth]
    omega
theorem Encode.fcvtW (g d a e s m r : Nat) : Encode.Statement (.fcvtW g d a e s m r) := by
  refine Encode.of_row _ 3 9 0 _ _ [g, d, a, e, s, m, r] _ rfl rfl (by decide) rfl rfl rfl ?_ ?_
  · intro h
    exact packable_of_fits _ _ _ rfl ⟨rfl, rfl⟩ h
  · simp only [packWord, layoutWidth]
    omega
theorem Encode.fminW (g d a b m t : Nat) : Encode.Statement (.fminW g d a b m t) := by
  refine Encode.of_row _ 3 10 0 _ _ [g, d, a, b, m, t] _ rfl rfl (by decide) rfl rfl rfl ?_ ?_
  · intro h
    exact packable_of_fits _ _ _ rfl ⟨rfl, rfl⟩ h
  · simp only [packWord, layoutWidth]
    omega
theorem Encode.fmaxW (g d a b m t : Nat) : Encode.Statement (.fmaxW g d a b m t) := by
  refine Encode.of_row _ 3 10 1 _ _ [g, d, a, b, m, t] _ rfl rfl (by decide) rfl rfl rfl ?_ ?_
  · intro h
    exact packable_of_fits _ _ _ rfl ⟨rfl, rfl⟩ h
  · simp only [packWord, layoutWidth]
    omega
theorem Encode.fabsW (g d a m t : Nat) : Encode.Statement (.fabsW g d a m t) := by
  refine Encode.of_row _ 3 10 2 _ _ [g, d, a, m, t] _ rfl rfl (by decide) rfl rfl rfl ?_ ?_
  · intro h
    exact packable_of_fits _ _ _ rfl ⟨rfl, rfl⟩ h
  · simp only [packWord, layoutWidth]
    omega
theorem Encode.fnegW (g d a m t : Nat) : Encode.Statement (.fnegW g d a m t) := by
  refine Encode.of_row _ 3 10 3 _ _ [g, d, a, m, t] _ rfl rfl (by decide) rfl rfl rfl ?_ ?_
  · intro h
    exact packable_of_fits _ _ _ rfl ⟨rfl, rfl⟩ h
  · simp only [packWord, layoutWidth]
    omega
theorem Encode.fsclW (g d a b m t : Nat) : Encode.Statement (.fsclW g d a b m t) := by
  refine Encode.of_row _ 3 10 4 _ _ [g, d, a, b, m, t] _ rfl rfl (by decide) rfl rfl rfl ?_ ?_
  · intro h
    exact packable_of_fits _ _ _ rfl ⟨rfl, rfl⟩ h
  · simp only [packWord, layoutWidth]
    omega
theorem Encode.iaddW (g d a b m n s : Nat) : Encode.Statement (.iaddW g d a b m n s) := by
  refine Encode.of_row _ 3 12 0 _ _ [g, d, a, b, m, n, s] _ rfl rfl (by decide) rfl rfl rfl ?_ ?_
  · intro h
    exact packable_of_fits _ _ _ rfl ⟨rfl, rfl⟩ h
  · simp only [packWord, layoutWidth]
    omega
theorem Encode.isubW (g d a b m n s : Nat) : Encode.Statement (.isubW g d a b m n s) := by
  refine Encode.of_row _ 3 12 1 _ _ [g, d, a, b, m, n, s] _ rfl rfl (by decide) rfl rfl rfl ?_ ?_
  · intro h
    exact packable_of_fits _ _ _ rfl ⟨rfl, rfl⟩ h
  · simp only [packWord, layoutWidth]
    omega
theorem Encode.imulW (g d a b m n s : Nat) : Encode.Statement (.imulW g d a b m n s) := by
  refine Encode.of_row _ 3 12 2 _ _ [g, d, a, b, m, n, s] _ rfl rfl (by decide) rfl rfl rfl ?_ ?_
  · intro h
    exact packable_of_fits _ _ _ rfl ⟨rfl, rfl⟩ h
  · simp only [packWord, layoutWidth]
    omega
theorem Encode.iminW (g d a b m n s : Nat) : Encode.Statement (.iminW g d a b m n s) := by
  refine Encode.of_row _ 3 12 3 _ _ [g, d, a, b, m, n, s] _ rfl rfl (by decide) rfl rfl rfl ?_ ?_
  · intro h
    exact packable_of_fits _ _ _ rfl ⟨rfl, rfl⟩ h
  · simp only [packWord, layoutWidth]
    omega
theorem Encode.imaxW (g d a b m n s : Nat) : Encode.Statement (.imaxW g d a b m n s) := by
  refine Encode.of_row _ 3 12 4 _ _ [g, d, a, b, m, n, s] _ rfl rfl (by decide) rfl rfl rfl ?_ ?_
  · intro h
    exact packable_of_fits _ _ _ rfl ⟨rfl, rfl⟩ h
  · simp only [packWord, layoutWidth]
    omega
theorem Encode.iandW (g d a b m n s : Nat) : Encode.Statement (.iandW g d a b m n s) := by
  refine Encode.of_row _ 3 13 0 _ _ [g, d, a, b, m, n, s] _ rfl rfl (by decide) rfl rfl rfl ?_ ?_
  · intro h
    exact packable_of_fits _ _ _ rfl ⟨rfl, rfl⟩ h
  · simp only [packWord, layoutWidth]
    omega
theorem Encode.iorW (g d a b m n s : Nat) : Encode.Statement (.iorW g d a b m n s) := by
  refine Encode.of_row _ 3 13 1 _ _ [g, d, a, b, m, n, s] _ rfl rfl (by decide) rfl rfl rfl ?_ ?_
  · intro h
    exact packable_of_fits _ _ _ rfl ⟨rfl, rfl⟩ h
  · simp only [packWord, layoutWidth]
    omega
theorem Encode.ixorW (g d a b m n s : Nat) : Encode.Statement (.ixorW g d a b m n s) := by
  refine Encode.of_row _ 3 13 2 _ _ [g, d, a, b, m, n, s] _ rfl rfl (by decide) rfl rfl rfl ?_ ?_
  · intro h
    exact packable_of_fits _ _ _ rfl ⟨rfl, rfl⟩ h
  · simp only [packWord, layoutWidth]
    omega
theorem Encode.ishlW (g d a b m n s : Nat) : Encode.Statement (.ishlW g d a b m n s) := by
  refine Encode.of_row _ 3 13 3 _ _ [g, d, a, b, m, n, s] _ rfl rfl (by decide) rfl rfl rfl ?_ ?_
  · intro h
    exact packable_of_fits _ _ _ rfl ⟨rfl, rfl⟩ h
  · simp only [packWord, layoutWidth]
    omega
theorem Encode.ishrW (g d a b m n s : Nat) : Encode.Statement (.ishrW g d a b m n s) := by
  refine Encode.of_row _ 3 13 4 _ _ [g, d, a, b, m, n, s] _ rfl rfl (by decide) rfl rfl rfl ?_ ?_
  · intro h
    exact packable_of_fits _ _ _ rfl ⟨rfl, rfl⟩ h
  · simp only [packWord, layoutWidth]
    omega
theorem Encode.ishaW (g d a b m n s : Nat) : Encode.Statement (.ishaW g d a b m n s) := by
  refine Encode.of_row _ 3 13 5 _ _ [g, d, a, b, m, n, s] _ rfl rfl (by decide) rfl rfl rfl ?_ ?_
  · intro h
    exact packable_of_fits _ _ _ rfl ⟨rfl, rfl⟩ h
  · simp only [packWord, layoutWidth]
    omega
theorem Encode.mld (g t a x o : Nat) : Encode.Statement (.mld g t a x o) := by
  refine Encode.of_row _ 3 7 0 _ _ [g, t, a, x, o] _ rfl rfl (by decide) rfl rfl rfl ?_ ?_
  · intro h
    exact packable_of_fits _ _ _ rfl ⟨rfl, rfl⟩ h
  · simp only [packWord, layoutWidth]
    omega
theorem Encode.mcb (g t a x : Nat) : Encode.Statement (.mcb g t a x) := by
  refine Encode.of_row _ 3 7 1 _ _ [g, t, a, x] _ rfl rfl (by decide) rfl rfl rfl ?_ ?_
  · intro h
    exact packable_of_fits _ _ _ rfl ⟨rfl, rfl⟩ h
  · simp only [packWord, layoutWidth]
    omega
theorem Encode.msc (g a x : Nat) : Encode.Statement (.msc g a x) := by
  refine Encode.of_row _ 3 7 2 _ _ [g, a, x] _ rfl rfl (by decide) rfl rfl rfl ?_ ?_
  · intro h
    exact packable_of_fits _ _ _ rfl ⟨rfl, rfl⟩ h
  · simp only [packWord, layoutWidth]
    omega
theorem Encode.bagOpen (g c x e : Nat) : Encode.Statement (.bagOpen g c x e) := by
  refine Encode.of_row _ 3 7 3 _ _ [g, c, x, e] _ rfl rfl (by decide) rfl rfl rfl ?_ ?_
  · intro h
    exact packable_of_fits _ _ _ rfl ⟨rfl, rfl⟩ h
  · simp only [packWord, layoutWidth]
    omega
theorem Encode.bagRows (g c x q n : Nat) : Encode.Statement (.bagRows g c x q n) := by
  refine Encode.of_row _ 3 7 4 _ _ [g, c, x, q, n] _ rfl rfl (by decide) rfl rfl rfl ?_ ?_
  · intro h
    exact packable_of_fits _ _ _ rfl ⟨rfl, rfl⟩ h
  · simp only [packWord, layoutWidth]
    omega
theorem Encode.bagPump (g c x : Nat) : Encode.Statement (.bagPump g c x) := by
  refine Encode.of_row _ 3 7 5 _ _ [g, c, x] _ rfl rfl (by decide) rfl rfl rfl ?_ ?_
  · intro h
    exact packable_of_fits _ _ _ rfl ⟨rfl, rfl⟩ h
  · simp only [packWord, layoutWidth]
    omega
theorem Encode.bagClose (g : Nat) : Encode.Statement (.bagClose g) := by
  refine Encode.of_row _ 3 7 6 _ _ [g] _ rfl rfl (by decide) rfl rfl rfl ?_ ?_
  · intro h
    exact packable_of_fits _ _ _ rfl ⟨rfl, rfl⟩ h
  · simp only [packWord, layoutWidth]
    omega
theorem Encode.bagRep (g a x : Nat) : Encode.Statement (.bagRep g a x) := by
  refine Encode.of_row _ 3 7 7 _ _ [g, a, x] _ rfl rfl (by decide) rfl rfl rfl ?_ ?_
  · intro h
    exact packable_of_fits _ _ _ rfl ⟨rfl, rfl⟩ h
  · simp only [packWord, layoutWidth]
    omega
theorem Encode.sumpDr (g c x t r f s : Nat) : Encode.Statement (.sumpDr g c x t r f s) := by
  refine Encode.of_row _ 3 7 8 _ _ [g, c, x, t, r, f, s] _ rfl rfl (by decide) rfl rfl rfl ?_ ?_
  · intro h
    exact packable_of_fits _ _ _ rfl ⟨rfl, rfl⟩ h
  · simp only [packWord, layoutWidth]
    omega
theorem Encode.sumpClr (g h c x f : Nat) : Encode.Statement (.sumpClr g h c x f) := by
  refine Encode.of_row _ 3 7 9 _ _ [g, h, c, x, f] _ rfl rfl (by decide) rfl rfl rfl ?_ ?_
  · intro h
    exact packable_of_fits _ _ _ rfl ⟨rfl, rfl⟩ h
  · simp only [packWord, layoutWidth]
    omega
theorem Encode.zld (g z a b x : Nat) : Encode.Statement (.zld g z a b x) := by
  refine Encode.of_row _ 3 8 0 _ _ [g, z, a, b, x] _ rfl rfl (by decide) rfl rfl rfl ?_ ?_
  · intro h
    exact packable_of_fits _ _ _ rfl ⟨rfl, rfl⟩ h
  · simp only [packWord, layoutWidth]
    omega
theorem Encode.zst (g z a x : Nat) : Encode.Statement (.zst g z a x) := by
  refine Encode.of_row _ 3 8 1 _ _ [g, z, a, x] _ rfl rfl (by decide) rfl rfl rfl ?_ ?_
  · intro h
    exact packable_of_fits _ _ _ rfl ⟨rfl, rfl⟩ h
  · simp only [packWord, layoutWidth]
    omega
theorem Encode.zis (g z a b o : Nat) : Encode.Statement (.zis g z a b o) := by
  refine Encode.of_row _ 3 8 2 _ _ [g, z, a, b, o] _ rfl rfl (by decide) rfl rfl rfl ?_ ?_
  · intro h
    exact packable_of_fits _ _ _ rfl ⟨rfl, rfl⟩ h
  · simp only [packWord, layoutWidth]
    omega
theorem Encode.zun (g z a b o : Nat) : Encode.Statement (.zun g z a b o) := by
  refine Encode.of_row _ 3 8 3 _ _ [g, z, a, b, o] _ rfl rfl (by decide) rfl rfl rfl ?_ ?_
  · intro h
    exact packable_of_fits _ _ _ rfl ⟨rfl, rfl⟩ h
  · simp only [packWord, layoutWidth]
    omega
theorem Encode.zsb (g z a b : Nat) : Encode.Statement (.zsb g z a b) := by
  refine Encode.of_row _ 3 8 4 _ _ [g, z, a, b] _ rfl rfl (by decide) rfl rfl rfl ?_ ?_
  · intro h
    exact packable_of_fits _ _ _ rfl ⟨rfl, rfl⟩ h
  · simp only [packWord, layoutWidth]
    omega
theorem Encode.zma (g d a b : Nat) : Encode.Statement (.zma g d a b) := by
  refine Encode.of_row _ 3 8 5 _ _ [g, d, a, b] _ rfl rfl (by decide) rfl rfl rfl ?_ ?_
  · intro h
    exact packable_of_fits _ _ _ rfl ⟨rfl, rfl⟩ h
  · simp only [packWord, layoutWidth]
    omega
theorem Encode.zlen (g d z : Nat) : Encode.Statement (.zlen g d z) := by
  refine Encode.of_row _ 3 8 6 _ _ [g, d, z] _ rfl rfl (by decide) rfl rfl rfl ?_ ?_
  · intro h
    exact packable_of_fits _ _ _ rfl ⟨rfl, rfl⟩ h
  · simp only [packWord, layoutWidth]
    omega
theorem Encode.issueBundle : Encode.Statement .issueBundle := fun _ => rfl
theorem Encode.resultLand : Encode.Statement .resultLand := fun _ => rfl
theorem Encode.storePerform : Encode.Statement .storePerform := fun _ => rfl
theorem Encode.atomicPerform : Encode.Statement .atomicPerform := fun _ => rfl
theorem Encode.flagPostEffect : Encode.Statement .flagPostEffect := fun _ => rfl
theorem Encode.overlapYield : Encode.Statement .overlapYield := fun _ => rfl
theorem Encode.watchdogTrap : Encode.Statement .watchdogTrap := fun _ => rfl
theorem Encode.kill : Encode.Statement .kill := fun _ => rfl
theorem Encode.siphonTransfer : Encode.Statement .siphonTransfer := fun _ => rfl
theorem Encode.siphonComplete : Encode.Statement .siphonComplete := fun _ => rfl
theorem Encode.reserveRefusalRetry : Encode.Statement .reserveRefusalRetry := fun _ => rfl
theorem Encode.faultRecordOffer : Encode.Statement .faultRecordOffer := fun _ => rfl
theorem Encode.faultRecordRetry : Encode.Statement .faultRecordRetry := fun _ => rfl
theorem Encode.preemptRequest : Encode.Statement .preemptRequest := fun _ => rfl
theorem Encode.preemptWithdraw : Encode.Statement .preemptWithdraw := fun _ => rfl
theorem Encode.gangPreempt : Encode.Statement .gangPreempt := fun _ => rfl
theorem Encode.stepPlace : Encode.Statement .stepPlace := fun _ => rfl
theorem Encode.stepResume : Encode.Statement .stepResume := fun _ => rfl
theorem Encode.stepRetire : Encode.Statement .stepRetire := fun _ => rfl
theorem Encode.taskComplete : Encode.Statement .taskComplete := fun _ => rfl
theorem Encode.taskAgeing : Encode.Statement .taskAgeing := fun _ => rfl
theorem Encode.stageApply : Encode.Statement .stageApply := fun _ => rfl
theorem Encode.stageCacheUpdate : Encode.Statement .stageCacheUpdate := fun _ => rfl
theorem Encode.forkSnapshot : Encode.Statement .forkSnapshot := fun _ => rfl
theorem Encode.joinMerge : Encode.Statement .joinMerge := fun _ => rfl
theorem Encode.revisionReserveRetry : Encode.Statement .revisionReserveRetry := fun _ => rfl
theorem Encode.arrayOpStart : Encode.Statement .arrayOpStart := fun _ => rfl
theorem Encode.rowIn : Encode.Statement .rowIn := fun _ => rfl
theorem Encode.pumpFeedBegin : Encode.Statement .pumpFeedBegin := fun _ => rfl
theorem Encode.pumpFetchReturn : Encode.Statement .pumpFetchReturn := fun _ => rfl
theorem Encode.pumpWalkRetry : Encode.Statement .pumpWalkRetry := fun _ => rfl
theorem Encode.queueStageAdvance : Encode.Statement .queueStageAdvance := fun _ => rfl
theorem Encode.bagCloseComplete : Encode.Statement .bagCloseComplete := fun _ => rfl
theorem Encode.drainRow : Encode.Statement .drainRow := fun _ => rfl
theorem Encode.spoutLatchEntry : Encode.Statement .spoutLatchEntry := fun _ => rfl
theorem Encode.tlbInvalidateComplete : Encode.Statement .tlbInvalidateComplete := fun _ => rfl
theorem Encode.rootLaunch : Encode.Statement .rootLaunch := fun _ => rfl
theorem Encode.flagWindowPost : Encode.Statement .flagWindowPost := fun _ => rfl
theorem Encode.tlbinv : Encode.Statement .tlbinv := fun _ => rfl
theorem Encode.clrmin : Encode.Statement .clrmin := fun _ => rfl
theorem Encode.rst : Encode.Statement .rst := fun _ => rfl
theorem Encode.dack : Encode.Statement .dack := fun _ => rfl
theorem Encode.lrClear : Encode.Statement .lrClear := fun _ => rfl
theorem Encode.registerWrite : Encode.Statement .registerWrite := fun _ => rfl
theorem Encode.hostMemWrite : Encode.Statement .hostMemWrite := fun _ => rfl
theorem Encode.hostMemRead : Encode.Statement .hostMemRead := fun _ => rfl
theorem Encode.mailboxSpdm : Encode.Statement .mailboxSpdm := fun _ => rfl
theorem Encode.errorLogRead : Encode.Statement .errorLogRead := fun _ => rfl
theorem Encode.errorLogClear : Encode.Statement .errorLogClear := fun _ => rfl
theorem Encode.bootStart : Encode.Statement .bootStart := fun _ => rfl
theorem Encode.bootStageDone : Encode.Statement .bootStageDone := fun _ => rfl
theorem Encode.bootWatchdog : Encode.Statement .bootWatchdog := fun _ => rfl
theorem Encode.flitCrcFail : Encode.Statement .flitCrcFail := fun _ => rfl
theorem Encode.lanePersistentFault : Encode.Statement .lanePersistentFault := fun _ => rfl
theorem Encode.fatalError : Encode.Statement .fatalError := fun _ => rfl
theorem Encode.dumpComplete : Encode.Statement .dumpComplete := fun _ => rfl
theorem Encode.thermalTrip : Encode.Statement .thermalTrip := fun _ => rfl
theorem Encode.clockChange : Encode.Statement .clockChange := fun _ => rfl
theorem Encode.peerContained : Encode.Statement .peerContained := fun _ => rfl
theorem Encode.galeRemoteAccess : Encode.Statement .galeRemoteAccess := fun _ => rfl
theorem Encode.linkRetrainComplete : Encode.Statement .linkRetrainComplete := fun _ => rfl
theorem Encode.arrayOpComplete : Encode.Statement .arrayOpComplete := fun _ => rfl
theorem Encode.powerTrip : Encode.Statement .powerTrip := fun _ => rfl
theorem Encode.mailboxImageReplace : Encode.Statement .mailboxImageReplace := fun _ => rfl

end Sys2Proof.Laws
end

