-- ==== Sys2Proof/Tests/Slice0.lean ====
section
/-! SUPPORT. Own tests: ill-formed terms that WellFormed refuses, words written out from the encoding tables of the spec,
a witness for the hypotheses of every obligation that has some, and results taken from the spec's text. -/

namespace Sys2Proof.Tests

open Sys2Proof Sys2Proof.Machine Sys2Proof.Claims

set_option maxRecDepth 100000
set_option Elab.async false

/-! ### Ill-formed instructions are refused: one term for each check of WellFormed -/

/-- Each field of each instruction one past its width. -/
theorem test_wideField_1 : ([
    .nopS 16, .yield 16, .exit 16, .trap 16 0, .trap 0 65536, .sysc 16 0, .sysc 0 65536, .brk 16 0, .brk 0 65536,
    .syscResume 16, .syscKillStep 16, .syscLocate 16, .add 16 0 0 0 0, .add 0 32 0 0 0, .add 0 0 32 0 0,
    .add 0 0 0 32 0, .add 0 0 0 0 2, .sub 16 0 0 0 0, .sub 0 32 0 0 0, .sub 0 0 32 0 0, .sub 0 0 0 32 0,
    .sub 0 0 0 0 2, .mul 16 0 0 0 0, .mul 0 32 0 0 0, .mul 0 0 32 0 0, .mul 0 0 0 32 0, .mul 0 0 0 0 2,
    .mulh 16 0 0 0 0, .mulh 0 32 0 0 0, .mulh 0 0 32 0 0, .mulh 0 0 0 32 0, .mulh 0 0 0 0 2, .mulhn 16 0 0 0 0,
    .mulhn 0 32 0 0 0, .mulhn 0 0 32 0 0, .mulhn 0 0 0 32 0, .mulhn 0 0 0 0 2, .div 16 0 0 0 0, .div 0 32 0 0 0,
    .div 0 0 32 0 0, .div 0 0 0 32 0, .div 0 0 0 0 2, .divn 16 0 0 0 0, .divn 0 32 0 0 0, .divn 0 0 32 0 0,
    .divn 0 0 0 32 0, .divn 0 0 0 0 2, .rem 16 0 0 0 0, .rem 0 32 0 0 0, .rem 0 0 32 0 0, .rem 0 0 0 32 0,
    .rem 0 0 0 0 2, .remn 16 0 0 0 0, .remn 0 32 0 0 0, .remn 0 0 32 0 0, .remn 0 0 0 32 0, .remn 0 0 0 0 2,
    .and 16 0 0 0 0, .and 0 32 0 0 0, .and 0 0 32 0 0, .and 0 0 0 32 0, .and 0 0 0 0 2, .or 16 0 0 0 0,
    .or 0 32 0 0 0, .or 0 0 32 0 0, .or 0 0 0 32 0, .or 0 0 0 0 2, .xor 16 0 0 0 0, .xor 0 32 0 0 0, .xor 0 0 32 0 0,
    .xor 0 0 0 32 0, .xor 0 0 0 0 2, .andn 16 0 0 0 0, .andn 0 32 0 0 0, .andn 0 0 32 0 0, .andn 0 0 0 32 0,
    .andn 0 0 0 0 2, .shl 16 0 0 0 0, .shl 0 32 0 0 0, .shl 0 0 32 0 0, .shl 0 0 0 32 0, .shl 0 0 0 0 2,
    .shr 16 0 0 0 0, .shr 0 32 0 0 0, .shr 0 0 32 0 0, .shr 0 0 0 32 0, .shr 0 0 0 0 2, .sha 16 0 0 0 0,
    .sha 0 32 0 0 0, .sha 0 0 32 0 0] : List Instr).all (fun i => !i.fieldsFit && !i.wf) = true := by decide +kernel
theorem test_wideField_2 : ([
    .sha 0 0 0 32 0, .sha 0 0 0 0 2, .min 16 0 0 0 0, .min 0 32 0 0 0, .min 0 0 32 0 0, .min 0 0 0 32 0,
    .min 0 0 0 0 2, .max 16 0 0 0 0, .max 0 32 0 0 0, .max 0 0 32 0 0, .max 0 0 0 32 0, .max 0 0 0 0 2,
    .minn 16 0 0 0 0, .minn 0 32 0 0 0, .minn 0 0 32 0 0, .minn 0 0 0 32 0, .minn 0 0 0 0 2, .maxn 16 0 0 0 0,
    .maxn 0 32 0 0 0, .maxn 0 0 32 0 0, .maxn 0 0 0 32 0, .maxn 0 0 0 0 2, .clz 16 0 0 0, .clz 0 32 0 0,
    .clz 0 0 32 0, .clz 0 0 0 2, .popc 16 0 0 0, .popc 0 32 0 0, .popc 0 0 32 0, .popc 0 0 0 2, .addi 16 0 0 0 0,
    .addi 0 32 0 0 0, .addi 0 0 32 0 0, .addi 0 0 0 2 0, .addi 0 0 0 0 512, .muli 16 0 0 0 0, .muli 0 32 0 0 0,
    .muli 0 0 32 0 0, .muli 0 0 0 2 0, .muli 0 0 0 0 512, .andi 16 0 0 0 0, .andi 0 32 0 0 0, .andi 0 0 32 0 0,
    .andi 0 0 0 2 0, .andi 0 0 0 0 512, .ori 16 0 0 0 0, .ori 0 32 0 0 0, .ori 0 0 32 0 0, .ori 0 0 0 2 0,
    .ori 0 0 0 0 512, .xori 16 0 0 0 0, .xori 0 32 0 0 0, .xori 0 0 32 0 0, .xori 0 0 0 2 0, .xori 0 0 0 0 512,
    .andni 16 0 0 0 0, .andni 0 32 0 0 0, .andni 0 0 32 0 0, .andni 0 0 0 2 0, .andni 0 0 0 0 512, .shli 16 0 0 0 0,
    .shli 0 32 0 0 0, .shli 0 0 32 0 0, .shli 0 0 0 2 0, .shli 0 0 0 0 64, .shri 16 0 0 0 0, .shri 0 32 0 0 0,
    .shri 0 0 32 0 0, .shri 0 0 0 2 0, .shri 0 0 0 0 64, .shai 16 0 0 0 0, .shai 0 32 0 0 0, .shai 0 0 32 0 0,
    .shai 0 0 0 2 0, .shai 0 0 0 0 64, .mini 16 0 0 0 0, .mini 0 32 0 0 0, .mini 0 0 32 0 0, .mini 0 0 0 2 0,
    .mini 0 0 0 0 512, .maxi 16 0 0 0 0, .maxi 0 32 0 0 0, .maxi 0 0 32 0 0, .maxi 0 0 0 2 0, .maxi 0 0 0 0 512,
    .minni 16 0 0 0 0, .minni 0 32 0 0 0, .minni 0 0 32 0 0, .minni 0 0 0 2 0, .minni 0 0 0 0 512] : List Instr).all (fun i => !i.fieldsFit && !i.wf) = true := by decide +kernel
theorem test_wideField_3 : ([
    .maxni 16 0 0 0 0, .maxni 0 32 0 0 0, .maxni 0 0 32 0 0, .maxni 0 0 0 2 0, .maxni 0 0 0 0 512, .ceq 16 0 0 0 0,
    .ceq 0 16 0 0 0, .ceq 0 0 32 0 0, .ceq 0 0 0 32 0, .ceq 0 0 0 0 2, .cne 16 0 0 0 0, .cne 0 16 0 0 0,
    .cne 0 0 32 0 0, .cne 0 0 0 32 0, .cne 0 0 0 0 2, .clt 16 0 0 0 0, .clt 0 16 0 0 0, .clt 0 0 32 0 0,
    .clt 0 0 0 32 0, .clt 0 0 0 0 2, .cle 16 0 0 0 0, .cle 0 16 0 0 0, .cle 0 0 32 0 0, .cle 0 0 0 32 0,
    .cle 0 0 0 0 2, .cltn 16 0 0 0 0, .cltn 0 16 0 0 0, .cltn 0 0 32 0 0, .cltn 0 0 0 32 0, .cltn 0 0 0 0 2,
    .clen 16 0 0 0 0, .clen 0 16 0 0 0, .clen 0 0 32 0 0, .clen 0 0 0 32 0, .clen 0 0 0 0 2, .ceqi 16 0 0 0,
    .ceqi 0 16 0 0, .ceqi 0 0 32 0, .ceqi 0 0 0 4096, .cnei 16 0 0 0, .cnei 0 16 0 0, .cnei 0 0 32 0,
    .cnei 0 0 0 4096, .clti 16 0 0 0, .clti 0 16 0 0, .clti 0 0 32 0, .clti 0 0 0 4096, .clei 16 0 0 0,
    .clei 0 16 0 0, .clei 0 0 32 0, .clei 0 0 0 4096, .cltni 16 0 0 0, .cltni 0 16 0 0, .cltni 0 0 32 0,
    .cltni 0 0 0 4096, .cleni 16 0 0 0, .cleni 0 16 0 0, .cleni 0 0 32 0, .cleni 0 0 0 4096, .lih 16 0 0 0,
    .lih 0 32 0 0, .lih 0 0 4 0, .lih 0 0 0 65536, .lihK 16 0 0 0, .lihK 0 32 0 0, .lihK 0 0 4 0, .lihK 0 0 0 65536,
    .sel 16 0 0 0 0 0, .sel 0 32 0 0 0 0, .sel 0 0 32 0 0 0, .sel 0 0 0 32 0 0, .sel 0 0 0 0 16 0, .sel 0 0 0 0 0 2,
    .pand 16 0 0 0, .pand 0 16 0 0, .pand 0 0 16 0, .pand 0 0 0 16, .por 16 0 0 0, .por 0 16 0 0, .por 0 0 16 0,
    .por 0 0 0 16, .pxor 16 0 0 0, .pxor 0 16 0 0, .pxor 0 0 16 0, .pxor 0 0 0 16, .pset 16 0 0, .pset 0 16 0,
    .pset 0 0 2, .br 16 0, .br 0 4194304] : List Instr).all (fun i => !i.fieldsFit && !i.wf) = true := by decide +kernel
theorem test_wideField_4 : ([
    .call 16 0 0, .call 0 32 0, .call 0 0 131072, .bra 16 0 0 0, .bra 0 32 0 0, .bra 0 0 32 0, .bra 0 0 0 2,
    .ret 16 0 0, .ret 0 32 0, .ret 0 0 2, .lpBegReg 16 0 0, .lpBegReg 0 512 0, .lpBegReg 0 0 32, .lpBegImm 16 0 0,
    .lpBegImm 0 512 0, .lpBegImm 0 0 4096, .lpIdx 16 0 0, .lpIdx 0 32 0, .lpIdx 0 0 8, .lpBrk 16,
    .xcp 16 0 0 0 0 0 0, .xcp 0 2 0 0 0 0 0, .xcp 0 0 32 0 0 0 0, .xcp 0 0 0 4 0 0 0, .xcp 0 0 0 0 32 0 0,
    .xcp 0 0 0 0 0 32 0, .xcp 0 0 0 0 0 0 2, .xbase 16 0 0 0 0, .xbase 0 4 0 0 0, .xbase 0 0 2 0 0, .xbase 0 0 0 2 0,
    .xbase 0 0 0 0 32, .getm 16 0, .getm 0 32, .setm 16 0 0, .setm 0 32 0, .setm 0 0 32, .flGet 16 0 0,
    .flGet 0 32 0, .flGet 0 0 8, .flClr 16 0 0, .flClr 0 4 0, .flClr 0 0 128, .tlaunch 16 0 0 0, .tlaunch 0 32 0 0,
    .tlaunch 0 0 32 0, .tlaunch 0 0 0 2, .tfork 16 0 0 0, .tfork 0 32 0 0, .tfork 0 0 32 0, .tfork 0 0 0 2,
    .tjoin 16 0 0 0, .tjoin 0 32 0 0, .tjoin 0 0 32 0, .tjoin 0 0 0 2, .tjoinAll 16, .tkill 16 0 0, .tkill 0 32 0,
    .tkill 0 0 2, .rgnSet 16 0 0, .rgnSet 0 32 0, .rgnSet 0 0 2, .stgAdvImm 16 0, .stgAdvImm 0 65536,
    .stgAdvReg 16 0 0, .stgAdvReg 0 32 0, .stgAdvReg 0 0 2, .stgSetImm 16 0, .stgSetImm 0 65536, .stgSetReg 16 0 0,
    .stgSetReg 0 32 0, .stgSetReg 0 0 2, .stgWlImm 16 0 0, .stgWlImm 0 16 0, .stgWlImm 0 0 32768, .stgWlReg 16 0 0 0,
    .stgWlReg 0 16 0 0, .stgWlReg 0 0 32 0, .stgWlReg 0 0 0 2, .stgRd 16 0 0 0, .stgRd 0 32 0 0, .stgRd 0 0 16 0,
    .stgRd 0 0 0 2, .tidSet 16 0 0 0, .tidSet 0 64 0 0, .tidSet 0 0 32 0, .tidSet 0 0 0 2, .tidGet 16 0 0 0 0,
    .tidGet 0 64 0 0 0, .tidGet 0 0 32 0 0] : List Instr).all (fun i => !i.fieldsFit && !i.wf) = true := by decide +kernel
theorem test_wideField_5 : ([
    .tidGet 0 0 0 2 0, .tidGet 0 0 0 0 4, .header 2 0 0 0 0 0 0 0, .header 0 2 0 0 0 0 0 0, .header 0 0 4 0 0 0 0 0,
    .header 0 0 0 4 0 0 0 0, .header 0 0 0 0 32 0 0 0, .header 0 0 0 0 0 16 0 0, .header 0 0 0 0 0 0 4 0,
    .header 0 0 0 0 0 0 0 2048, .nopM 16, .waitcImm 16 0 0, .waitcImm 0 8 0, .waitcImm 0 0 65536, .waitcReg 16 0 0 0,
    .waitcReg 0 8 0 0, .waitcReg 0 0 32 0, .waitcReg 0 0 0 2, .xf 16 0 0, .xf 0 8 0, .xf 0 0 8, .phase 16,
    .rwsR 16 0 0 0 0, .rwsR 0 8 0 0 0, .rwsR 0 0 32 0 0, .rwsR 0 0 0 32 0, .rwsR 0 0 0 0 2, .rwsW 16 0 0 0 0,
    .rwsW 0 8 0 0 0, .rwsW 0 0 32 0 0, .rwsW 0 0 0 32 0, .rwsW 0 0 0 0 2, .fpost 16 0 0 0, .fpost 0 16 0 0,
    .fpost 0 0 32 0, .fpost 0 0 0 16, .fset 16 0 0 0, .fset 0 32 0 0, .fset 0 0 32 0, .fset 0 0 0 2,
    .rcIncReg 16 0 0 0, .rcIncReg 0 32 0 0, .rcIncReg 0 0 32 0, .rcIncReg 0 0 0 2, .rcIncImm 16 0 0 0,
    .rcIncImm 0 32 0 0, .rcIncImm 0 0 2 0, .rcIncImm 0 0 0 256, .rcSnap 16 0 0, .rcSnap 0 32 0, .rcSnap 0 0 2,
    .lb 16 0 0 0 0 0, .lb 0 2 0 0 0 0, .lb 0 0 32 0 0 0, .lb 0 0 0 32 0 0, .lb 0 0 0 0 2 0, .lb 0 0 0 0 0 512,
    .lbn 16 0 0 0 0 0, .lbn 0 2 0 0 0 0, .lbn 0 0 32 0 0 0, .lbn 0 0 0 32 0 0, .lbn 0 0 0 0 2 0, .lbn 0 0 0 0 0 512,
    .lh 16 0 0 0 0 0, .lh 0 2 0 0 0 0, .lh 0 0 32 0 0 0, .lh 0 0 0 32 0 0, .lh 0 0 0 0 2 0, .lh 0 0 0 0 0 512,
    .lhn 16 0 0 0 0 0, .lhn 0 2 0 0 0 0, .lhn 0 0 32 0 0 0, .lhn 0 0 0 32 0 0, .lhn 0 0 0 0 2 0, .lhn 0 0 0 0 0 512,
    .lw 16 0 0 0 0 0, .lw 0 2 0 0 0 0, .lw 0 0 32 0 0 0, .lw 0 0 0 32 0 0, .lw 0 0 0 0 2 0, .lw 0 0 0 0 0 512,
    .lwn 16 0 0 0 0 0, .lwn 0 2 0 0 0 0, .lwn 0 0 32 0 0 0, .lwn 0 0 0 32 0 0, .lwn 0 0 0 0 2 0, .lwn 0 0 0 0 0 512,
    .ld 16 0 0 0 0 0, .ld 0 2 0 0 0 0, .ld 0 0 32 0 0 0] : List Instr).all (fun i => !i.fieldsFit && !i.wf) = true := by decide +kernel
theorem test_wideField_6 : ([
    .ld 0 0 0 32 0 0, .ld 0 0 0 0 2 0, .ld 0 0 0 0 0 512, .sb 16 0 0 0 0 0, .sb 0 2 0 0 0 0, .sb 0 0 32 0 0 0,
    .sb 0 0 0 32 0 0, .sb 0 0 0 0 2 0, .sb 0 0 0 0 0 1024, .sh 16 0 0 0 0 0, .sh 0 2 0 0 0 0, .sh 0 0 32 0 0 0,
    .sh 0 0 0 32 0 0, .sh 0 0 0 0 2 0, .sh 0 0 0 0 0 1024, .sw 16 0 0 0 0 0, .sw 0 2 0 0 0 0, .sw 0 0 32 0 0 0,
    .sw 0 0 0 32 0 0, .sw 0 0 0 0 2 0, .sw 0 0 0 0 0 1024, .sd 16 0 0 0 0 0, .sd 0 2 0 0 0 0, .sd 0 0 32 0 0 0,
    .sd 0 0 0 32 0 0, .sd 0 0 0 0 2 0, .sd 0 0 0 0 0 1024, .vld 16 0 0 0 0 0 0, .vld 0 2 0 0 0 0 0,
    .vld 0 0 32 0 0 0 0, .vld 0 0 0 32 0 0 0, .vld 0 0 0 0 8 0 0, .vld 0 0 0 0 0 2 0, .vld 0 0 0 0 0 0 64,
    .vst 16 0 0 0 0 0 0, .vst 0 2 0 0 0 0 0, .vst 0 0 32 0 0 0 0, .vst 0 0 0 32 0 0 0, .vst 0 0 0 0 8 0 0,
    .vst 0 0 0 0 0 2 0, .vst 0 0 0 0 0 0 64, .vldx 16 0 0 0 0 0 0, .vldx 0 2 0 0 0 0 0, .vldx 0 0 32 0 0 0 0,
    .vldx 0 0 0 32 0 0 0, .vldx 0 0 0 0 8 0 0, .vldx 0 0 0 0 0 2 0, .vldx 0 0 0 0 0 0 32, .vstx 16 0 0 0 0 0 0,
    .vstx 0 2 0 0 0 0 0, .vstx 0 0 32 0 0 0 0, .vstx 0 0 0 32 0 0 0, .vstx 0 0 0 0 8 0 0, .vstx 0 0 0 0 0 2 0,
    .vstx 0 0 0 0 0 0 32, .vldb 16 0 0 0 0 0 0, .vldb 0 2 0 0 0 0 0, .vldb 0 0 32 0 0 0 0, .vldb 0 0 0 32 0 0 0,
    .vldb 0 0 0 0 8 0 0, .vldb 0 0 0 0 0 2 0, .vldb 0 0 0 0 0 0 64, .spl 16 0 0 0 0, .spl 0 4 0 0 0, .spl 0 0 32 0 0,
    .spl 0 0 0 2 0, .spl 0 0 0 0 4096, .sps 16 0 0 0 0, .sps 0 4 0 0 0, .sps 0 0 32 0 0, .sps 0 0 0 2 0,
    .sps 0 0 0 0 4096, .qbind 16 0 0 0, .qbind 0 16 0 0, .qbind 0 0 32 0, .qbind 0 0 0 32, .qld 16 0 0 0 0 0,
    .qld 0 16 0 0 0 0, .qld 0 0 4 0 0 0, .qld 0 0 0 32 0 0, .qld 0 0 0 0 64 0, .qld 0 0 0 0 0 16, .qst 16 0 0 0 0 0,
    .qst 0 16 0 0 0 0, .qst 0 0 4 0 0 0, .qst 0 0 0 32 0 0, .qst 0 0 0 0 64 0, .qst 0 0 0 0 0 16, .qadvP 16 0 0,
    .qadvP 0 16 0] : List Instr).all (fun i => !i.fieldsFit && !i.wf) = true := by decide +kernel
theorem test_wideField_7 : ([
    .qadvP 0 0 8192, .qadvC 16 0 0, .qadvC 0 16 0, .qadvC 0 0 8192, .qstat 16 0 0 0, .qstat 0 16 0 0,
    .qstat 0 0 32 0, .qstat 0 0 0 64, .atomAdd 16 0 0 0 0, .atomAdd 0 32 0 0 0, .atomAdd 0 0 32 0 0,
    .atomAdd 0 0 0 32 0, .atomAdd 0 0 0 0 2, .atomMin 16 0 0 0 0 0, .atomMin 0 32 0 0 0 0, .atomMin 0 0 32 0 0 0,
    .atomMin 0 0 0 32 0 0, .atomMin 0 0 0 0 2 0, .atomMin 0 0 0 0 0 2, .atomMax 16 0 0 0 0 0, .atomMax 0 32 0 0 0 0,
    .atomMax 0 0 32 0 0 0, .atomMax 0 0 0 32 0 0, .atomMax 0 0 0 0 2 0, .atomMax 0 0 0 0 0 2, .atomXchg 16 0 0 0 0,
    .atomXchg 0 32 0 0 0, .atomXchg 0 0 32 0 0, .atomXchg 0 0 0 32 0, .atomXchg 0 0 0 0 2, .atomCas 16 0 0 0 0 0,
    .atomCas 0 32 0 0 0 0, .atomCas 0 0 32 0 0 0, .atomCas 0 0 0 32 0 0, .atomCas 0 0 0 0 32 0, .atomCas 0 0 0 0 0 2,
    .atomIncb 16 0 0 0 0 0, .atomIncb 0 32 0 0 0 0, .atomIncb 0 0 32 0 0 0, .atomIncb 0 0 0 16 0 0,
    .atomIncb 0 0 0 0 32 0, .atomIncb 0 0 0 0 0 2, .aadd 16 0 0 0 0, .aadd 0 32 0 0 0, .aadd 0 0 32 0 0,
    .aadd 0 0 0 2 0, .aadd 0 0 0 0 32, .aaddi 16 0 0 0 0, .aaddi 0 32 0 0 0, .aaddi 0 0 32 0 0, .aaddi 0 0 0 2 0,
    .aaddi 0 0 0 0 2048, .ashl 16 0 0 0 0 0, .ashl 0 32 0 0 0 0, .ashl 0 0 32 0 0 0, .ashl 0 0 0 2 0 0,
    .ashl 0 0 0 0 32 0, .ashl 0 0 0 0 0 8, .amov 16 0 0 0 0 0, .amov 0 32 0 0 0 0, .amov 0 0 32 0 0 0,
    .amov 0 0 0 2 0 0, .amov 0 0 0 0 4 0, .amov 0 0 0 0 0 2, .sphCp 16 0 0 0 0 0 0, .sphCp 0 32 0 0 0 0 0,
    .sphCp 0 0 32 0 0 0 0, .sphCp 0 0 0 32 0 0 0, .sphCp 0 0 0 0 2 0 0, .sphCp 0 0 0 0 0 2 0, .sphCp 0 0 0 0 0 0 2,
    .sphGth 16 0 0 0 0, .sphGth 0 32 0 0 0, .sphGth 0 0 32 0 0, .sphGth 0 0 0 32 0, .sphGth 0 0 0 0 2,
    .sphSct 16 0 0 0 0, .sphSct 0 32 0 0 0, .sphSct 0 0 32 0 0, .sphSct 0 0 0 32 0, .sphSct 0 0 0 0 2,
    .sphSctAdd 16 0 0 0 0, .sphSctAdd 0 32 0 0 0, .sphSctAdd 0 0 32 0 0, .sphSctAdd 0 0 0 32 0, .sphSctAdd 0 0 0 0 2,
    .sphRed 16 0 0 0 0 0 0, .sphRed 0 32 0 0 0 0 0, .sphRed 0 0 32 0 0 0 0, .sphRed 0 0 0 32 0 0 0] : List Instr).all (fun i => !i.fieldsFit && !i.wf) = true := by decide +kernel
theorem test_wideField_8 : ([
    .sphRed 0 0 0 0 2 0 0, .sphRed 0 0 0 0 0 2 0, .sphRed 0 0 0 0 0 0 2, .sphFill 16 0 0 0 0 0,
    .sphFill 0 32 0 0 0 0, .sphFill 0 0 32 0 0 0, .sphFill 0 0 0 32 0 0, .sphFill 0 0 0 0 2 0, .sphFill 0 0 0 0 0 2,
    .sphAtom 16 0 0 0 0 0, .sphAtom 0 32 0 0 0 0, .sphAtom 0 0 32 0 0 0, .sphAtom 0 0 0 32 0 0, .sphAtom 0 0 0 0 2 0,
    .sphAtom 0 0 0 0 0 8, .sphCnl 16 0 0 0, .sphCnl 0 32 0 0, .sphCnl 0 0 2 0, .sphCnl 0 0 0 2, .sphPre 16 0 0 0,
    .sphPre 0 32 0 0, .sphPre 0 0 32 0, .sphPre 0 0 0 2, .sphStat 16 0 0 0, .sphStat 0 32 0 0, .sphStat 0 0 4 0,
    .sphStat 0 0 0 2, .sphImm 16 0 0 0 0 0, .sphImm 0 32 0 0 0 0, .sphImm 0 0 32 0 0 0, .sphImm 0 0 0 32 0 0,
    .sphImm 0 0 0 0 2 0, .sphImm 0 0 0 0 0 2, .nopV 16, .ffma 16 0 0 0 0 0 0, .ffma 0 32 0 0 0 0 0,
    .ffma 0 0 32 0 0 0 0, .ffma 0 0 0 32 0 0 0, .ffma 0 0 0 0 8 0 0, .ffma 0 0 0 0 0 8 0, .ffma 0 0 0 0 0 0 8,
    .ffms 16 0 0 0 0 0 0, .ffms 0 32 0 0 0 0 0, .ffms 0 0 32 0 0 0 0, .ffms 0 0 0 32 0 0 0, .ffms 0 0 0 0 8 0 0,
    .ffms 0 0 0 0 0 8 0, .ffms 0 0 0 0 0 0 8, .fnma 16 0 0 0 0 0 0, .fnma 0 32 0 0 0 0 0, .fnma 0 0 32 0 0 0 0,
    .fnma 0 0 0 32 0 0 0, .fnma 0 0 0 0 8 0 0, .fnma 0 0 0 0 0 8 0, .fnma 0 0 0 0 0 0 8, .fadd 16 0 0 0 0 0 0,
    .fadd 0 32 0 0 0 0 0, .fadd 0 0 32 0 0 0 0, .fadd 0 0 0 32 0 0 0, .fadd 0 0 0 0 8 0 0, .fadd 0 0 0 0 0 8 0,
    .fadd 0 0 0 0 0 0 8, .fsub 16 0 0 0 0 0 0, .fsub 0 32 0 0 0 0 0, .fsub 0 0 32 0 0 0 0, .fsub 0 0 0 32 0 0 0,
    .fsub 0 0 0 0 8 0 0, .fsub 0 0 0 0 0 8 0, .fsub 0 0 0 0 0 0 8, .fmul 16 0 0 0 0 0 0, .fmul 0 32 0 0 0 0 0,
    .fmul 0 0 32 0 0 0 0, .fmul 0 0 0 32 0 0 0, .fmul 0 0 0 0 8 0 0, .fmul 0 0 0 0 0 8 0, .fmul 0 0 0 0 0 0 8,
    .fdiv 16 0 0 0 0 0 0, .fdiv 0 32 0 0 0 0 0, .fdiv 0 0 32 0 0 0 0, .fdiv 0 0 0 32 0 0 0, .fdiv 0 0 0 0 8 0 0,
    .fdiv 0 0 0 0 0 8 0, .fdiv 0 0 0 0 0 0 8, .fsqrt 16 0 0 0 0 0, .fsqrt 0 32 0 0 0 0, .fsqrt 0 0 32 0 0 0,
    .fsqrt 0 0 0 8 0 0, .fsqrt 0 0 0 0 8 0, .fsqrt 0 0 0 0 0 8, .frcp 16 0 0 0 0 0] : List Instr).all (fun i => !i.fieldsFit && !i.wf) = true := by decide +kernel
theorem test_wideField_9 : ([
    .frcp 0 32 0 0 0 0, .frcp 0 0 32 0 0 0, .frcp 0 0 0 8 0 0, .frcp 0 0 0 0 8 0, .frcp 0 0 0 0 0 8,
    .frsq 16 0 0 0 0 0, .frsq 0 32 0 0 0 0, .frsq 0 0 32 0 0 0, .frsq 0 0 0 8 0 0, .frsq 0 0 0 0 8 0,
    .frsq 0 0 0 0 0 8, .fexp2 16 0 0 0 0 0, .fexp2 0 32 0 0 0 0, .fexp2 0 0 32 0 0 0, .fexp2 0 0 0 8 0 0,
    .fexp2 0 0 0 0 8 0, .fexp2 0 0 0 0 0 8, .flog2 16 0 0 0 0 0, .flog2 0 32 0 0 0 0, .flog2 0 0 32 0 0 0,
    .flog2 0 0 0 8 0 0, .flog2 0 0 0 0 8 0, .flog2 0 0 0 0 0 8, .fcvt 16 0 0 0 0 0 0, .fcvt 0 32 0 0 0 0 0,
    .fcvt 0 0 32 0 0 0 0, .fcvt 0 0 0 16 0 0 0, .fcvt 0 0 0 0 16 0 0, .fcvt 0 0 0 0 0 8 0, .fcvt 0 0 0 0 0 0 8,
    .fmin 16 0 0 0 0 0, .fmin 0 32 0 0 0 0, .fmin 0 0 32 0 0 0, .fmin 0 0 0 32 0 0, .fmin 0 0 0 0 8 0,
    .fmin 0 0 0 0 0 8, .fmax 16 0 0 0 0 0, .fmax 0 32 0 0 0 0, .fmax 0 0 32 0 0 0, .fmax 0 0 0 32 0 0,
    .fmax 0 0 0 0 8 0, .fmax 0 0 0 0 0 8, .fabs 16 0 0 0 0, .fabs 0 32 0 0 0, .fabs 0 0 32 0 0, .fabs 0 0 0 8 0,
    .fabs 0 0 0 0 8, .fneg 16 0 0 0 0, .fneg 0 32 0 0 0, .fneg 0 0 32 0 0, .fneg 0 0 0 8 0, .fneg 0 0 0 0 8,
    .fscl 16 0 0 0 0 0, .fscl 0 32 0 0 0 0, .fscl 0 0 32 0 0 0, .fscl 0 0 0 32 0 0, .fscl 0 0 0 0 8 0,
    .fscl 0 0 0 0 0 8, .fcmp 16 0 0 0 0 0 0, .fcmp 0 8 0 0 0 0 0, .fcmp 0 0 32 0 0 0 0, .fcmp 0 0 0 32 0 0 0,
    .fcmp 0 0 0 0 8 0 0, .fcmp 0 0 0 0 0 8 0, .fcmp 0 0 0 0 0 0 8, .icmp 16 0 0 0 0 0 0, .icmp 0 8 0 0 0 0 0,
    .icmp 0 0 32 0 0 0 0, .icmp 0 0 0 32 0 0 0, .icmp 0 0 0 0 8 0 0, .icmp 0 0 0 0 0 8 0, .icmp 0 0 0 0 0 0 8,
    .iadd 16 0 0 0 0 0 0, .iadd 0 32 0 0 0 0 0, .iadd 0 0 32 0 0 0 0, .iadd 0 0 0 32 0 0 0, .iadd 0 0 0 0 8 0 0,
    .iadd 0 0 0 0 0 2 0, .iadd 0 0 0 0 0 0 4, .isub 16 0 0 0 0 0 0, .isub 0 32 0 0 0 0 0, .isub 0 0 32 0 0 0 0,
    .isub 0 0 0 32 0 0 0, .isub 0 0 0 0 8 0 0, .isub 0 0 0 0 0 2 0, .isub 0 0 0 0 0 0 4, .imul 16 0 0 0 0 0 0,
    .imul 0 32 0 0 0 0 0, .imul 0 0 32 0 0 0 0, .imul 0 0 0 32 0 0 0] : List Instr).all (fun i => !i.fieldsFit && !i.wf) = true := by decide +kernel
theorem test_wideField_10 : ([
    .imul 0 0 0 0 8 0 0, .imul 0 0 0 0 0 2 0, .imul 0 0 0 0 0 0 4, .imin 16 0 0 0 0 0 0, .imin 0 32 0 0 0 0 0,
    .imin 0 0 32 0 0 0 0, .imin 0 0 0 32 0 0 0, .imin 0 0 0 0 8 0 0, .imin 0 0 0 0 0 2 0, .imin 0 0 0 0 0 0 4,
    .imax 16 0 0 0 0 0 0, .imax 0 32 0 0 0 0 0, .imax 0 0 32 0 0 0 0, .imax 0 0 0 32 0 0 0, .imax 0 0 0 0 8 0 0,
    .imax 0 0 0 0 0 2 0, .imax 0 0 0 0 0 0 4, .iand 16 0 0 0 0 0 0, .iand 0 32 0 0 0 0 0, .iand 0 0 32 0 0 0 0,
    .iand 0 0 0 32 0 0 0, .iand 0 0 0 0 8 0 0, .iand 0 0 0 0 0 2 0, .iand 0 0 0 0 0 0 4, .ior 16 0 0 0 0 0 0,
    .ior 0 32 0 0 0 0 0, .ior 0 0 32 0 0 0 0, .ior 0 0 0 32 0 0 0, .ior 0 0 0 0 8 0 0, .ior 0 0 0 0 0 2 0,
    .ior 0 0 0 0 0 0 4, .ixor 16 0 0 0 0 0 0, .ixor 0 32 0 0 0 0 0, .ixor 0 0 32 0 0 0 0, .ixor 0 0 0 32 0 0 0,
    .ixor 0 0 0 0 8 0 0, .ixor 0 0 0 0 0 2 0, .ixor 0 0 0 0 0 0 4, .ishl 16 0 0 0 0 0 0, .ishl 0 32 0 0 0 0 0,
    .ishl 0 0 32 0 0 0 0, .ishl 0 0 0 32 0 0 0, .ishl 0 0 0 0 8 0 0, .ishl 0 0 0 0 0 2 0, .ishl 0 0 0 0 0 0 4,
    .ishr 16 0 0 0 0 0 0, .ishr 0 32 0 0 0 0 0, .ishr 0 0 32 0 0 0 0, .ishr 0 0 0 32 0 0 0, .ishr 0 0 0 0 8 0 0,
    .ishr 0 0 0 0 0 2 0, .ishr 0 0 0 0 0 0 4, .isha 16 0 0 0 0 0 0, .isha 0 32 0 0 0 0 0, .isha 0 0 32 0 0 0 0,
    .isha 0 0 0 32 0 0 0, .isha 0 0 0 0 8 0 0, .isha 0 0 0 0 0 2 0, .isha 0 0 0 0 0 0 4, .vsel 16 0 0 0 0,
    .vsel 0 32 0 0 0, .vsel 0 0 32 0 0, .vsel 0 0 0 8 0, .vsel 0 0 0 0 4, .vperm 16 0 0 0 0, .vperm 0 32 0 0 0,
    .vperm 0 0 32 0 0, .vperm 0 0 0 32 0, .vperm 0 0 0 0 4, .vbcLane 16 0 0 0 0, .vbcLane 0 32 0 0 0,
    .vbcLane 0 0 4 0 0, .vbcLane 0 0 0 32 0, .vbcLane 0 0 0 0 64, .vbcImm 16 0 0 0 0, .vbcImm 0 32 0 0 0,
    .vbcImm 0 0 4 0 0, .vbcImm 0 0 0 2 0, .vbcImm 0 0 0 0 1024, .vmov 16 0 0 0 0, .vmov 0 32 0 0 0, .vmov 0 0 32 0 0,
    .vmov 0 0 0 8 0, .vmov 0 0 0 0 4, .vsum 16 0 0 0 0, .vsum 0 32 0 0 0, .vsum 0 0 32 0 0, .vsum 0 0 0 8 0,
    .vsum 0 0 0 0 16, .vmaxr 16 0 0 0 0] : List Instr).all (fun i => !i.fieldsFit && !i.wf) = true := by decide +kernel
theorem test_wideField_11 : ([
    .vmaxr 0 32 0 0 0, .vmaxr 0 0 32 0 0, .vmaxr 0 0 0 8 0, .vmaxr 0 0 0 0 16, .vminr 16 0 0 0 0, .vminr 0 32 0 0 0,
    .vminr 0 0 32 0 0, .vminr 0 0 0 8 0, .vminr 0 0 0 0 16, .vexpmax 16 0 0 0 0, .vexpmax 0 32 0 0 0,
    .vexpmax 0 0 32 0 0, .vexpmax 0 0 0 8 0, .vexpmax 0 0 0 0 8, .vnzs 16 0 0 0 0 0 0, .vnzs 0 32 0 0 0 0 0,
    .vnzs 0 0 32 0 0 0 0, .vnzs 0 0 0 8 0 0 0, .vnzs 0 0 0 0 8 0 0, .vnzs 0 0 0 0 0 4 0, .vnzs 0 0 0 0 0 0 2,
    .vcmpk 16 0 0 0 0 0, .vcmpk 0 32 0 0 0 0, .vcmpk 0 0 32 0 0 0, .vcmpk 0 0 0 8 0 0, .vcmpk 0 0 0 0 8 0,
    .vcmpk 0 0 0 0 0 4, .fcls 16 0 0 0 0, .fcls 0 32 0 0 0, .fcls 0 0 32 0 0, .fcls 0 0 0 8 0, .fcls 0 0 0 0 8,
    .mand 16 0 0 0, .mand 0 8 0 0, .mand 0 0 8 0, .mand 0 0 0 8, .mor 16 0 0 0, .mor 0 8 0 0, .mor 0 0 8 0,
    .mor 0 0 0 8, .mnot 16 0 0, .mnot 0 8 0, .mnot 0 0 8, .mpop 16 0 0, .mpop 0 32 0, .mpop 0 0 8, .vsp 16 0 0,
    .vsp 0 32 0, .vsp 0 0 16, .nopX 16, .ffmaW 16 0 0 0 0 0 0, .ffmaW 0 32 0 0 0 0 0, .ffmaW 0 0 32 0 0 0 0,
    .ffmaW 0 0 0 32 0 0 0, .ffmaW 0 0 0 0 8 0 0, .ffmaW 0 0 0 0 0 8 0, .ffmaW 0 0 0 0 0 0 8, .ffmsW 16 0 0 0 0 0 0,
    .ffmsW 0 32 0 0 0 0 0, .ffmsW 0 0 32 0 0 0 0, .ffmsW 0 0 0 32 0 0 0, .ffmsW 0 0 0 0 8 0 0, .ffmsW 0 0 0 0 0 8 0,
    .ffmsW 0 0 0 0 0 0 8, .fnmaW 16 0 0 0 0 0 0, .fnmaW 0 32 0 0 0 0 0, .fnmaW 0 0 32 0 0 0 0, .fnmaW 0 0 0 32 0 0 0,
    .fnmaW 0 0 0 0 8 0 0, .fnmaW 0 0 0 0 0 8 0, .fnmaW 0 0 0 0 0 0 8, .faddW 16 0 0 0 0 0 0, .faddW 0 32 0 0 0 0 0,
    .faddW 0 0 32 0 0 0 0, .faddW 0 0 0 32 0 0 0, .faddW 0 0 0 0 8 0 0, .faddW 0 0 0 0 0 8 0, .faddW 0 0 0 0 0 0 8,
    .fsubW 16 0 0 0 0 0 0, .fsubW 0 32 0 0 0 0 0, .fsubW 0 0 32 0 0 0 0, .fsubW 0 0 0 32 0 0 0, .fsubW 0 0 0 0 8 0 0,
    .fsubW 0 0 0 0 0 8 0, .fsubW 0 0 0 0 0 0 8, .fmulW 16 0 0 0 0 0 0, .fmulW 0 32 0 0 0 0 0, .fmulW 0 0 32 0 0 0 0,
    .fmulW 0 0 0 32 0 0 0, .fmulW 0 0 0 0 8 0 0] : List Instr).all (fun i => !i.fieldsFit && !i.wf) = true := by decide +kernel
theorem test_wideField_12 : ([
    .fmulW 0 0 0 0 0 8 0, .fmulW 0 0 0 0 0 0 8, .fcvtW 16 0 0 0 0 0 0, .fcvtW 0 32 0 0 0 0 0, .fcvtW 0 0 32 0 0 0 0,
    .fcvtW 0 0 0 16 0 0 0, .fcvtW 0 0 0 0 16 0 0, .fcvtW 0 0 0 0 0 8 0, .fcvtW 0 0 0 0 0 0 8, .fminW 16 0 0 0 0 0,
    .fminW 0 32 0 0 0 0, .fminW 0 0 32 0 0 0, .fminW 0 0 0 32 0 0, .fminW 0 0 0 0 8 0, .fminW 0 0 0 0 0 8,
    .fmaxW 16 0 0 0 0 0, .fmaxW 0 32 0 0 0 0, .fmaxW 0 0 32 0 0 0, .fmaxW 0 0 0 32 0 0, .fmaxW 0 0 0 0 8 0,
    .fmaxW 0 0 0 0 0 8, .fabsW 16 0 0 0 0, .fabsW 0 32 0 0 0, .fabsW 0 0 32 0 0, .fabsW 0 0 0 8 0, .fabsW 0 0 0 0 8,
    .fnegW 16 0 0 0 0, .fnegW 0 32 0 0 0, .fnegW 0 0 32 0 0, .fnegW 0 0 0 8 0, .fnegW 0 0 0 0 8, .fsclW 16 0 0 0 0 0,
    .fsclW 0 32 0 0 0 0, .fsclW 0 0 32 0 0 0, .fsclW 0 0 0 32 0 0, .fsclW 0 0 0 0 8 0, .fsclW 0 0 0 0 0 8,
    .iaddW 16 0 0 0 0 0 0, .iaddW 0 32 0 0 0 0 0, .iaddW 0 0 32 0 0 0 0, .iaddW 0 0 0 32 0 0 0, .iaddW 0 0 0 0 8 0 0,
    .iaddW 0 0 0 0 0 2 0, .iaddW 0 0 0 0 0 0 4, .isubW 16 0 0 0 0 0 0, .isubW 0 32 0 0 0 0 0, .isubW 0 0 32 0 0 0 0,
    .isubW 0 0 0 32 0 0 0, .isubW 0 0 0 0 8 0 0, .isubW 0 0 0 0 0 2 0, .isubW 0 0 0 0 0 0 4, .imulW 16 0 0 0 0 0 0,
    .imulW 0 32 0 0 0 0 0, .imulW 0 0 32 0 0 0 0, .imulW 0 0 0 32 0 0 0, .imulW 0 0 0 0 8 0 0, .imulW 0 0 0 0 0 2 0,
    .imulW 0 0 0 0 0 0 4, .iminW 16 0 0 0 0 0 0, .iminW 0 32 0 0 0 0 0, .iminW 0 0 32 0 0 0 0, .iminW 0 0 0 32 0 0 0,
    .iminW 0 0 0 0 8 0 0, .iminW 0 0 0 0 0 2 0, .iminW 0 0 0 0 0 0 4, .imaxW 16 0 0 0 0 0 0, .imaxW 0 32 0 0 0 0 0,
    .imaxW 0 0 32 0 0 0 0, .imaxW 0 0 0 32 0 0 0, .imaxW 0 0 0 0 8 0 0, .imaxW 0 0 0 0 0 2 0, .imaxW 0 0 0 0 0 0 4,
    .iandW 16 0 0 0 0 0 0, .iandW 0 32 0 0 0 0 0, .iandW 0 0 32 0 0 0 0, .iandW 0 0 0 32 0 0 0, .iandW 0 0 0 0 8 0 0,
    .iandW 0 0 0 0 0 2 0, .iandW 0 0 0 0 0 0 4, .iorW 16 0 0 0 0 0 0, .iorW 0 32 0 0 0 0 0, .iorW 0 0 32 0 0 0 0,
    .iorW 0 0 0 32 0 0 0, .iorW 0 0 0 0 8 0 0, .iorW 0 0 0 0 0 2 0, .iorW 0 0 0 0 0 0 4, .ixorW 16 0 0 0 0 0 0,
    .ixorW 0 32 0 0 0 0 0, .ixorW 0 0 32 0 0 0 0, .ixorW 0 0 0 32 0 0 0] : List Instr).all (fun i => !i.fieldsFit && !i.wf) = true := by decide +kernel
theorem test_wideField_13 : ([
    .ixorW 0 0 0 0 8 0 0, .ixorW 0 0 0 0 0 2 0, .ixorW 0 0 0 0 0 0 4, .ishlW 16 0 0 0 0 0 0, .ishlW 0 32 0 0 0 0 0,
    .ishlW 0 0 32 0 0 0 0, .ishlW 0 0 0 32 0 0 0, .ishlW 0 0 0 0 8 0 0, .ishlW 0 0 0 0 0 2 0, .ishlW 0 0 0 0 0 0 4,
    .ishrW 16 0 0 0 0 0 0, .ishrW 0 32 0 0 0 0 0, .ishrW 0 0 32 0 0 0 0, .ishrW 0 0 0 32 0 0 0, .ishrW 0 0 0 0 8 0 0,
    .ishrW 0 0 0 0 0 2 0, .ishrW 0 0 0 0 0 0 4, .ishaW 16 0 0 0 0 0 0, .ishaW 0 32 0 0 0 0 0, .ishaW 0 0 32 0 0 0 0,
    .ishaW 0 0 0 32 0 0 0, .ishaW 0 0 0 0 8 0 0, .ishaW 0 0 0 0 0 2 0, .ishaW 0 0 0 0 0 0 4, .mld 16 0 0 0 0,
    .mld 0 64 0 0 0, .mld 0 0 32 0 0, .mld 0 0 0 2 0, .mld 0 0 0 0 256, .mcb 16 0 0 0, .mcb 0 64 0 0, .mcb 0 0 32 0,
    .mcb 0 0 0 2, .msc 16 0 0, .msc 0 32 0, .msc 0 0 2, .bagOpen 16 0 0 0, .bagOpen 0 32 0 0, .bagOpen 0 0 2 0,
    .bagOpen 0 0 0 16384, .bagRows 16 0 0 0 0, .bagRows 0 32 0 0 0, .bagRows 0 0 2 0 0, .bagRows 0 0 0 2 0,
    .bagRows 0 0 0 0 16, .bagPump 16 0 0, .bagPump 0 32 0, .bagPump 0 0 2, .bagClose 16, .bagRep 16 0 0,
    .bagRep 0 32 0, .bagRep 0 0 2, .sumpDr 16 0 0 0 0 0 0, .sumpDr 0 32 0 0 0 0 0, .sumpDr 0 0 2 0 0 0 0,
    .sumpDr 0 0 0 16 0 0 0, .sumpDr 0 0 0 0 8 0 0, .sumpDr 0 0 0 0 0 2 0, .sumpDr 0 0 0 0 0 0 4, .sumpClr 16 0 0 0 0,
    .sumpClr 0 2 0 0 0, .sumpClr 0 0 32 0 0, .sumpClr 0 0 0 2 0, .sumpClr 0 0 0 0 2, .zld 16 0 0 0 0, .zld 0 4 0 0 0,
    .zld 0 0 32 0 0, .zld 0 0 0 32 0, .zld 0 0 0 0 2, .zst 16 0 0 0, .zst 0 4 0 0, .zst 0 0 32 0, .zst 0 0 0 2,
    .zis 16 0 0 0 0, .zis 0 4 0 0 0, .zis 0 0 4 0 0, .zis 0 0 0 4 0, .zis 0 0 0 0 4, .zun 16 0 0 0 0, .zun 0 4 0 0 0,
    .zun 0 0 4 0 0, .zun 0 0 0 4 0, .zun 0 0 0 0 4, .zsb 16 0 0 0, .zsb 0 4 0 0, .zsb 0 0 4 0, .zsb 0 0 0 4,
    .zma 16 0 0 0, .zma 0 16 0 0, .zma 0 0 4 0] : List Instr).all (fun i => !i.fieldsFit && !i.wf) = true := by decide +kernel
theorem test_wideField_14 : ([
    .zma 0 0 0 4, .zlen 16 0 0, .zlen 0 16 0, .zlen 0 0 4] : List Instr).all (fun i => !i.fieldsFit && !i.wf) = true := by decide +kernel

/-- Each item of R45 a word can break by itself, with the item's number. -/
theorem test_brokenItem_1 : ([
    (.sysc 0 65282, 1), (.ceq 15 15 15 13 0, 4), (.cne 6 0 31 12 0, 4), (.clt 5 0 31 0 1, 4), (.cle 5 15 0 22 0, 4),
    (.cltn 15 5 16 31 1, 4), (.clen 15 15 7 8 1, 4), (.ceqi 7 9 8 4095, 4), (.cnei 12 0 5 294, 4),
    (.clti 7 0 31 0, 4), (.clei 15 7 22 4095, 4), (.cltni 1 11 3 3740, 4), (.cleni 15 15 3 3360, 4),
    (.pand 13 1 0 12, 4), (.por 2 0 15 0, 4), (.pxor 15 0 10 0, 4), (.pset 0 0 1, 4), (.xcp 11 1 0 1 5 19 0, 1),
    (.xcp 3 1 17 3 31 0 0, 3), (.flClr 15 2 127, 1), (.stgWlImm 15 0 25468, 1), (.stgWlReg 15 0 31 0, 1),
    (.header 1 1 1 0 0 14 0 2047, 2), (.waitcImm 2 7 51732, 1), (.waitcReg 11 7 5 0, 1), (.xf 3 1 7, 1),
    (.rwsR 3 6 17 29 1, 1), (.rwsW 15 4 16 25 0, 1), (.vld 15 1 31 3 0 1 16, 3), (.vst 0 1 30 31 0 0 0, 3),
    (.vldx 0 1 24 14 0 0 23, 3), (.vstx 0 1 31 4 7 0 28, 3), (.vldb 0 1 31 0 4 0 20, 3), (.spl 15 0 23 0 4095, 7),
    (.spl 15 3 31 1 3493, 3), (.sps 0 3 19 1 582, 3), (.sps 0 0 4 1 1308, 7), (.qld 5 0 3 30 5 15, 3),
    (.qst 9 15 3 28 24 0, 3), (.atomIncb 15 0 31 1 16 0, 4), (.amov 5 0 3 0 3 0, 1), (.sphAtom 13 14 1 2 0 7, 1),
    (.sphCnl 1 20 1 1, 1), (.sphStat 12 31 3 1, 1), (.ffma 7 31 28 0 7 4 0, 1), (.ffms 6 14 27 31 3 7 7, 1),
    (.fnma 10 2 0 20 0 7 0, 1), (.fadd 15 0 31 0 7 5 4, 1), (.fsub 14 24 17 5 2 1 6, 1), (.fmul 0 31 15 31 0 0 7, 1),
    (.fdiv 2 21 27 17 5 0 7, 1), (.fsqrt 0 17 0 0 5 7, 1), (.frcp 7 4 0 0 2 6, 1), (.frsq 13 31 28 5 4 4, 1),
    (.fexp2 12 31 31 3 0 7, 1), (.flog2 14 1 31 5 4 4, 1), (.fcvt 0 0 0 15 6 7 1, 1), (.fmin 6 4 11 14 6 7, 1),
    (.fmax 15 10 11 17 7 5, 1), (.fabs 0 20 22 2 7, 1)] : List (Instr × Nat)).all (fun x => x.1.fieldsFit && x.1.brokenItem == some x.2 && !x.1.wf) = true := by decide +kernel
theorem test_brokenItem_2 : ([
    (.fneg 1 0 7 7 5, 1), (.fscl 6 31 3 2 1 7, 1), (.fcmp 0 1 26 0 2 6 0, 1), (.fcmp 11 0 31 31 4 2 5, 4),
    (.icmp 2 7 31 31 7 0 7, 1), (.icmp 15 0 5 19 4 4 0, 4), (.vbcLane 1 7 3 23 63, 1), (.vbcImm 12 22 0 1 677, 1),
    (.vsum 8 0 21 0 4, 1), (.vmaxr 0 8 13 0 5, 1), (.vminr 9 30 16 5 7, 1), (.vexpmax 0 21 16 5 7, 1),
    (.vnzs 5 15 1 7 1 0 0, 1), (.vnzs 2 10 27 7 0 1 0, 4), (.vcmpk 0 23 31 7 0 2, 4), (.fcls 14 0 0 1 6, 1),
    (.mand 13 0 7 7, 4), (.mor 4 0 4 0, 4), (.mnot 6 0 0, 4), (.vsp 15 0 0, 4), (.ffmaW 1 17 7 31 6 7 7, 1),
    (.ffmaW 15 31 0 7 1 0 0, 3), (.ffmsW 7 11 6 28 6 0 4, 3), (.ffmsW 13 11 19 28 6 7 6, 1),
    (.fnmaW 3 23 12 10 2 6 1, 1), (.fnmaW 11 19 12 15 4 1 3, 3), (.faddW 7 0 1 31 4 7 1, 1),
    (.faddW 0 2 0 31 1 0 1, 3), (.fsubW 15 0 0 31 4 7 3, 1), (.fsubW 8 0 31 8 1 2 0, 3), (.fmulW 0 7 13 31 4 6 3, 1),
    (.fmulW 1 16 11 31 7 3 1, 3), (.fcvtW 15 0 23 7 7 6 4, 1), (.fcvtW 5 28 1 11 13 2 1, 3),
    (.fminW 15 31 21 19 7 0, 3), (.fminW 0 0 14 21 0 7, 1), (.fmaxW 15 0 5 28 1 5, 1), (.fmaxW 1 30 5 25 0 0, 3),
    (.fabsW 6 25 12 6 0, 3), (.fabsW 4 15 3 0 7, 1), (.fnegW 15 28 9 7 6, 1), (.fnegW 1 26 3 0 0, 3),
    (.fsclW 0 0 14 19 6 4, 1), (.fsclW 11 31 19 20 2 3, 3), (.iaddW 0 15 10 16 7 1 0, 3), (.isubW 3 8 16 4 5 1 3, 3),
    (.imulW 7 9 11 30 1 0 0, 3), (.iminW 5 13 28 4 6 0 3, 3), (.imaxW 10 31 14 18 7 0 0, 3),
    (.iandW 4 21 18 11 3 0 2, 3), (.iorW 0 28 0 15 0 0 3, 3), (.ixorW 15 0 23 14 2 0 2, 3),
    (.ishlW 14 2 22 0 7 1 3, 3), (.ishrW 5 31 16 0 7 0 0, 3), (.ishaW 13 27 0 22 7 0 2, 3),
    (.bagRows 15 15 0 0 15, 1), (.sumpDr 10 14 0 8 7 0 0, 1)] : List (Instr × Nat)).all (fun x => x.1.fieldsFit && x.1.brokenItem == some x.2 && !x.1.wf) = true := by decide +kernel

/-- A neighbour of each that keeps the rules. -/
theorem test_wordKept_1 : ([
    .sysc 11 0, .ceq 15 2 28 0 0, .cne 0 10 22 31 0, .clt 15 10 31 0 1, .cle 10 4 24 14 1, .cltn 15 8 30 0 0,
    .clen 5 6 6 4 0, .ceqi 0 2 31 3065, .cnei 3 14 29 2648, .clti 0 12 9 4095, .clei 14 4 4 3159, .cltni 15 8 10 0,
    .cleni 4 10 15 0, .pand 1 11 0 15, .por 7 10 0 5, .pxor 0 14 0 15, .pset 12 10 0, .xcp 6 0 22 0 15 0 1,
    .flClr 0 0 53, .stgWlImm 1 2 9423, .stgWlReg 7 15 0 0, .header 1 1 2 3 9 8 1 615, .waitcImm 4 0 58609,
    .waitcReg 15 0 31 0, .xf 0 1 3, .rwsR 4 2 31 0 0, .rwsW 6 1 14 10 1, .vld 14 0 31 16 0 0 3,
    .vst 6 0 10 26 6 1 41, .vldx 9 0 28 0 0 0 12, .vstx 3 0 25 0 0 0 17, .vldb 3 1 9 11 2 0 63, .spl 10 2 2 0 0,
    .sps 2 3 12 1 0, .qld 14 1 2 6 57 9, .qst 0 0 0 0 63 2, .atomIncb 0 1 10 8 22 0, .amov 15 31 15 1 0 0,
    .sphAtom 14 0 0 8 0 0, .sphCnl 15 7 0 1, .sphStat 9 10 0 1, .ffma 15 15 4 0 6 0 0, .ffms 0 28 3 31 7 1 1,
    .fnma 0 31 7 31 7 0 4, .fadd 3 25 31 5 5 0 4, .fsub 3 22 31 0 4 3 2, .fmul 0 31 31 2 4 0 0,
    .fdiv 0 9 31 14 7 0 0, .fsqrt 15 29 17 7 0 0, .frcp 11 10 31 6 3 0, .frsq 1 5 7 3 3 2, .fexp2 8 31 31 7 2 4,
    .flog2 7 31 21 0 1 0, .fcvt 0 2 9 0 5 4 0, .fmin 7 27 24 21 0 0, .fmax 0 4 31 6 6 0, .fabs 15 0 15 3 2,
    .fneg 10 11 31 7 0, .fscl 0 25 28 21 0 3, .fcmp 15 1 20 18 7 0 3] : List Instr).all Instr.wf = true := by decide +kernel
theorem test_wordKept_2 : ([
    .icmp 13 1 0 31 5 1 4, .vbcLane 0 26 3 31 30, .vbcImm 6 17 2 1 912, .vsum 6 31 28 6 12, .vmaxr 11 14 0 4 0,
    .vminr 10 0 31 6 3, .vexpmax 0 20 31 2 0, .vnzs 7 24 11 3 1 3 0, .vcmpk 14 0 2 2 6 2, .fcls 7 31 12 0 1,
    .mand 11 7 6 0, .mor 0 7 5 2, .mnot 13 7 7, .vsp 0 27 10, .ffmaW 15 6 12 5 2 2 0, .ffmsW 15 2 13 0 2 2 0,
    .fnmaW 15 13 10 11 0 1 2, .faddW 9 4 0 0 0 0 2, .fsubW 6 0 15 3 7 0 0, .fmulW 1 6 6 14 2 1 4,
    .fcvtW 0 0 7 12 12 1 3, .fminW 0 0 0 13 1 0, .fmaxW 15 6 6 5 4 2, .fabsW 10 13 9 1 0, .fnegW 15 13 11 3 2,
    .fsclW 14 0 4 7 5 3, .iaddW 14 12 1 0 5 1 0, .isubW 15 4 0 3 7 0 2, .imulW 0 10 11 10 1 0 2,
    .iminW 15 0 4 0 1 1 1, .imaxW 15 15 0 10 0 1 0, .iandW 10 15 12 6 7 1 3, .iorW 1 0 3 12 0 0 1,
    .ixorW 14 12 4 0 7 0 2, .ishlW 14 1 10 0 4 0 2, .ishrW 4 0 0 0 7 1 3, .ishaW 4 1 0 0 5 0 3, .bagRows 0 26 0 1 8,
    .sumpDr 8 25 1 0 1 1 1] : List Instr).all Instr.wf = true := by decide +kernel

/-! ### Words written out from the spec's encodings -/

/-- A word of a slot decodes to the instruction, and the instruction is written as the word. -/
def reads (k w : Nat) (i : Instr) : Bool :=
  (match decodeSlot k w with
    | .ok j => j == i
    | .error _ => false) && encodeWord i == some (k, w)

/-- A word that breaks the item. -/
def breaks (k w item : Nat) : Bool :=
  match decodeSlot k w with
  | .ok _ => false
  | .error e => e.item == item

/-- Slot S: integers, immediates, compares, constants, select and predicates (chapter 7). -/
theorem test_words_integer :
    reads 0 0x10108A00 (.add 0 2 2 5 0) ∧ reads 0 0x10290808 (.mul 0 5 4 4 0) ∧ reads 0 0x201841FF (.addi 0 3 1 0 0x1FF) ∧
    reads 0 0x30408800 (.ceq 0 4 1 2 0) ∧ reads 0 0x40408005 (.ceqi 0 4 1 5) ∧ reads 0 0x501ABEEF (.lih 0 3 2 0xBEEF) ∧
    reads 0 0x60184480 (.sel 0 3 1 2 4 0) ∧ reads 0 0x70345000 (.pand 0 3 4 5) := by decide +kernel

/-- Slot S: branches, loops, exit. -/
theorem test_words_control :
    reads 0 0x803FFFFF (.br 0 0x3FFFFF) ∧ reads 0 0x807E0002 (.call 0 31 2) ∧ reads 0 0x80C1F000 (.ret 0 31 0) ∧
    reads 0 0x90204006 (.lpBegImm 0 4 6) ∧ reads 0 0x90480000 (.lpIdx 0 4 0) ∧
    reads 0 0x00200000 (.exit 0) := by decide +kernel

/-- Slot S: task and stage instructions (chapter 20). -/
theorem test_words_task :
    reads 0 0xC0029800 (.tlaunch 0 5 6 0) ∧ reads 0 0xC0249000 (.tjoin 0 9 4 0) ∧ reads 0 0xC0300000 (.tjoinAll 0) ∧
    reads 0 0xC0600002 (.stgAdvImm 0 2) ∧ reads 0 0xC0700005 (.stgSetImm 0 5) ∧ reads 0 0xC0810003 (.stgWlImm 0 1 3) ∧
    reads 0 0xC0938800 (.stgRd 0 7 1 0) := by decide +kernel

/-- The header (R34). -/
theorem test_words_header : reads 0 0xF5462812 (.header 0 1 1 1 3 1 1 0x12) := by decide +kernel

/-- Slot M: core accesses, atomics, address forms, siphon commands (chapters 10 and 12). -/
theorem test_words_scratch :
    reads 1 0x10C28868 (.ld 0 0 5 2 0 0x68) ∧ reads 1 0x20E20000 (.sd 0 1 2 0 0 0) ∧ reads 1 0x60A5310E (.atomIncb 0 5 6 4 7 0) ∧
    reads 1 0x70CC6500 (.amov 0 6 6 0 2 1) ∧ reads 1 0x80142540 (.sphGth 0 8 9 10 0) := by decide +kernel

/-- Slots V and X (chapters 8 and 15). -/
theorem test_words_vector :
    reads 2 0x40204408 (.fadd 0 4 1 2 0 1 0) ∧ reads 2 0xE0208204 (.vsum 0 2 1 0 1) ∧
    reads 2 0x9028FB40 (.fcvt 0 5 3 14 13 0 0) ∧
    reads 3 0x80A22000 (.zma 0 1 0 1) := by decide +kernel

/-- A major opcode that is not given is reserved (R41), a word of another slot's format too. -/
theorem test_words_reserved :
    breaks 0 0xE0000000 1 ∧ breaks 0 0x10000058 1 := by decide +kernel

/-- A bundle of four words, lowest address first, decodes to its four instructions (R32). -/
theorem test_bundle :
    (match decodeBytes (bytesOfNat 4 0x10108A00 ++ bytesOfNat 4 0x20E20000 ++ bytesOfNat 4 0x40204408 ++
        bytesOfNat 4 0x80A22000) with
      | .ok b => b == (.add 0 2 2 5 0, .sd 0 1 2 0 0 0, .fadd 0 4 1 2 0 1 0, .zma 0 1 0 1)
      | .error _ => false) = true := by decide +kernel

/-- A header that lends LB to a slot that cannot take it (item 2), a predicate two slots name (item 5). -/
theorem test_bundle_refused :
    bundleErrors (.ok (.header 0 0 0 0 0 0 1 1)) (.ok (.nopM 0)) (.ok (.nopV 0)) (.ok (.nopX 0)) = [2] ∧
    bundleErrors (.ok (.ceq 0 4 1 2 0)) (.ok (.atomIncb 0 5 6 4 7 0)) (.ok (.nopV 0)) (.ok (.nopX 0)) = [5] ∧
    bundleErrors (.ok (.flClr 0 0 1)) (.ok (.nopM 0)) (.ok (.nopV 0)) (.ok (.sumpClr 0 1 0 0 0)) = [6] ∧
    bundleErrors (.ok (.flClr 0 0 1)) (.ok (.nopM 0)) (.ok (.nopV 0)) (.ok (.nopX 0)) = [] := by decide +kernel

/-! ### Small states -/

/-- Context 0 runs step 0 of task 1 in one member of 16 KiB blocks; its next bundle is given. -/
abbrev bench (b : Nat) : State := State.reset.bench b
abbrev base : State := bench 0

def setS (n : Nat) (v : Word) (s : State) : State := s.updArch fun x => { x with s := vput x.s n v }
def setA (n : Nat) (v : Word) (s : State) : State := s.updArch fun x => { x with a := vput x.a n v }
def setV (n : Nat) (v : Vec) (s : State) : State := s.updArch fun x => { x with v := vput x.v n v }
def setW (n : Nat) (v : Vec) (s : State) : State := s.updArch fun x => { x with w := vput x.w n v }
def setM (n : Nat) (v : Mask) (s : State) : State := s.updArch fun x => { x with m := vput x.m n v }
def setZ (n : Nat) (l : List Word) (s : State) : State := s.updArch fun x => { x with z := vput x.z n l }

/-- What holds of the next state an instruction answers. -/
def nextIs (o : Host.Outcome State Fault Refusal) (p : State → Bool) : Bool :=
  match o with
  | .next t => p t
  | _ => false

/-- What holds of a value that is there. -/
def isSome (o : Option α) (p : α → Bool) : Bool :=
  match o with
  | some x => p x
  | none => false

/-- What holds of an answer that is no error. -/
def isOk (o : Except ε α) (p : α → Bool) : Bool :=
  match o with
  | .ok x => p x
  | .error _ => false

/-- What holds once an instruction's results have landed, `n` issue cycles on. -/
def after (n : Nat) (i : Instr) (s : State) (p : Ctx → Bool) : Bool := nextIs (exec i s) fun t => p (cycles n t.me)

def addBundle : Nat := 0x10108A00

/-! ### What the statements assume can be met -/

theorem witness_EncodeRoundTrip :
    Instr.wf (.add 0 2 2 5 0) = true ∧ (encodeWord (.add 0 2 2 5 0)).isSome ∧ encodeWord .kill = none ∧
      Instr.wf .kill = true := by decide +kernel

theorem witness_DecodeRoundTrip : isOk (decodeSlot 2 0x40204408) (fun i => i == .fadd 0 4 1 2 0 1 0) = true := by
  decide +kernel

theorem witness_BundleDecodes :
    encodeWord (.add 0 2 2 5 0) = some (0, 0x10108A00) ∧ encodeWord (.sd 0 1 2 0 0 0) = some (1, 0x20E20000) ∧
      encodeWord (.fadd 0 4 1 2 0 1 0) = some (2, 0x40204408) ∧ encodeWord (.zma 0 1 0 1) = some (3, 0x80A22000) ∧
      bundleErrors (.ok (.add 0 2 2 5 0)) (.ok (.sd 0 1 2 0 0 0)) (.ok (.fadd 0 4 1 2 0 1 0)) (.ok (.zma 0 1 0 1)) = [] ∧
      Instr.wf (.sd 0 1 2 0 0 0) ∧ Instr.wf (.fadd 0 4 1 2 0 1 0) ∧ Instr.wf (.zma 0 1 0 1) := by decide +kernel

/-- A turn that is allowed, one that is not, and an idle machine. -/
theorem witness_StepRunsTurn :
    turnAllowed State.reset .bootStart = true ∧ turnAllowed State.reset .issueBundle = false ∧
      turnAllowed base .issueBundle = true ∧ State.reset.sched = [] ∧ State.reset.mgmt.state ≠ 4 := by decide +kernel

/-- A fetched bundle that decodes, and one that does not. -/
theorem witness_TurnIssuesBundle :
    let opened := fun s : State => (s.openTurn s.cur).fetchSecond (otherCtx s.cur)
    let ready := fun s : State => let v := opened s
      s.killDue s.cur = false ∧ s.me.cond = .running ∧ v.follower = false ∧ v.me.yieldHold = false ∧ v.mustYield v.cur = false ∧
        v.me.bubbles = 0 ∧ v.me.parity = none
    let brings := fun (s : State) (p : List Byte → Bool) =>
      match fetchBundle (opened s) with
      | .bundle bs _ => p bs
      | _ => false
    let stalled := (bench addBundle).updMe (·.keepBundle (bytesOfNat 16 addBundle))
    ready (bench addBundle) ∧ ready (bench 0xE0000000) ∧ (opened (bench addBundle)).me.fetched = none ∧ ready stalled ∧
      isSome (opened stalled).me.fetched (fun bs => isOk (decodeBytes bs) fun _ => true) = true ∧
      brings (bench addBundle) (fun bs => isOk (decodeBytes bs) fun b => b.1 == .add 0 2 2 5 0) = true ∧
      brings (bench 0xE0000000) (fun bs => !isOk (decodeBytes bs) fun _ => true) = true := by decide +kernel

theorem witness_SlotsRunMeanings : Instr.slot (.zma 0 1 0 1) ≠ none ∧ Instr.slot (.add 0 1 2 3 0) ≠ none := by
  decide +kernel

theorem witness_GuardsAndEmptySlots : guardOf (.add 1 2 3 4 0) = some 1 ∧ base.me.a.rP 1 = false := by decide +kernel

/-- A bundle of an `add`, and a header that takes a mark. -/
theorem witness_CycleRunsItsSlots :
    let b : Bundle := (.add 0 2 2 5 0, .nopM 0, .nopV 0, .nopX 0)
    let h : Bundle := (.header 0 1 0 0 0 0 0 0, .nopM 0, .nopV 0, .nopX 0)
    isOk (beforeAccept b base) (fun r => let t := loadOrder b r
      (t.hurryAtoms t.cur).me.mcDue.isNone && (t.hurryAtoms t.cur).me.fpDue.isNone &&
      b.2.1.isCommand == false && nextIs (runSlot b.2.1 (t.landedView (hdrOf b))) fun u => u.me.cond != .parked &&
        nextIs (runSlot b.2.2.1 (u.startIssue t b [])) fun v => nextIs (runSlot b.2.2.2 v) fun w =>
          nextIs (runSlot b.1 w) fun z => (z.freeLatch t.cur).me.cond == .running) = true ∧
      isOk (beforeAccept h base) (fun t => (t.hurryAtoms t.cur).me.mcDue.isNone &&
        (t.hurryAtoms t.cur).me.fpDue.isNone && t.me.cond == .running) = true := by decide +kernel

/-- A pending write to each kind of register, one to a register that keeps nothing. -/
theorem witness_LandsAfterLatency :
    let one := fun (i : Instr) (f : RFile) (n : Nat) => nextIs (exec i base) fun t => match t.me.a.pend with
      | [p] => p.file == f && 1 ≤ p.left && p.reg == n
      | _ => false
    one (.mul 0 31 1 2 0) .s 31 = true ∧ one (.aadd 0 1 2 0 3) .a 1 = true ∧ one (.pset 0 15 1) .p 15 = true ∧
      one (.pset 0 2 1) .p 2 = true := by decide +kernel

/-- Two writes to s4 due together, both of slot S, and one of slot M issued later. -/
theorem witness_CollisionKeepsOne :
    let p : Pend := { file := .s, reg := 4, val := .word 1, left := 1, slot := 0, seq := 0, pc := 0 }
    let x := fun (q : Pend) => { base.me with a := { base.me.a with pend := [p, q] } }
    (x { p with val := .word 2, seq := 1 }).a.pend = [p, { p with val := .word 2, seq := 1 }] ∧ p.reg % 32 ≠ 0 ∧
      (x { p with val := .word 2, seq := 1 }).startCycle.coll = 1 ∧
      (x { p with val := .word 2, seq := 1 }).startCycle.a.rS 4 = 2 ∧
      (x { p with val := .word 2, seq := 1, slot := 1 }).startCycle.a.rS 4 = 1 := by decide +kernel

theorem witness_LanesLand :
    let r : List (Option (Nat × BitVec 7)) := List.replicate 32 (some (5, 0))
    r.length = laneCount (2 ^ (3 + 3)) ∧ r.getD 31 none ≠ none ∧
      (List.replicate 256 none : List (Option (Nat × BitVec 7))).length = laneCount (2 ^ (0 + 3)) := by decide +kernel

/-- Guarded forms run under p0; the immediates at the ends of their ranges. -/
theorem witness_IntegerSlot : On base 0 ∧ 511 < 512 ∧ 4095 < 4096 ∧ 3 < 4 ∧ 65535 < 65536 := by decide +kernel

theorem witness_IntegerDivision : On base 0 ∧ (setS 2 0 base).sReg 0 2 = 0 ∧ (setS 2 7 base).sReg 0 2 ≠ 0 := by
  decide +kernel

theorem witness_ControlFlow :
    let t : Ctx := { base.me with nextPc := some 32 }
    t.nextPc = some 32 ∧ base.me.nextPc = none ∧ base.me.a.loops = [] ∧ base.me.pc % 16 = 0 ∧ base.me.pc + 16 < 2 ^ 32 := by
  decide +kernel

theorem witness_LoopRunsItsCount :
    backTimes 64 2 (0, [{ count := 3, index := 0, start := 32, last := 64 }]) =
      (32, [{ count := 1, index := 2, start := 32, last := 64 }]) ∧
    backTimes 64 3 (0, [{ count := 3, index := 0, start := 32, last := 64 }]) = (80, []) := by decide +kernel

/-- Room on the loop stack with a count and without; a full stack; an empty one. -/
theorem witness_LoopInstructions :
    let six := base.updArch fun x => { x with loops := List.replicate 6 { count := 2, index := 0, start := 16, last := 16 } }
    On base 0 ∧ base.me.a.loops = [] ∧ ((setS 2 9 base).me.a.rS 2).toNat = 9 ∧ (base.me.a.rS 2).toNat = 0 ∧
      six.me.a.loops.length = 6 ∧ (six.me.a.loops[5]?).isSome ∧ six.me.a.loops.length ≤ 7 := by decide +kernel

theorem witness_CopiesModesAndStatus :
    On base 0 ∧ base.isDet base.cur = false ∧ base.me.a.rS 0 = 0 ∧ ((setS 3 5 base).me.a.rS 3).toNat = 5 := by
  decide +kernel

/-- A byte of the running task's OPB. -/
def setOpb (k : Nat) (v : Byte) (s : State) : State := s.updTask 1 fun t => { t with opb := t.opb.set k v }

/-- The task is the service task. -/
def svc (s : State) : State := setOpb 41 8 s

/-- The task has DET. -/
def det (s : State) : State := setOpb 41 1 s

/-- The request of the bundle at the PC has reached the engine. -/
def asked (s : State) : State := s.updMe fun x => { x with reqStage := .asked }

/-- The same machine with the two registers that a task request names. -/
def task (t : Task) (s : State) : State := { s with tasks := s.tasks ++ [t] }

theorem witness_TakingATrap : base.areaOf base.cur = some benchArea ∧ Memory.wf base.mem = true ∧
    (base.stepOf base.cur).isSome := by decide +kernel

/-- A step of another context, running, parked with a good image, parked with a broken one. -/
def otherStep (parked : List Nat) (image : Nat) (s : State) : State :=
  let u : State := { s with steps := s.steps ++ [{
    task := 1, step := 7, cis := 0, members := [{ tile := 1, base := 0, size := 16 }], ctxs := [(0, 2)], parkedBy := parked,
    areas := [(0, 0x500000)] }] }
  (u.updCtx 2 fun x => { x with cond := .parked, task := 1, step := 7 }).write (cellsAt (0x500000 + 8) (bytesOfNat 8 image))

/-- Step control asked for no step, a step that runs, one parked well, one with a broken image, a context without an area. -/
theorem witness_StepControl :
    let s := svc (asked (setS 2 1 (setS 3 7 base)))
    let run := otherStep [] 1 s
    let ok := otherStep [2] 1 s
    let bad := otherStep [2] 0 s
    (∀ t ∈ [s, run, ok, bad], On t 0 ∧ t.isSvc t.cur = true ∧ t.me.reqAns = none ∧ t.me.reqStage = .asked) ∧
      (s.updMe fun x => { x with reqAns := some 0 }).me.reqAns = some 0 ∧ s.findStep 1 7 = none ∧
      isSome (run.findStep 1 7) (fun k => k.parkedBy.isEmpty && !run.stepDead k &&
        (k.areas.find? fun a => a.1 == (run.me.a.rS 4).toNat).isSome &&
        (k.areas.find? fun a => a.1 == ((setS 4 9 run).me.a.rS 4).toNat).isNone) = true ∧
      isSome (ok.findStep 1 7) (fun k => !k.parkedBy.isEmpty && !ok.brokenImage k) = true ∧
      isSome (bad.findStep 1 7) (fun k => !k.parkedBy.isEmpty && bad.brokenImage k) = true := by decide +kernel

theorem witness_CommitTrapsAndExit :
    On base 0 ∧ base.isSvc base.cur = false ∧ base.me.bagAtIssue = none ∧ (base.findStep base.me.task base.me.step).isSome ∧
      (base.updArch fun x => { x with bag := some default }).me.bagAtIssue ≠ none := by decide +kernel

theorem witness_RollbackRestores :
    let x : Ctx := { base.me with records := [{ form := 0, scope := 0, len := 1, total := 1, left := 1 },
      { form := 0, scope := 0, len := 1, total := 1, left := 1, idx := 1, st := .committed }] }
    x.records.length = 2 ∧ 31 < 32 ∧ (x.rollback none).records.length = 1 := by decide +kernel

/-- A number of the context's own half and one past it; an image with nothing set and one with FMT 7 and more. -/
theorem witness_TidEntries :
    On base 0 ∧ base.physTid 31 = some 31 ∧ base.physTid 32 = none ∧ (setOpb 42 8 base).physTid 63 = some 63 ∧
      tidBad 0 = 0 ∧ tidBad (7 * 2 ^ 61 + 8) ≠ 0 ∧ 3 < 4 := by decide +kernel

/-- A mapped and an unmapped OPB address, a child to join and none, a task to kill and none, a region. -/
theorem witness_TaskRequests :
    let s := asked base
    let child : Task := { num := 9, opb := benchOpb, rev := 1, parent := 1, kind := .forked }
    let t := task child s
    let r := svc (s.write (cellsAt (benchCode + 16) (bytesOfNat 8 0x1000 ++ bytesOfNat 8 64 ++ [1, 3, 0])))
    On s 0 ∧ s.me.reqAns = none ∧ s.me.reqStage = .asked ∧ s.me.req = none ∧ s.joins = [] ∧ s.forks = [] ∧
      (s.updMe fun x => { x with reqAns := some 5 }).me.reqAns = some 5 ∧ (s.readOpb 0).isSome ∧ s.liveTasks < 16384 ∧
      s.readOpb 0x200000 = none ∧ s.myRev.depth < 16 ∧ s.revs.length < 4096 ∧
      isSome (t.childOf t.me.task 9) (fun k => k.join == .unjoined) = true ∧ s.childOf s.me.task 9 = none ∧
      s.stepChildren = [] ∧ isSome (t.findTask 9) (fun k => !k.recorded) = true ∧
      (svc t).isSvc t.cur = true ∧ s.findTask 9 = none ∧
      isOk (taskRead r r.myRev.table 16 24) (fun bs => isSome (parseRegion bs) fun g => isSome (r.taskOf r.cur) fun k =>
        (putRegion k.regions g).isSome) = true := by decide +kernel

/-- A stage within STAGES, past it, below the view; a wait that is over, one that is not, one on a step before the first. -/
theorem witness_StageInstructions :
    let s := setS 2 1 base
    let late := s.updMe fun x => { x with step := 3 }
    let passed := late.updCis 0 fun c => { c with cache := [{ task := 1, step := 2, v := 0xFFFE }] }
    On s 0 ∧ 1 ≤ s.stages ∧ s.stages < 2 ∧ s.me.a.stageView ≤ 1 ∧ (s.sReg 0 2).toNat ≤ s.stages ∧ s.me.wlPassed = none ∧
      (let u := s.updArch fun x => { x with stageView := 1 }; 0 < u.me.a.stageView ∧ (u.sReg 0 3).toNat < u.me.a.stageView) ∧
      s.stages < ((setS 2 9 s).sReg 0 2).toNat ∧ passed.stageSeen 1 = some 0xFFFE ∧ late.stageSeen 1 = some 0 ∧
      s.stageSeen 1 = none ∧ s.isDet s.cur = false ∧ (det s).isDet s.cur = true ∧ s.me.step < 1 ∧ 1 ≤ late.me.step := by
  decide +kernel

/-- A counter within its bound and past it, with a deferred trap due and without; sets with room, empty, outside; a barrier that
is ready and one that waits. -/
theorem witness_WaitsFencesAndSets :
    let s := setA 2 128 (setA 3 256 base)
    let d : DefTrap := { cause := 6, pc := 0, slot := none, exc := 0, detail := 0, watch := [0] }
    let due := base.updMe fun x => { x with deferred := [d] }
    let busy := base.updMe fun x => { x with cSph := 1 }
    On base 0 ∧ (base.me.counter 0).toNat ≤ 0 ∧ base.me.seenBy 0 = none ∧ due.me.seenBy 0 = some d ∧
      0 < (busy.me.counter 0).toNat ∧ (base.aReg 0 2).toNat % 2 ^ 32 < (busy.me.counter 0).toNat ∧
      (s.aReg 0 3).toNat % 2 ^ 24 = 256 ∧ s.resolve s.cur 128 256 1 ≠ none ∧ s.me.setsNext = [] ∧ (s.aReg 0 4).toNat % 2 ^ 24 = 0 ∧
      s.resolve s.cur 0xFFFF00 256 1 = none ∧ s.me.gate = [] ∧ s.me.phaseTop ≤ s.me.a.phases ∧ phaseReady s = true ∧
      s.isDet s.cur = false ∧
      (let w := s.updStep 1 0 fun k => { k with ctxs := [(0, 0), (1, 1)] }
       phaseReady (w.updCtx 1 fun x => { x with cond := .running, task := 1, step := 0 }) = false) := by decide +kernel

theorem witness_ScalarAccess :
    let s := setA 2 0x1000 base
    let l := fun (w b : Nat) => s.updMe fun x => { x with lt := w, lb := b }
    On s 0 ∧ coreReady s = true ∧ s.badMem = [] ∧ Reaches s false (loadLsa s 2 0 511 8) 8 8 (wellBase + 0x0FF8) ∧
      Reaches s true (storeLsa s 2 0 1 8) 8 8 (wellBase + 0x1008) ∧ s.resolve s.cur (loadLsa s 0 0 511 8) 8 8 = none ∧
      s.resolve s.cur (storeLsa (setA 2 1 base) 2 0 0 8) 8 8 = none ∧ s.me.lt ≠ 1 ∧ (l 1 2047).me.lt = 1 ∧
      (l 1 2047).me.lb < 2048 := by
  unfold Reaches
  decide +kernel

theorem witness_VectorAndIndexedAccess :
    let s := setA 2 (0x1000 + 3 * 2 ^ 24) base
    let b := setA 2 0x1000 base
    On s 0 ∧ coreReady s = true ∧ s.badMem = [] ∧ Reaches s false (vecLsa s 2 0 63) 256 256 (wellBase + 0x0F00) ∧
      (let w := 8 * 2 ^ esOf (s.aReg 0 2); Reaches s false (vecLsa s 2 0 0) (w / 8) (w / 8) (wellBase + 0x1000)) ∧
      Reaches s true (vecLsa s 2 0 0) 256 256 (wellBase + 0x1000) ∧ esWidth (b.aReg 0 2) = 8 ∧ esWidth (s.aReg 0 2) ≠ 8 ∧
      isOk (idxPlaces s false 64 (idxLanes s 2 0 0 4)) (fun l => l.length == 32 && l.head? == some (0, wellBase + 0x1000)) = true ∧
      isOk (idxPlaces s true 64 (idxLanes s 2 0 0 4)) (fun _ => true) = true := by
  unfold Reaches
  decide +kernel

theorem witness_SpillAndAddresses :
    On base 0 ∧ base.me.lt ≠ 1 ∧ 2047 < 2048 ∧ 3 < 4 ∧ (base.updMe fun x => { x with lt := 1, lb := 5 }).me.lt = 1 := by
  decide +kernel

/-- A handle bound as a producer of four 32-byte slots with one count taken, as a consumer, unbound, in use by the array; a
binding that may be made; a target that is in the gang and one that is not. -/
theorem witness_QueuesAndFlags :
    let bound := fun (r : Nat) => base.updArch fun x => { x with
      qs := vput x.qs 3 { base := 0x1000, sz := 2, role := r, wflag := 1, peer := 0, pflag := 2, nsl := 4, held := 1 } }
    let p := bound 1
    let c := bound 2
    let arr := base.updArch fun x => { x with qs := vput x.qs 3 { arr := true } }
    let good := setA 5 (0x1000 + 2 * 2 ^ 35) (setA 6 4 base)
    On p 0 ∧ p.me.canAcquire 3 1 = true ∧ slotOk (p.handle 3) 1 0 2 = true ∧ coreReady p = true ∧
      Reaches p true ((p.handle 3).slotLsa 0 + 2 * queueBytes 1) (queueBytes 1) (queueBytes 1) (wellBase + 0x1010) ∧
      Reaches p false ((p.handle 3).slotLsa 0 + 2 * queueBytes 1) (queueBytes 1) (queueBytes 1) (wellBase + 0x1010) ∧
      slotOk (p.handle 3) 1 4 0 = false ∧ advOk (p.handle 3) 1 1 = true ∧ advOk (c.handle 3) 2 1 = true ∧
      c.me.canAcquire 3 1 = true ∧ (match postTarget p 0 with | .ok d => d == 0 | .error _ => false) = true ∧
      (match postTarget p 5 with | .ok _ => false | .error _ => true) = true ∧ statOk (p.handle 3) 1 = true ∧
      (arr.handle 3).arr = true ∧ (good.handle 3).arr = false ∧
      (newBinding good (good.me.a.rA 5) (good.me.a.rA 6)).isSome := by
  unfold Reaches
  decide +kernel

/-- A 4-byte word in reach; a halfword; a route counter in range with the grant and without, and one past the range. -/
theorem witness_AtomicsAreSent :
    let s := setA 2 (0x1000 + 2 * 2 ^ 24) base
    let g := s.updCis 0 fun k => { k with grant := some (1, 0) }
    On s 0 ∧ atomReady s = true ∧ 2 ≤ esOf (s.aReg 0 2) ∧ Reaches s true (lsaOf (s.aReg 0 2)) 4 4 (wellBase + 0x1000) ∧
      esOf ((setA 2 0x1000001 base).aReg 0 2) < 2 ∧ hasGrant g = true ∧ hasGrant s = false ∧
      ((setA 3 63 base).aReg 0 3).toNat < 64 ∧ 64 ≤ ((setA 3 64 base).aReg 0 3).toNat ∧
      Reaches s true (lsaOf (s.aReg 0 2)) 256 256 (wellBase + 0x1000) := by
  unfold Reaches
  decide +kernel

theorem witness_AtomicUnitPerforms :
    let at' := fun (k : AtomKind) (n : Nat) => nextIs (exec .atomicPerform (base.updCis 0 fun c => { c with atoms := [{
      id := 0, c := 0, seq := 0, kind := k, place := wellBase, size := n, y := 7, z := 0, lsa := 0 }] })) fun t =>
        (t.cis 0).atoms.isEmpty
    (base.cis base.arg.n).atoms = [] ∧ Memory.wf base.mem = true ∧ at' .add 4 = true ∧ at' (.rcInc 63) 4 = true ∧
      at' .rcSnap 256 = true ∧ 3 < 2 ^ 4 ∧ 0 < 4 := by decide +kernel

/-! ### Siphon commands -/

/-- Registers of a command: destination a4, source a5, control word a6 and what follows it; page 0 may be written. -/
def sphRegs (dst src ctl ix : Word) : State :=
  (setA 4 dst (setA 5 src (setA 6 ctl (setA 7 ix base)))).write
    (cellsAt (benchTables + 0x20000) (bytesOfNat 8 (ownPa base benchCode + 7)))

/-- A form is accepted; it waits when the records are full. -/
def accepted (i : Instr) (dr : State → Option Draft) (s : State) : Bool :=
  let full := s.updMe fun x => { x with records := List.replicate 32 { form := 0, scope := 0, len := 1, total := 1, left := 1 } }
  On s 0 && s.me.draft.isNone && isSome (dr s) (fun d => (d.badSide s).isNone && (d.cmd.badTarget s).isNone &&
    (d.outside s).isNone && s.me.records.length < 32 &&
    match (d.finish s).places true s.cur (d.readList s) with
    | .ok _ _ _ => true
    | _ => false) && nextIs (exec i s) (fun t => t.me.cSph == 1 && t.me.gate.length == 1) &&
  32 ≤ full.me.records.length && nextIs (exec i full) (fun t => t.me.cSph == 0 && t.me.cond == .running)

theorem witness_SiphonAcceptance_copies :
    accepted (.sphCp 0 4 5 6 0 0 0) (fun s => draftCp s 4 5 6 0 0 0) (sphRegs 0x2000 0x1000 64 0) = true ∧
    accepted (.sphRed 0 4 5 6 0 0 0) (fun s => draftRed s 4 5 6 0 0 0) (sphRegs 0x2000 0x1000 80 0) = true ∧
    accepted (.sphFill 0 4 5 6 0 0) (fun s => draftFill s 4 5 6 0 0) (sphRegs 0x2000 0x1000 64 0) = true ∧
    accepted (.sphImm 0 4 5 6 0 0) (fun s => draftImm s 4 5 6 0 0) (sphRegs 0x2000 0x1000 8 0) = true := by decide +kernel

theorem witness_SiphonAcceptance_tables :
    let ix : Word := BitVec.ofNat 64 (2 * 2 ^ 40 + 2 * 2 ^ 37 + 1 * 2 ^ 24 + 0x3000)
    accepted (.sphGth 0 4 5 6 0) (fun s => draftRows s 1 false 5 4 6 0) (sphRegs 0x2000 0x1000 64 ix) = true ∧
    accepted (.sphPre 0 5 6 0) (fun s => draftPre s 5 6 0) (sphRegs 0x2000 0x1000 64 0) = true := by decide +kernel

theorem witness_SiphonAcceptance_writes :
    let ix : Word := BitVec.ofNat 64 (2 * 2 ^ 40 + 2 * 2 ^ 37 + 1 * 2 ^ 24 + 0x3000)
    accepted (.sphSct 0 4 5 6 0) (fun s => draftRows s 2 false 4 5 6 0) (sphRegs 0x1000 0x2000 64 ix) = true ∧
    accepted (.sphSctAdd 0 4 5 6 0) (fun s => draftRows s 2 true 4 5 6 0) (sphRegs 0x1000 0x2000 80 ix) = true ∧
    accepted (.sphAtom 0 4 5 6 0 0) (fun s => draftAtom s 4 5 6 0 0) (sphRegs 0x2000 0x1000 8 0) = true := by decide +kernel

/-- Operands that are turned away, and a local side outside the allocation. -/
theorem witness_SiphonAcceptance_refused :
    draftCp (sphRegs 0x2000 0x1000 0 0) 4 5 6 0 0 0 = none ∧ draftFill (sphRegs 0x2000 0x1000 0x8000000 0) 4 5 6 0 0 = none ∧
    draftRows (sphRegs 0x2000 0x1000 64 0) 1 false 5 4 6 0 = none ∧ draftAtom (sphRegs 0x2000 0x1000 5 0) 4 5 6 0 0 = none ∧
    draftPre (sphRegs 0x2000 0x1000 0 0) 5 6 0 = none ∧ draftImm (sphRegs 0x2000 0x1000 9 0) 4 5 6 0 0 = none ∧
    draftRed (sphRegs 0x2000 0x1000 64 0) 4 5 6 0 0 0 = none ∧
    isSome (draftCp (sphRegs 0xFFFF00 0x1000 64 0) 4 5 6 0 0 0) (fun d => (d.badSide base).isSome) = true ∧
    isSome (draftFill (sphRegs 0xFFFF00 0x1000 64 0) 4 5 6 0 0) (fun d => (d.badSide base).isSome) = true := by
  decide +kernel

theorem witness_SiphonOperandsAndRecords :
    let s := sphRegs 0x2000 0x1000 80 0
    On base 0 ∧ (draftCp s 4 5 6 0 0 0).isSome ∧ (draftRed s 4 5 6 0 0 0).isSome ∧ (s.takeIn default).me.records.length = 1 := by
  decide +kernel

/-! ### Vectors and the matrix -/

/-- The state an instruction leaves. -/
def does (i : Instr) (s : State) : State :=
  match exec i s with
  | .next t => t
  | _ => s

/-- A row of the context's bag in the spout latch. -/
def withRow (s : State) : State := (s.updMe fun x => { x with spoutBag := some 0, bagRun := some { bag := default } }).updTile 0
  fun t => { t with latch := some { c := 0, tag := 9, row := 1, bag := 0, drain := false, last := true, flags := 0, exc := 0, pc := 0 } }

/-- Serves FloatLanes, IntegerLaneForms, ConversionsAndCompares, Reductions and LanesMasksAndSpout also: their hypotheses are these. -/
theorem witness_VectorInstructions :
    On base 0 ∧ 3 < 4 ∧ 7 < 8 ∧ 5 < 6 ∧ base.me.lt ≠ 2 ∧ (base.updMe fun x => { x with lt := 2, lb := 7 }).me.lt = 2 ∧
      1023 < 1024 ∧ ((List.range (2048 / 64)).filter fun i => base.me.a.active 0 i 64) ≠ [] := by decide +kernel

/-- A mask register with all bits clear; a latch with no row and with one. -/
theorem witness_LanesMasksAndSpout :
    base.me.a.rM 1 = 0 ∧ base.latchRow = none ∧ (withRow base).latchRow.isSome := by decide +kernel

/-- TID entry n: the format, 64 rows of the stride at virtual address 0. -/
def withTid (n fmt stride : Nat) (s : State) : State := s.updTile 0 fun u =>
  { u with tids := vput u.tids n { img := BitVec.ofNat 256 (fmt * 2 ^ 61 + stride * 2 ^ 84 + 64 * 2 ^ 104) } }

/-- The stationary slot loaded through TID 0, of format 0 (f64). -/
def slotted : State := does (.mld 0 0 0 0 0) (withTid 0 0 0x400 base)

/-- A descriptor pair in a4 and a5. -/
def pair (x0 x1 : Nat) (s : State) : State := setA 4 (BitVec.ofNat 64 x0) (setA 5 (BitVec.ofNat 64 x1) s)

/-- A bag of the mode opened over one tag, its report at 0x8000. -/
def opened (mode : Nat) : State := does (.bagOpen 0 4 0 0) (pair (mode * 2 ^ 62) 0x8000 slotted)

theorem witness_TileLoads :
    let s := withTid 0 0 0x400 base
    On s 0 ∧ isSome (s.tidEntry 0) (fun e => e.fmt != 7 && s.resolve s.cur (ea (s.aReg 0 0) (s.me.simm 3 8 0) 256) (tileBytes e) 1 ==
      some wellBase && s.inSets s.cur 3 false 0 (tileBytes e)) = true ∧ isSome (base.tidEntry 0) (fun e => e.fmt == 7) = true ∧
      s.physTid 0 = some 0 ∧ s.resolve s.cur 0 32 32 = some wellBase ∧ s.inSets s.cur 3 false 0 64 = true ∧
      s.resolve s.cur 0 64 64 = some wellBase ∧ (setA 2 8 s).resolve s.cur 8 64 64 = none := by decide +kernel

/-- Bags that open in each mode, claiming a range and continuing one; an open bag; fields that are bad. -/
theorem witness_Bags :
    let opens := fun (mode : Nat) => let s := pair (mode * 2 ^ 62) 0x8000 slotted
      s.me.a.bag.isNone && bagFieldsBad (mode * 2 ^ 62) 0x8000 (s.me.simm 3 14 0) == false && isSome (s.tidEntry 0) (fun ent =>
        ent.fmt != 7 && let b := bagOf s (mode * 2 ^ 62) 0x8000 (s.me.simm 3 14 0) ent 0
          b.mode == mode && b.count * b.w ≤ 16384 && slotCheck s.me.a b.mode ent == none &&
          (s.resolve s.cur 0x8000 (reportBytes b) 8).isSome && (mode == 1 || isOk (claimRange s b.base (b.count * b.w) 0) id))
    let again := does (.bagClose 0) (opened 0)
    opens 0 = true ∧ opens 1 = true ∧ opens 2 = true ∧ (opened 0).me.a.bag.isSome ∧ bagFieldsBad (3 * 2 ^ 62) 0 0 = true ∧
      again.me.a.bag = none ∧ isOk (claimRange again 0 (perTag 0 1 0) 0) (fun c => !c) = true ∧
      SideOk (opened 0) true 0 16 8 wellBase := by
  unfold SideOk
  decide +kernel

/-- Feeds of an open bag: rows, a queue, the pump; drains and clears of a claimed range, freed and kept. -/
theorem witness_FeedsAndDrains :
    let rows := 2 * 2 ^ 48 + 0x400 * 2 ^ 24
    let s := pair rows 0 (opened 0)
    let pump := 2 * 2 ^ 48 + 5 * 2 ^ 42
    let p := pair pump 0 (withTid 5 0 0x400 (opened 0))
    let qx := 2 * 2 ^ 48 + 1 * 2 ^ 40 + 0x400 * 2 ^ 24
    let q := pair qx 0 ((opened 0).updArch fun x => { x with
      qs := vput x.qs 3 { base := 0x1000, sz := 7, role := 2, wflag := 1, peer := 0, pflag := 2, nsl := 4 } })
    let d := does (.bagClose 0) (opened 0)
    let w := perTag 0 1 0
    slotted.me.a.bag = none ∧
      isOk (feedStart s false 0) (fun b => isOk (feedLists s b 3 2 0 rows 0) (fun _ => true) && rowBytes b ≤ 0x400 &&
        (s.resolve s.cur 0 (0x400 + rowBytes b) 1).isSome && s.inSets s.cur 3 false 0 (0x400 + rowBytes b)) = true ∧
      isOk (feedStart p false 0) (fun b => isOk (feedLists p b 2 2 4 pump 0) (fun _ => true) && isSome (p.tidEntry 5) fun e =>
        e.fmt != 7 && e.rows != 0 && e.fmt == b.ent.fmt && e.bs == b.ent.bs && rowBytes b ≤ e.stride) = true ∧
      isOk (feedStart q false 0) (fun b => isOk (feedLists q b 3 2 0 qx 0) (fun _ => true) && rowBytes b ≤ 0x400 &&
        isOk (queueFeed q b 3 2 1 0x400) fun _ => true) = true ∧
      isOk (tableRange d 0 w true) (fun _ => true) = true ∧ isOk (tableRange d 0 1 false) (fun _ => true) = true ∧
      w * drainBytes 0 ≤ 256 ∧ (d.resolve d.cur 0x4000 (w * drainBytes 0) (drainBytes 0)).isSome ∧
      (d.resolve d.cur 0x4000 (w * 40) 8).isSome ∧ (s.updMe fun x => { x with inIssue := true }).me.inIssue = true := by
  decide +kernel

/-- Registers of pairs: two whose keys ascend in memory and two that do not, an empty one, ones too long together. -/
theorem witness_StreamsAndMerges :
    let up := cellsAt wellBase (bytesOfNat 8 5 ++ bytesOfNat 8 9)
    let down := cellsAt wellBase (bytesOfNat 8 9 ++ bytesOfNat 8 5)
    let s := setA 3 2 (base.updMe fun x => { x with strWait := some 0 })
    let word := fun (t : State) => (upTo 2).map fun k => BitVec.ofNat 64 (t.readNat (wellBase + 8 * k) 8)
    let key := fun (k : Nat) => BitVec.ofNat 64 k
    On s 0 ∧ s.me.strWait = some 0 ∧ (s.aReg 0 3).toNat = 2 ∧ s.badMem = [] ∧ SideOk s false 0 16 8 wellBase ∧
      keysAscend [key 1, key 2] = true ∧ keysAscend (word (s.write up)) ≠ keysAscend (word (s.write down)) ∧
      (s.aReg 0 4).toNat = 0 ∧ s.zReg 0 = [] ∧ 0 < ((setZ 1 [key 1] s).zReg 1).length ∧
      bothLen 0 1 (setZ 1 [key 1] s) ≤ 4096 ∧ SideOk s true 0 8 8 wellBase ∧ 4096 < (4097#64).toNat := by
  unfold SideOk
  decide +kernel

/-! ### Events of the core path and of the siphon -/

/-- The machine as a turn with this argument finds it. -/
def turn (a : EvArg) (s : State) : State := { s with arg := a, cur := a.c }

/-- A store at the head, one that leaves part of a bad granule of the well alone; posts in order and out of it; a watchdog below, one
below and at its bound; an older context that must yield; a kill that is due. -/
theorem witness_CoreEvents :
    let st : StoreEnt := { cells := [(wellBase, 1)], seq := 0, fences := [] }
    let p : PostEff := { src := none, c := 0, f := 3, n := 1 }
    let core := fun (c n k : Nat) => ({ p with src := some (0, n, []), c := c, seq := some k } : PostEff)
    let two := (base.updCtx 1 fun x => { x with cond := .running, task := 1, step := 1, overlap := 64 })
    let dead := base.updStep 1 0 fun k => { k with killed := true }
    let wd := fun (n : Nat) => base.updMe fun x => { x with wdog := BitVec.ofNat 29 n }
    let bad : State := { (base.updMe fun x => { x with woq := [st] }) with badMem := [wellBase] }
    (base.updMe fun x => { x with woq := [st] }).headStore 0 = some st ∧ bad.headStore 0 = some st ∧ wellBase ∈ bad.badMem ∧
      zoneOf wellBase = .well ∧ granule wellBase = wellBase ∧
      ({ base with posts := [p] } : State).posts[0]? = some p ∧ base.postReady p = true ∧
      (base.updMe fun x => { x with woq := [st] }).postReady { p with src := some (0, 1, []) } = false ∧
      ({ base with posts := [p] } : State).postDue 0 = true ∧
      (let full := base.updMe fun x => { x with woq := [st] }
       ({ base with posts := [core 0 1 0, core 1 1 1] } : State).postDue 1 = false ∧ base.postHolds (core 0 1 0) (core 1 0 1) = true ∧
         full.storesDone (core 0 1 0) = false ∧ full.postHolds (core 0 1 0) (core 1 0 1) = false ∧
         tileOf 2 ≠ tileOf 0 ∧ tileOf 1 = tileOf 0 ∧ base.postHolds (core 2 1 0) (core 1 1 1) = false ∧
         base.postHolds (core 2 1 0) { core 1 1 1 with since := 1 } = true ∧ base.postHolds (core 2 1 0) (core 2 1 1) = true ∧
         base.postHolds p (core 1 1 1) = false) ∧
      base.me.bubbles = 0 ∧
      (let y := turn { c := 1 } two
       let d := otherCtx y.arg.c
       d = 0 ∧ (y.ctx d).cond = .running ∧ y.mustYield d = true ∧ y.killDue d = false ∧ (y.ctx d).yieldHold = false ∧
         (y.ctx d).wdog.toNat + 1 < 2 ^ 28 ∧ y.lockOn d = false) ∧
      (wd (2 ^ 28)).me.wdog.toNat = 2 ^ 28 ∧ (wd (2 ^ 28)).me.cond = .running ∧ base.me.wdog.toNat < 2 ^ 28 ∧
      (wd (2 ^ 28 - 1)).me.wdog.toNat + 1 = 2 ^ 28 ∧ (wd (2 ^ 28 - 1)).cur = (wd (2 ^ 28 - 1)).arg.c ∧
      dead.killDue 0 = true ∧ base.killDue 0 = false := by
  decide +kernel

/-- A fill of 64 bytes at the start of the well, and the same with all bytes moved. -/
def filling : State :=
  (does (.sphFill 0 4 5 6 0 0) (sphRegs 0 0x55 64 0)).updMe fun x => { x with
    gate := [], records := x.records.map fun r => { r with st := .committed } }

theorem witness_SiphonEvents :
    isSome ((filling.ctx 0).sphRec 0) (fun r => filling.mayMove 0 r && r.form == 4 && !r.add && r.done < r.stream &&
      (placesOf r.dPlaces r.done r.chunk).all (fun p => !filling.lost p) &&
      (placesOf r.dPlaces r.done r.chunk).length == r.chunk && r.chunk == 64) = true ∧ (base.ctx 0).sphRec 0 = none ∧
      isSome ((does .siphonTransfer filling |>.ctx 0).sphRec 0) (fun r => r.st == .committed && !r.stale && r.moved &&
        r.badFirst.isNone && r.errFirst.isNone && r.recs == 0 && r.post.isNone) = true ∧
      (base.gangCtx 0 0 = some 0) ∧ base.arg.ok = true ∧ (turn { ok := false } base).arg.ok = false := by decide +kernel

/-- A control block at 0x600000 with its ring at 0x610000, and a record of context 0's sequencer. -/
def recorded (used : Nat) : State :=
  { (base.write (cellsAt 0x600000 (bytesOfNat 8 used ++ bytesOfNat 8 0 ++ bytesOfNat 8 (ownPa base 0x610000)))) with
    mgmt := { base.mgmt with fbuf := ownPa base 0x600000 }, records := [{ engine := 385, bytes := bytesOfNat 32 1, c := some 0 }]
    arg := { n := 385 } }

theorem witness_FaultBuffer :
    let room := recorded 5
    let full := recorded 4096
    isSome (room.firstRecord 385) (fun r => !r.refused && r.cmd.isNone && r.c == some 0) = true ∧ room.controlBlock = some 0x600000 ∧
      isSome ({ room with records := room.records.map fun r => { r with cmd := some 0 } } : State).records.head? (fun r =>
        r.c == some 0 && r.cmd == some 0) = true ∧ (room.ringSlot 0x600000).isSome ∧ room.ringRoom 0x600000 = true ∧ room.readNat (0x600000 + 32) 2 < 384 ∧
      full.controlBlock = some 0x600000 ∧ (full.ringSlot 0x600000).isSome ∧ full.ringRoom 0x600000 = false ∧
      ({ room with mgmt := { room.mgmt with fbuf := 0 } } : State).mgmt.fbuf = 0 ∧ base.firstRecord 385 = none ∧
      filling.holdsOld (0, 0) = true ∧ base.holdsOld (0, 0) = false := by decide +kernel

/-! ### Acts of the task engine -/

/-- The one step of the task has exited and its exit is on the board. -/
def exited : State := { (base.updStep 1 0 fun k => { k with exiting := true, exited := [0] }) with
  board := [{ task := 1, step := 0, v := 0xFFFF }] }

/-- A task with its steps over and its record's page writable. -/
def fini : State := (setOpb 88 0 (sphRegs 0 0 0 0 |> fun s => { s with steps := [] })).updTask 1 fun t => { t with num := 2 }

theorem witness_StepsAndTasksEnd :
    let e : StageEff := { gi := 0, seq := 0, task := 1, step := 0, kind := .adv, n := 1, waits := [] }
    let q := turn { t := 1, n := 0, k := 1 } { base with stageQ := [e] }
    (base.findTask 1).isSome ∧ base.board.length = 1 ∧ (q.readyEffects 1 0).take 1 = [e] ∧ 0 ≤ 0xFFFD ∧
      isSome (exited.findStep 1 0) (fun k => exited.mayRetire k) = true ∧
      isSome (base.findStep 1 0) (fun k => !base.mayRetire k) = true ∧
      isSome (fini.findTask 2) (fun k => !k.recorded && k.st == .live && fini.stepsOver k && (fini.leftChildren k).isEmpty &&
        k.num != 1 && isSome (fini.findRev k.rev) fun r => (crecPlace fini r.table (opbCrec k.opb)).isSome) = true ∧
      (let kid := task { num := 3, opb := benchOpb, rev := 1, parent := 2, kind := .forked } fini
       isSome (kid.findTask 2) (fun k => isSome (kid.leftChildren k).head? fun u => u.join == .unjoined) = true) ∧
      (let idle : State := (base.updTask 1 fun t => { t with started := 0 })
       isSome (idle.findTask 1) (fun k => (idle.nextStep k).isSome && !k.svc) = true) := by decide +kernel

/-- A save pool of 64 MiB. -/
def pooled (s : State) : State := { s with mgmt := { s.mgmt with savePool := ownPa s 0x4000000, saveSize := 0x4000000 } }

/-- The task of one step, none of it started. -/
def fresh : State := pooled (({ base with steps := [] } : State).updTask 1 fun t => { t with started := 0 })

/-- The step saved, its image's NMR given. -/
def savedStep (nmr : Nat) : State :=
  let s : State := (pooled base).write (cellsAt (benchArea + 8) (bytesOfNat 8 nmr))
  (s.updStep 1 0 fun k => { k with saved := true, ctxs := [], kept := [(0, base.me)] }).updMe fun x => { x with cond := .absent }

/-- A save pool of two holes, of `n` and of 3 pieces of 64 KiB: room for one allocation image and one tile image. -/
def holed (n : Nat) (s : State) : State :=
  { s with poolUsed := [(0x4000000 + n * 0x10000, 0x10000)], mgmt := { s.mgmt with
      savePool := ownPa s 0x4000000, saveSize := (n + 4) * 0x10000 } }

/-- A task of higher priority waits for all tiles of a cistern; in each cistern a step holds one. -/
def crowded : State :=
  let s : State := holed 32 { base with tasks := base.tasks ++ [
    { num := 2, opb := ((benchOpb.set 42 7).set 43 32).set 46 9, rev := 1, parent := 1, kind := .launched }] }
  { s with steps := (s.steps.map fun k => { k with members := [{ tile := 0, base := 0, size := 32 }] }) ++ (upTo 24).map fun k => {
      task := 1, step := 1 + k, cis := k, members := [{ tile := 1, base := 0, size := 32 }], ctxs := [(0, 16 * k + 2)] } }

theorem witness_Placement :
    isSome fresh.choice (fun ch => ch.saved.isNone &&
      (takePools Config.saveArea ((fresh.gangOf ch.cis (opbCtxs ch.task.opb) ch.members).map Prod.fst) fresh).isSome) = true ∧
      isSome (savedStep 1).choice (fun ch => isSome ch.saved fun k => !(savedStep 1).brokenSaved k &&
        (let v := (savedStep 1).correctSaved k
         reviveAll (v.gangOf ch.cis (opbCtxs ch.task.opb) ch.members) k (resumePrep ch k v)).isSome) = true ∧
      isSome (savedStep 0).choice (fun ch => isSome ch.saved fun k => (savedStep 0).brokenSaved k) = true := by decide +kernel

theorem witness_Preemption :
    let asks := fun (c : Cond) => (holed 16 base).updStep 1 0 (fun k => { k with asked := some 2 }) |>.updMe fun x => { x with cond := c }
    crowded.arg.ok = true ∧ isSome (firstOf crowded.waiting) (fun w => w.num == 2 && (crowded.victim w).isSome) = true ∧
      isSome ((asks .running).findStep 1 0) (fun k => k.asked.isSome && !(asks .running).allStopped k) = true ∧
      isSome ((asks .stopped).findStep 1 0) (fun k => (asks .stopped).maySave k &&
        (takeImages k.imageLens (asks .stopped)).isSome) = true ∧
      isSome (base.findStep 1 0) (fun k => !base.maySave k) = true ∧ Memory.wf base.mem = true := by decide +kernel

/-! ### Forks and joins -/

/-- A reserve of `n` frames at 0x700000, and a fork of context 0 under way. -/
def forking (n : Nat) : State :=
  { base with mgmt := { base.mgmt with reserve := ownPa base 0x700000, resSize := n * 0x10000 }
              forks := [{ c := 0, opbVa := 0, key := 0 }] }

/-- A state with a frame taken. -/
def taken (f : Nat) (s : State) : State := { s with freeCount := s.freeCount + 1, framesUsed := f :: s.framesUsed }

/-- A free frame is found, whichever the choice. -/
theorem takeFrame_some (s : State) (h : s.freeFrames ≠ []) : ∃ f ∈ s.freeFrames, s.takeFrame = some (f, taken f s) := by
  unfold State.takeFrame
  cases hl : s.freeFrames with
  | nil => exact absurd hl h
  | cons f r =>
    refine ⟨(f :: r).getD (Config.freeChoice s.freeCount % (r.length + 1)) f, ?_, rfl⟩
    have : Config.freeChoice s.freeCount % (r.length + 1) < (f :: r).length := Nat.mod_lt _ (Nat.succ_pos _)
    rw [List.getD_eq_getElem?_getD, List.getElem?_eq_getElem this]
    exact List.getElem_mem this

/-- A state with the choice made to use the room a frame has left. -/
def packed (s : State) : State := { s with freeCount := s.freeCount + 1 }

/-- A table finds a place: room that is left, or a free frame. -/
theorem tablePlace_some (s : State) (room : Nat × Nat) (rem : Nat) (hf : s.freeFrames ≠ []) :
    (room.1 + tableRoom rem ≤ room.2 ∧ s.tablePlace room rem = some (room.1, (room.1 + tableRoom rem, room.2), packed s)) ∨
    ∃ f ∈ s.freeFrames, s.tablePlace room rem = some (f, (f + tableRoom rem, f + 65536), taken f s) := by
  obtain ⟨f, hm, ht⟩ := takeFrame_some s hf
  unfold State.tablePlace
  split
  · rename_i hc
    simp only [Bool.and_eq_true, decide_eq_true_eq] at hc
    exact .inl ⟨hc.1, rfl⟩
  · exact .inr ⟨f, hm, by rw [ht]; rfl⟩

/-- A table whose one entry leads to a table that can be copied can be copied itself. -/
theorem forkTable_some (n p q i e : Nat) (room : Nat × Nat) (s : State) (he : tableEntries s.readable p (n + 1) = [(i, e)])
    (hq : subTable s (n + 1) e = some q) (hf : s.freeFrames ≠ [])
    (hp : room.1 + tableRoom (n + 1) ≤ room.2 →
      (forkTable n q (room.1 + tableRoom (n + 1), room.2) (((packed s).correct p (8 * tableLen (n + 1))).copyTable room.1 p (n + 1))).isSome)
    (h : ∀ f ∈ s.freeFrames, (forkTable n q (f + tableRoom (n + 1), f + 65536) (((taken f s).correct p (8 * tableLen (n + 1))).copyTable f p (n + 1))).isSome) :
    (forkTable (n + 1) p room s).isSome := by
  obtain ⟨hr, ht⟩ | ⟨f, hm, ht⟩ := tablePlace_some s room (n + 1) hf
  · obtain ⟨⟨g, u⟩, hg⟩ := Option.isSome_iff_exists.mp (hp hr)
    simp [forkTable, ht, he, hq, hg]
  · obtain ⟨⟨g, u⟩, hg⟩ := Option.isSome_iff_exists.mp (h f hm)
    simp [forkTable, ht, he, hq, hg]

/-- The last table of large leaves finds a place. -/
theorem forkTable_last (p i e : Nat) (room : Nat × Nat) (s : State) (he : tableEntries s.readable p 1 = [(i, e)]) (hq : subTable s 1 e = none)
    (hf : s.freeFrames ≠ []) : (forkTable 1 p room s).isSome := by
  obtain ⟨_, ht⟩ | ⟨f, hm, ht⟩ := tablePlace_some s room 1 hf <;> simp [forkTable, ht, he, hq]

/-- What holds of each free frame. -/
theorem each_frame {s : State} {l : List Nat} (h : s.freeFrames = l) {P : Nat → Prop} (hp : ∀ f ∈ l, P f) : ∀ f ∈ s.freeFrames, P f := by
  rwa [h]

/-- The reserve of three frames can copy the three tables, whichever place each takes. -/
theorem fork_can_copy : (forkTable 3 benchTables (0, 0) (forking 3)).isSome := by
  refine forkTable_some 2 _ (benchTables + 0x10000) 0 131073 _ _ (by decide +kernel) (by decide +kernel) (by decide +kernel)
    (fun h => absurd h (by decide)) (each_frame (l := [7340032, 7405568, 7471104]) (by decide +kernel) ?_)
  intro f hf
  simp only [List.mem_cons, List.not_mem_nil, or_false] at hf
  rcases hf with rfl | rfl | rfl
  · refine forkTable_some 1 _ (benchTables + 0x20000) 0 196609 _ _ (by decide +kernel) (by decide +kernel) (by decide +kernel)
      (fun _ => forkTable_last _ 0 2097155 _ _ (by decide +kernel) (by decide +kernel) (by decide +kernel))
      (each_frame (l := [7405568, 7471104]) (by decide +kernel) ?_)
    intro f hf
    simp only [List.mem_cons, List.not_mem_nil, or_false] at hf
    rcases hf with rfl | rfl <;>
      exact forkTable_last _ 0 2097155 _ _ (by decide +kernel) (by decide +kernel) (by decide +kernel)
  · refine forkTable_some 1 _ (benchTables + 0x20000) 0 196609 _ _ (by decide +kernel) (by decide +kernel) (by decide +kernel)
      (fun _ => forkTable_last _ 0 2097155 _ _ (by decide +kernel) (by decide +kernel) (by decide +kernel))
      (each_frame (l := [7340032, 7471104]) (by decide +kernel) ?_)
    intro f hf
    simp only [List.mem_cons, List.not_mem_nil, or_false] at hf
    rcases hf with rfl | rfl <;>
      exact forkTable_last _ 0 2097155 _ _ (by decide +kernel) (by decide +kernel) (by decide +kernel)
  · refine forkTable_some 1 _ (benchTables + 0x20000) 0 196609 _ _ (by decide +kernel) (by decide +kernel) (by decide +kernel)
      (fun _ => forkTable_last _ 0 2097155 _ _ (by decide +kernel) (by decide +kernel) (by decide +kernel))
      (each_frame (l := [7340032, 7405568]) (by decide +kernel) ?_)
    intro f hf
    simp only [List.mem_cons, List.not_mem_nil, or_false] at hf
    rcases hf with rfl | rfl <;>
      exact forkTable_last _ 0 2097155 _ _ (by decide +kernel) (by decide +kernel) (by decide +kernel)

/-- A fork that the reserve can supply, one it cannot, and one that waits for a committed command. -/
theorem witness_Forks :
    ((forking 3).forks.find? fun f => f.c == (forking 3).arg.c && !f.hold).isSome ∧
      (forking 3).revQuiet ((forking 3).revOf 0).id = true ∧ (forking 0).revQuiet ((forking 0).revOf 0).id = true ∧
      isOk (taskRead (forking 3) ((forking 3).revOf 0).table 0 256) (fun _ => true) = true ∧
      ((forking 3).forkRev ((forking 3).revOf 0) (forking 3).nextTask).isSome ∧
      (forking 0).forkRev ((forking 0).revOf 0) (forking 0).nextTask = none ∧
      (let busy := (forking 3).updMe fun x => { x with
        records := [{ form := 0, scope := 0, len := 1, total := 1, left := 1, st := .committed }] }
       busy.revQuiet (busy.revOf 0).id = false) := by
  refine ⟨by decide +kernel, by decide +kernel, by decide +kernel, by decide +kernel, ?_, by decide +kernel, by decide +kernel⟩
  obtain ⟨⟨t, r, u⟩, h⟩ := Option.isSome_iff_exists.mp fork_can_copy
  have ho : ownPlace (forking 3) ((forking 3).revOf 0).table = some benchTables := by decide +kernel
  simp [State.forkRev, ho, h]

/-- Page tables from `a` on that map page 0 to a frame; 15: revisioned and writable, 7: writable. -/
def tree (a frame flags : Nat) : List Host.Cell :=
  cellsAt a (bytesOfNat 8 (ownPa base (a + 0x10000) + 1)) ++
  cellsAt (a + 0x10000) (bytesOfNat 8 (ownPa base (a + 0x20000) + 1)) ++
  cellsAt (a + 0x20000) (bytesOfNat 8 (ownPa base (a + 0x30000) + 1)) ++
  cellsAt (a + 0x30000) (bytesOfNat 8 (ownPa base frame + flags))

/-- Task 1 joins its complete child 2, whose page 0 differs from what both came from; the merge stands at the pages given. -/
def joining (flags : Nat) (pages : Option (List Nat)) (j : PendJoin → PendJoin) : State :=
  let s := base.write (tree 0x800000 0x900000 15 ++ tree 0xA00000 0xB00000 flags ++ cellsAt 0xB00000 [7])
  { s with
    tasks := s.tasks ++ [{ num := 2, opb := benchOpb, rev := 2, parent := 1, kind := .forked, st := .complete, recorded := true }]
    revs := [{ id := 1, table := ownPa s 0x800000, parent := 0, depth := 0, owner := 1 },
             { id := 2, table := ownPa s 0xA00000, parent := 1, depth := 1, owner := 2, anc := [(0, 0xC00000)] }]
    joins := [j { c := some 0, parent := 1, child := 2, pages := pages }], arg := { t := 2 } }

/-- A page on which something has changed keeps the change. -/
theorem mergeOne_kept (s : State) (v : FEnv) (fp fc fa : Nat) (l : List (Nat × Nat × Nat × Nat)) (m : PageMerge)
    (h : m.cells ≠ []) : (l.foldl (mergeOne s v fp fc fa) m).cells ≠ [] := by
  induction l generalizing m with
  | nil => exact h
  | cons e l ih =>
    refine ih _ ?_
    unfold mergeOne
    dsimp only
    split
    · exact h
    · split
      · exact h
      · simp [h]

/-- A merge that finds a change writes it, whatever the rest of the page holds. -/
theorem mergePage_kept (s : State) (v : FEnv) (l : List Region) (va fp fc fa : Nat) (e : Nat × Nat × Nat × Nat)
    (r : List (Nat × Nat × Nat × Nat)) (he : pageElems l va = e :: r) (h : (mergeOne s v fp fc fa {} e).cells ≠ []) :
    (mergePage s v l va fp fc fa).cells ≠ [] := by
  unfold mergePage
  rw [he]
  exact mergeOne_kept s v fp fc fa r _ h

/-- The first element of the region, in the child, differs from both other revisions. -/
def region0 : Region := { n := 0, start := 0, len := 8, ty := 3, merge := 1 }
def merging : State := joining 15 (some [0]) fun j => { j with regions := [region0] }

theorem page_changes : (mergePage merging (fenv 1) [region0] 0 0x900000 0xB00000 0xC00000).cells ≠ [] :=
  mergePage_kept _ _ _ _ _ _ _ (0, regionSize 3, 3, 1) _ rfl (by decide +kernel)

theorem witness_Joins :
    let s := joining 15 none id
    let p := joining 15 (some [0]) id
    let e := joining 7 (some []) id
    let failed : State := s.updTask 2 fun t => { t with st := .failed }
    (∀ t ∈ [s, p, merging, e, failed], isSome (t.joins.find? fun j => j.child == t.arg.t && !j.hold) (fun j =>
      isSome (t.findTask j.child) fun k => isSome (t.findTask j.parent) fun q => k.recorded && t.closed k &&
        (t.findRev q.rev).isSome && (t.findRev k.rev).isSome) = true) ∧
      isSome (s.findTask 2) (fun k => k.st == .complete) = true ∧ isSome (failed.findTask 2) (fun k => k.st == .failed) = true ∧
      isSome (merging.findRev 1) (fun a => isSome (merging.findRev 2) fun b =>
        pageFrames merging a b 0 == some (0x900000, 0xB00000, 0xC00000) && (merging.ownPage a 0).isSome) = true ∧
      isSome (e.findRev 2) (fun b => (crecPlace e b.table 0).isSome) = true := by decide +kernel

/-- The spec's worked merge (chapter 19): f64 ADD, i16 ADD, i32 MAX, n16 ELEM3 twice, raw OR and AND; values a, p, c. -/
theorem test_worked_merge :
    let m := fun (ty rule p c a : Nat) => mergeElem (fenv 1) ty rule p c a
    m 0 3 0x3FF8000000000000 0x3FE0000000000001 0x3FE0000000000000 = (0x3FF8000000000000, false, 1) ∧
      m 9 3 30000 3000 100 = (0x8084, false, 0) ∧ m 10 4 7 10 10 = (10, false, 0) ∧ m 13 2 4 5 3 = (5, true, 0) ∧
      m 13 2 4 3 3 = (4, false, 0) ∧ m 7 6 0x1F 0x2E 0x0F = (0x3F, false, 0) ∧ m 7 7 0xF0 0x3F 0xFF = (0x30, false, 0) := by
  decide +kernel

/-- An element of an integer type, at the end of its range. -/
theorem witness_MergeElements :
    ETy.ofCode 8 = .int true 0 ∧ (8 : Nat) ≠ 7 ∧ 255 < 2 ^ (8 * regionSize 8) ∧ mergeElem (fenv 1) 8 3 255 1 0 = (0, false, 0) := by
  decide +kernel

/-! ### The matrix engine -/

/-- An event of context 0. -/
def ev (i : Instr) (s : State) : State := does i (turn {} s)

/-- The held operations go to the engine. -/
def release (s : State) : State := s.mark 0 0

/-- The slot loaded and a bag of the mode begun at the engine. -/
def begun (mode : Nat) : State := ev .arrayOpStart (ev .arrayOpComplete (ev .arrayOpStart (release (opened mode))))

/-- A feed of two rows at 0, released and begun. -/
def fed (mode : Nat) : State := ev .arrayOpStart (release (does (.bagRows 0 4 0 0 0) (pair (2 * 2 ^ 48 + 0x400 * 2 ^ 24) 0 (begun mode))))

/-- A pump feed of two indices 0 through TID 5, whose table stands at virtual address 0, released. -/
def pumped : State := release (does (.bagPump 0 4 0) (pair (2 * 2 ^ 48 + 5 * 2 ^ 42) 0 (withTid 5 0 0x400 (begun 0))))

/-- A queue feed of two stages of one row, released and begun, its slots full. -/
def queued : State := ev .arrayOpStart (release (does (.bagRows 0 4 0 1 3) (pair (2 * 2 ^ 48 + 1 * 2 ^ 40 + 0x400 * 2 ^ 24) 0
  (((begun 0).updArch fun x => { x with
    qs := vput x.qs 3 { base := 0x1000, sz := 7, role := 2, wflag := 1, peer := 0, pflag := 2, nsl := 4 } }).updMe fun x =>
      { x with flags := vput x.flags 1 4 }))))

/-- The claimed range freed by a drain to the well or to the latch, released and begun. -/
def draining (dst : Nat) : State :=
  let s := release (does (.bagClose 0) (begun 0))
  ev .arrayOpStart (release (does (.sumpDr 0 6 0 0 1 1 dst) (setA 6 (BitVec.ofNat 64 (32 * 2 ^ 35 + 32 * 2 ^ 24)) (ev .bagCloseComplete s))))

/-- What stands at the head of the engine. -/
def head (s : State) (p : ArrOp → Bool) : Bool := isSome s.me.mx.head? p

theorem witness_Operations_begin :
    head (release slotted) (fun o => (release slotted).mayBegin 0 o && match o.kind with | .mld .. => true | _ => false) = true ∧
      head (ev .arrayOpStart (release slotted)) (fun o => o.begun && match o.kind with
        | .mld _ _ p k => slotted.badIn p k == false
        | _ => false) = true ∧
      (let s := ev .arrayOpComplete (ev .arrayOpStart (release (opened 0)))
       head s (fun o => s.mayBegin 0 o && match o.kind with | .opn _ c => c | _ => false) = true) ∧
      (begun 0).me.bagRun.isSome ∧
      (let s := release (does (.bagRows 0 4 0 0 0) (pair (2 * 2 ^ 48 + 0x400 * 2 ^ 24) 0 (begun 0)))
       head s (fun o => s.mayBegin 0 o && match o.kind with | .feed _ => true | _ => false) = true) ∧
      head pumped (fun o => pumped.mayBegin 0 o && match o.kind with | .feed f => f.pump | _ => false) = true ∧
      (let s := release (does (.bagRep 0 2 0) (begun 0))
       head s (fun o => s.mayBegin 0 o && match o.kind with | .rep _ => true | _ => false) = true) := by decide +kernel

theorem witness_Operations_end :
    (let s := release (does (.bagClose 0) (begun 0))
     s.closeReady 0 = true ∧ (s.ctx 0).bagRun.isSome ∧ head s (fun o => !s.mayBegin 0 { o with begun := true }) = true) ∧
      base.closeReady 0 = false ∧ (draining 1).me.drainOp.isSome ∧ (draining 2).me.drainOp.isSome ∧ base.me.drainOp = none ∧
      isSome (draining 1).me.drainOp (fun o => o.2.dst == 1 && o.2.len ≤ (o.2.next + 1) * o.2.group) = true ∧
      (let s := ev .arrayOpStart (release (does (.sumpClr 0 0 6 0 1) (setA 6 (BitVec.ofNat 64 (32 * 2 ^ 35))
        (ev .bagCloseComplete (release (does (.bagClose 0) (begun 0)))))))
       head s (fun o => o.begun && match o.kind with | .clr .. => true | _ => false) = true) := by decide +kernel

theorem witness_RowsAndLatch :
    let ready := fun (s : State) (mode : Nat) => isSome s.me.bagRun (fun b => b.bag.mode == mode && isSome b.feeds[0]? fun f =>
      isSome (b.entry 0 0) fun _ => s.rowReady 0 0 0 && !f.f.pump && f.f.q.isNone &&
        (rowPlaces s 0 f 0 (rowBytes b.bag)).any s.badAt == false)
    let walking := ev .pumpFeedBegin pumped
    ready (fed 0) 0 = true ∧ ready (fed 1) 1 = true ∧ ready (fed 2) 2 = true ∧ base.rowReady 0 0 0 = false ∧
      ((fed 0).tile 0).badSump = [] ∧ isSome (walking.keyIn 0 0 .fetching) (fun x =>
        isOk (fetchKey 0 (rowBytes x.1.bag) x.2 walking) fun _ => true) = true ∧
      (let arrived := ev .pumpFetchReturn walking
       isSome arrived.me.bagRun (fun b => isSome b.feeds[0]? fun f => f.f.pump && arrived.rowReady 0 0 0) = true) ∧
      isSome queued.me.bagRun (fun b => isSome b.feeds[0]? fun f => f.f.q == some 3) = true ∧
      (let read := ev .rowIn queued
       isSome read.me.bagRun (fun b => isSome b.feeds[0]? fun f => read.me.stageDone 0 f) = true) ∧
      (let w := ev .rowIn (fed 1)
       (w.tile 0).waiting.length = 1 ∧ w.latchFree 0 = true) ∧ (base.tile 0).waiting = [] := by decide +kernel

/-- A key whose table is not mapped: under policy 0 it faults, else it is parked. -/
theorem witness_PumpFaults :
    let lost := fun (s : State) => s.write (cellsAt (benchTables + 0x20000) (bytesOfNat 8 0))
    let w := ev .pumpFeedBegin (lost pumped)
    isSome (w.keyIn 0 0 .fetching) (fun x => match fetchKey 0 (rowBytes x.1.bag) x.2 w with
      | .ok _ => false
      | .error e => e.1 != 6) = true ∧
      (let p := w.updMe fun x => { x with bagRun := x.bagRun.map fun b => { b with bag := { b.bag with pol := 1 } } }
       isSome ((ev .pumpFetchReturn p).keyIn 0 0 .parked) (fun _ => true) = true) := by decide +kernel

/-! ### The host, start-up, links -/

/-- An OPB with its code of one zero bundle at 0x1000 and its completion block at 0x2000. -/
def rootOpb : List Byte :=
  bytesOfNat 8 0x1000 ++ (benchOpb.drop 8).take 80 ++ bytesOfNat 8 0x2000 ++ (benchOpb.drop 96).take 96 ++
  sha512 (List.replicate 16 0)

/-- STATE 4, no task, a page for the fault buffer, a root table that maps an OPB at 0. -/
def idle : State :=
  { base with tasks := [], steps := [], mgmt := { base.mgmt with
      fbuf := ownPa base 0x600000, rootTbl := ownPa base benchTables, fullWidth := true } }.write
    (cellsAt benchCode rootOpb ++ cellsAt (benchTables + 0x20000) (bytesOfNat 8 (ownPa base benchCode + 7)))

/-- The management state as given, the outside's argument too. -/
def mgmt (f : Mgmt → Mgmt) (a : EvArg) : State := { State.reset with mgmt := f State.reset.mgmt, arg := a }

theorem witness_HostAccesses :
    configOffset 0x20 = true ∧ configOffset 0 = false ∧ idle.mgmt.state = 4 ∧ idle.tasks = [] ∧ base.tasks ≠ [] ∧
      State.reset.mgmt.state ≠ 4 ∧ idle.fbufOk = true ∧ (readWhole idle idle.mgmt.rootTbl 0 256).isSome ∧
      (let r : Revision := { id := idle.nextRev, table := idle.mgmt.rootTbl, parent := 0, depth := 0, owner := 1 }
       isSome (readWhole idle idle.mgmt.rootTbl 0 256) (fun o =>
         !(acceptLaunch { idle with revs := [r], nextRev := idle.nextRev + 1 } idle.nextRev idle.mgmt.rootTbl 0 0 0 .root o).tasks.all
           Task.recorded) = true) ∧
      base.mgmt.tlbInv = false ∧
      (base.revs.find? fun r => r.table / 2 ^ 12 == bits (ownPa base benchTables / 2 ^ 12 * 2 ^ 12 + 1) 12 40).isSome ∧
      idle.mgmt.fullWidth = true ∧ 64 + 8 ≤ Config.deviceBytes ∧ idle.badMem = [] ∧ (mgmt (fun m => { m with state := 4, fullWidth := false }) {}).mgmt.fullWidth = false ∧
      idle.badIn 64 40 = false := by decide +kernel

theorem witness_StartupAndLinks :
    (mgmt id {}).mgmt.state = 0 ∧ (mgmt (fun m => { m with fails := 3 }) {}).mgmt.fails = 3 ∧
      (mgmt (fun m => { m with state := 2 }) { k := 4 }).mgmt.state = 2 ∧
      (let s := mgmt (fun m => { m with state := 3, fullWidth := true }) {}
       s.mgmt.state = 3 ∧ s.mgmt.fullWidth = true ∧ s.mgmt.dumped = false) ∧
      (mgmt (fun m => { m with state := 3, fullWidth := false }) {}).mgmt.fullWidth = false ∧ base.mgmt.state = 4 ∧
      (mgmt (fun m => { m with state := 6 }) {}).mgmt.state = 6 ∧ Memory.wf State.reset.mem = true ∧ 2 < 3 ∧
      vget (vget base.links 0).laneReplays 0 < 16 ∧
      16 ≤ vget ({ vget base.links 0 with laneReplays := Vector.replicate 8 16 }).laneReplays 0 := by decide +kernel

/-- An image whose body has another digest is bad, whatever the signature: a start that fails. -/
theorem witness_BadImage : (State.reset.mgmt.imageBad { version := 0, digest := [], signature := [], body := [] }).isSome := by
  have h : sha512 [] ≠ [] := by decide +kernel
  unfold Mgmt.imageBad
  split
  · rfl
  · simp [h]

/-! ### Every state -/

/-- A machine about to take a turn of the host, in its canonical forms. -/
def booting : State := { State.reset with sched := [{ act := .clockChange, arg := { v := 900 } }] }

theorem witness_FormsAreKept : formsOk booting ∧ nextIs (step booting) (fun t => t.mgmt.clockMhz == 900) = true := by
  refine ⟨⟨by decide +kernel, fun t => ?_⟩, by decide +kernel⟩
  have : (booting.tile t).sump = [] := by
    simp [booting, State.tile, State.reset, vget, Tile.idle]
  simp [sumpOk, this]

theorem witness_CountersAreKept :
    isPc base.me.pc ∧ isPc (bench addBundle).me.restart ∧ mgmtOk base.mgmt ∧ nextIs (step booting) (fun _ => true) = true := by
  unfold isPc mgmtOk
  decide +kernel

theorem witness_MemoryIsItsBytes : Memory.wf base.mem = true ∧ base.mem ≠ [] ∧ (1 : Nat) < [1#8, 2#8].length := by
  decide +kernel

theorem witness_Frames :
    landsOnly (.ffma 0 1 2 3 0 1 0) = true ∧ gatesOnly (.vst 0 0 1 2 0 0 0) = true ∧
      nextIs (exec (.vst 0 0 1 2 0 0 0) (setA 2 0x1000 base)) (fun t => t.me.gate.length == 1) = true ∧
      nextIs (exec (.fpost 0 0 3 0) base) (fun t => t.me.gate.length == 1) = true := by decide +kernel

/-! ### Results, from the spec's tables and worked values -/

/-- s[a] and s[b] into s3 after `n` cycles. -/
def op (n : Nat) (i : Instr) (x y r : Word) : Bool := after n i (setS 1 x (setS 2 y base)) fun c => c.a.rS 3 == r

/-- R158's table of boundary cases. -/
theorem test_division :
    op 20 (.div 0 3 1 2 0) 7 2 3 ∧ op 20 (.div 0 3 1 2 0) (-7) 2 (-3) ∧ op 20 (.div 0 3 1 2 0) 7 0 (-1) ∧
    op 20 (.div 0 3 1 2 0) (1 <<< 63) (-1) (1 <<< 63) ∧ op 20 (.rem 0 3 1 2 0) (-7) 2 (-1) ∧ op 20 (.rem 0 3 1 2 0) 7 0 7 ∧
    op 20 (.rem 0 3 1 2 0) (1 <<< 63) (-1) 0 ∧ op 20 (.divn 0 3 1 2 0) (-7) 2 0x7FFFFFFFFFFFFFFC ∧
    op 20 (.divn 0 3 1 2 0) 7 0 (-1) ∧ op 20 (.divn 0 3 1 2 0) (1 <<< 63) (-1) 0 ∧ op 20 (.remn 0 3 1 2 0) (-7) 2 1 ∧
    op 20 (.remn 0 3 1 2 0) (1 <<< 63) (-1) (1 <<< 63) := by decide +kernel

/-- R157. -/
theorem test_arithmetic :
    op 1 (.add 0 3 1 2 0) (-1) 2 1 ∧ op 1 (.sub 0 3 1 2 0) 1 2 (-1) ∧ op 3 (.mul 0 3 1 2 0) (1 <<< 63) 2 0 ∧
    op 3 (.mulh 0 3 1 2 0) (-1) (-1) 0 ∧ op 3 (.mulhn 0 3 1 2 0) (-1) (-1) (-2) ∧ op 1 (.andn 0 3 1 2 0) 0xFF 0x0F 0xF0 ∧
    op 1 (.shl 0 3 1 2 0) 5 64 5 ∧ op 1 (.shr 0 3 1 2 0) (-1) 63 1 ∧ op 1 (.sha 0 3 1 2 0) (-7) 1 (-4) ∧
    op 1 (.min 0 3 1 2 0) (-1) 1 (-1) ∧ op 1 (.minn 0 3 1 2 0) (-1) 1 1 ∧ op 1 (.max 0 3 1 2 0) (-1) 1 1 ∧
    op 1 (.maxn 0 3 1 2 0) (-1) 1 (-1) ∧ op 1 (.clz 0 3 1 0) 0 0 64 ∧ op 1 (.clz 0 3 1 0) 1 0 63 ∧
    op 1 (.popc 0 3 1 0) (-1) 0 64 ∧ op 1 (.and 0 3 1 2 0) 12 10 8 ∧ op 1 (.or 0 3 1 2 0) 12 10 14 ∧
    op 1 (.xor 0 3 1 2 0) 12 10 6 := by decide +kernel

/-- R159 and R160: immediates at the ends of their ranges; a halfword with and without the rest. -/
theorem test_immediates :
    op 1 (.addi 0 3 1 0 511) 5 0 4 ∧ op 3 (.muli 0 3 1 0 256) 2 0 (-512) ∧ op 1 (.minni 0 3 1 0 511) (-1) 0 511 ∧
    op 1 (.maxi 0 3 1 0 511) (-9) 0 (-1) ∧ op 1 (.shai 0 3 1 0 63) (-5) 0 (-1) ∧ op 1 (.lih 0 3 2 0xBEEF) 0 0 0xBEEF00000000 ∧
    after 1 (.lihK 0 1 0 7) (setS 1 0xAAAABBBB base) (fun c => c.a.rS 1 == 0xAAAA0007) ∧ op 1 (.andni 0 3 1 0 511) 7 0 0 ∧
    op 1 (.andi 0 3 1 0 511) 7 0 7 ∧ op 1 (.ori 0 3 1 0 256) 0 0 (-256) ∧ op 1 (.xori 0 3 1 0 511) 0 0 (-1) ∧
    op 1 (.shli 0 3 1 0 4) 3 0 48 ∧ op 1 (.shri 0 3 1 0 4) 48 0 3 ∧ op 1 (.mini 0 3 1 0 256) 0 0 (-256) ∧
    op 1 (.maxni 0 3 1 0 511) 5 0 511 := by decide +kernel

/-- The pair a compare leaves in p4 and p5. -/
def cmp (i : Instr) (x y : Word) (b : Bool) : Bool :=
  after 1 i (setS 1 x (setS 2 y base)) fun c => c.a.rP 4 == b && c.a.rP 5 == !b

/-- R161. -/
theorem test_compares :
    cmp (.ceq 0 4 1 2 0) 5 5 true ∧ cmp (.cne 0 4 1 2 0) 5 5 false ∧ cmp (.clt 0 4 1 2 0) (-1) 0 true ∧
    cmp (.cltn 0 4 1 2 0) (-1) 0 false ∧ cmp (.cle 0 4 1 2 0) 3 3 true ∧ cmp (.clen 0 4 1 2 0) (-1) 3 false ∧
    cmp (.ceqi 0 4 1 0xFFF) (-1) 0 true ∧ cmp (.cnei 0 4 1 5) 5 0 false ∧ cmp (.clti 0 4 1 0x800) (-2049) 0 true ∧
    cmp (.cltni 0 4 1 0xFFF) 4094 0 true ∧ cmp (.clei 0 4 1 0xFFF) (-1) 0 true ∧ cmp (.cleni 0 4 1 0xFFF) 4096 0 false := by
  decide +kernel

/-- R162, R163: `pxor` with p0 is NOT, `sel` reads its predicate. -/
theorem test_predicates :
    op 1 (.sel 0 3 1 2 0 0) 5 6 5 ∧ op 1 (.sel 0 3 1 2 1 0) 5 6 6 ∧ after 1 (.pxor 0 6 0 0) base (fun c => c.a.rP 6 == false) ∧
    after 1 (.pxor 0 6 7 0) base (fun c => c.a.rP 6) ∧ after 1 (.pset 0 15 1) base (fun c => c.a.rP 15) ∧
    after 1 (.por 0 3 1 0) base (fun c => c.a.rP 3) ∧ after 1 (.pand 0 3 1 0) base (fun c => !c.a.rP 3) := by decide +kernel

/-- R164: a backward branch, a link, a target whose low bits are dropped; R166: a loop not entered, an index, an early exit. -/
theorem test_control :
    let at' := fun (s : State) => s.updMe fun x => { x with pc := 64 }
    let looping := (at' base).updArch fun x => { x with loops := [{ count := 2, index := 7, start := 32, last := 96 }] }
    nextIs (exec (.br 0 0x3FFFFF) (at' base)) (fun t => t.me.nextPc == some 48 && t.me.bubbles == 2) ∧
    after 1 (.call 0 31 2) (at' base) (fun c => c.nextPc == some 96 && c.a.rS 31 == 80) ∧
    after 1 (.bra 0 31 31 0) (setS 31 0x10F (at' base)) (fun c => c.nextPc == some 0x100 && c.a.rS 31 == 80) ∧
    nextIs (exec (.ret 0 31 0) (setS 31 0x10F (at' base))) (fun t => t.me.nextPc == some 0x100) ∧
    nextIs (exec (.lpBegReg 0 3 2) (at' base)) (fun t => t.me.nextPc == some 144 && t.me.a.loops == []) ∧
    nextIs (exec (.lpBegImm 0 3 5) (at' base)) (fun t => t.me.a.loops == [{ count := 5, index := 0, start := 80, last := 128 }]) ∧
    after 1 (.lpIdx 0 4 0) looping (fun c => c.a.rS 4 == 7) ∧
    nextIs (exec (.lpBrk 0) looping) (fun t => t.me.nextPc == some 112 && t.me.a.loops == []) := by decide +kernel

/-- R170 to R174: a vector lane to s, a base past the end of its file, a reserved rounding mode, the loop depth. -/
theorem test_copies :
    after 2 (.xcp 0 0 5 2 3 31 0) (setV 3 (packVec 64 (List.replicate 31 0 ++ [77])) base) (fun c => c.a.rS 5 == 77) ∧
    after 2 (.xcp 0 1 5 0 3 0 0) (setS 3 9 base) (fun c => c.a.rA 5 == 9) ∧
    after 2 (.xbase 0 3 0 0 17) base (fun c => c.a.xbW == 1) ∧
    nextIs (exec (.setm 0 3 0x13) (setS 3 0x1F1E base)) (fun t => t.me.a.nmr == 0x1F18) ∧
    after 1 (.getm 0 4) (base.updArch fun x => { x with nmr := 0x1000001 }) (fun c => c.a.rS 4 == 0x1000001) ∧
    after 1 (.flGet 0 4 5) (base.updMe fun x => { x with step := 6 }) (fun c => c.a.rS 4 == 6) ∧
    nextIs (exec (.flClr 0 0 1) (base.updArch fun x => { x with fflags := 3 })) (fun t => t.me.a.fflags == 2) := by decide +kernel

/-- R177, R178: a trap parks its context behind the bundle with its cause; exit commits the gate. -/
theorem test_stops :
    nextIs (exec (.brk 0 5) base) (fun t => t.me.cond == .parked && t.me.pc == 16 && t.records.length == 1) ∧
    nextIs (exec (.exit 0) (does (.sps 0 0 1 0 8) base)) (fun t => t.me.cond == .exited && t.me.gate == []) ∧
    nextIs (exec (.sysc 0 5) base) (fun t => t.me.cond == .parked) ∧
    nextIs (exec (.trap 1 5) base) (fun t => t.me.cond == .running) := by decide +kernel

/-- A word stored and loaded back before it reaches memory. -/
def stored : State := does (.sw 0 1 5 2 0 0) (setS 5 0xFFFFFFFF80FF7F01 (setA 2 0x100 base))

/-- R223, R82: the youngest own value, signed and unsigned, by width; memory takes it at the store's turn. -/
theorem test_core_access :
    stored.readNat (wellBase + 0x100) 4 = 0 ∧ after 7 (.lw 0 1 6 2 0 0) stored (fun c => c.a.rS 6 == 0xFFFFFFFF80FF7F01) ∧
    after 7 (.lwn 0 1 6 2 0 0) stored (fun c => c.a.rS 6 == 0x80FF7F01) ∧ after 7 (.lb 0 1 6 2 0 2) stored (fun c => c.a.rS 6 == -1) ∧
    after 7 (.lbn 0 1 6 2 0 1) stored (fun c => c.a.rS 6 == 0x7F) ∧ after 7 (.lh 0 1 6 2 0 1) stored (fun c => c.a.rS 6 == -32513) ∧
    after 7 (.lhn 0 0 6 2 0 0) stored (fun c => c.a.rA 6 == 0x7F01) ∧ after 7 (.ld 0 1 6 2 0 0) stored (fun c => c.a.rS 6 == 0x80FF7F01) ∧
    (ev .storePerform (release stored)).readNat (wellBase + 0x100) 8 = 0x80FF7F01 := by decide +kernel

/-- R224, R225: a masked vector store leaves the other lanes' bytes; a gather; a broadcast load. -/
theorem test_vector_access :
    let es := fun (s : State) => setA 2 (0x100 + 3 * 2 ^ 24) s
    let ones := setV 3 (packVec 64 (List.replicate 32 9)) (setM 1 2 (es base))
    let one := ev .storePerform (release (does (.vst 0 0 3 2 1 0 0) ones))
    one.readNat (wellBase + 0x100) 8 = 0 ∧ one.readNat (wellBase + 0x108) 8 = 9 ∧ one.readNat (wellBase + 0x110) 8 = 0 ∧
    after 7 (.vldb 0 0 4 2 0 0 0) (setA 2 (0x108 + 3 * 2 ^ 24) one) (fun c => lane 64 (c.a.rV 4) 31 == 9) ∧
    after 7 (.vldx 0 0 4 2 0 0 3) (setV 3 (packVec 64 [1, 0, 2]) one) (fun c =>
      lane 64 (c.a.rV 4) 0 == 9 && lane 64 (c.a.rV 4) 1 == 0 && lane 64 (c.a.rV 4) 3 == 0) ∧
    after 7 (.vld 0 1 4 2 0 0 0) one (fun c => lane 64 (c.a.rW 4) 1 == 9) := by decide +kernel

/-- R226, R227: the spill store gives the youngest value; the address wraps below its element size. -/
theorem test_spill_and_address :
    after 1 (.spl 0 1 6 0 16) (does (.sps 0 0 5 0 16) (setS 5 77 base)) (fun c => c.a.rA 6 == 77) ∧
    after 1 (.aaddi 0 3 2 0 1) (setA 2 0xAB_02FFFFFF base) (fun c => c.a.rA 3 == 0xAB_02000000) ∧
    after 1 (.aadd 0 3 2 0 4) (setA 2 5 (setA 4 0x1000003 base)) (fun c => c.a.rA 3 == 8) ∧
    after 1 (.ashl 0 3 2 0 4 4) (setA 2 5 (setA 4 3 base)) (fun c => c.a.rA 3 == 53) ∧
    after 1 (.amov 0 3 2 0 1 1) (setA 2 0x3000005 base) (fun c => c.a.rA 3 == 0x1000005) := by decide +kernel

/-- R217, R234: an atomic answers the old value twelve cycles on; `incb` stops at its bound. -/
theorem test_atomics :
    let s := (setA 2 (0x100 + 2 * 2 ^ 24) (setA 3 7 base)).write (cellsAt (wellBase + 0x100) (bytesOfNat 4 0xFFFFFFFE))
    let run := fun (i : Instr) (f : Ctx → Bool) (m : Nat) =>
      let t := ev .atomicPerform (does i s)
      f (cycles 12 t.me) && t.readNat (wellBase + 0x100) 4 == m
    run (.atomAdd 0 5 2 3 0) (fun c => c.a.rA 5 == 0xFFFFFFFE) 5 ∧ run (.atomMin 0 5 2 3 0 0) (fun _ => true) 0xFFFFFFFE ∧
    run (.atomMin 0 5 2 3 1 0) (fun _ => true) 7 ∧ run (.atomMax 0 5 2 3 0 0) (fun _ => true) 7 ∧
    run (.atomXchg 0 5 2 3 0) (fun c => c.a.rA 5 == 0xFFFFFFFE) 7 ∧ run (.atomCas 0 5 2 3 4 0) (fun _ => true) 0xFFFFFFFE ∧
    run (.atomIncb 0 5 2 4 3 0) (fun c => !c.a.rP 4 && c.a.rP 5) 0xFFFFFFFE := by decide +kernel

/-! ### Vector results -/

/-- v1 and v2 of 32-bit lanes into v3 under RNE: lane 0 and the flags. -/
def vop (n w : Nat) (i : Instr) (x y : List Nat) (r : Nat) (fl : BitVec 7) : Bool :=
  after n i ((setV 1 (packVec w x) (setV 2 (packVec w y) base)).updArch fun a => { a with nmr := 1 }) fun c =>
    lane w (c.a.rV 3) 0 == r && c.a.fflags == fl

/-- R187 to R191 on f32: 1 + 2, 1.5 × 2, 1 / 0, the root of −1, the lesser of a NaN and 1, the sign of a NaN, 1 scaled by 2^3. -/
theorem test_float :
    vop 4 32 (.fadd 0 3 1 2 0 1 0) [0x3F800000] [0x40000000] 0x40400000 0 ∧
    vop 4 32 (.fsub 0 3 1 2 0 1 0) [0x3F800000] [0x40000000] 0xBF800000 0 ∧
    vop 4 32 (.fmul 0 3 1 2 0 1 0) [0x3FC00000] [0x40000000] 0x40400000 0 ∧
    vop 12 32 (.fdiv 0 3 1 2 1 1 0) [0x3F800000] [0] 0 0 ∧ vop 12 32 (.fsqrt 0 3 1 0 1 0) [0xBF800000] [] 0x7FC00000 fNV ∧
    vop 4 32 (.fmin 0 3 1 2 0 1) [0x7FC00000] [0x3F800000] 0x3F800000 0 ∧
    vop 4 32 (.fneg 0 3 1 0 1) [0x7FC00000] [] 0xFFC00000 0 ∧ vop 4 32 (.fabs 0 3 1 0 1) [0xFFC00000] [] 0x7FC00000 0 ∧
    vop 4 32 (.fscl 0 3 1 2 0 1) [0x3F800000] [3] 0x41000000 0 ∧
    vop 4 32 (.ffma 0 3 1 2 0 1 0) [0x3F800000] [0x40000000] 0x40000000 0 := by decide +kernel

/-- A division by zero in every lane raises DZ; a tie of 2^24 + 1 keeps 2^24 and raises NX. -/
theorem test_float_flags :
    vop 12 32 (.fdiv 0 3 1 2 0 1 0) (List.replicate 64 0x3F800000) [] 0x7F800000 fDZ ∧
    vop 4 32 (.fadd 0 3 1 2 0 1 0) [0x4B800000] [0x3F800000] 0x4B800000 fNX := by decide +kernel

/-- R192, R193: 2.5 to i32 under the ties-to-even mode; an f32 less-than and an unsigned 32-bit one. -/
theorem test_convert_and_compare :
    vop 3 32 (.fcvt 0 3 1 10 1 0 0) [0x40200000] [] 2 fNX ∧
    after 2 (.fcmp 0 2 1 2 0 1 2) ((setV 1 (packVec 32 [0xBF800000]) base).updArch fun a => { a with nmr := 1 }) (fun c => c.a.rM 2 == 1) ∧
    after 2 (.icmp 0 2 1 2 0 6 2) (setV 1 (packVec 32 [1]) (setV 2 (packVec 32 [0xFFFFFFFF]) base)) (fun c => c.a.rM 2 == 1) ∧
    after 2 (.icmp 0 2 1 2 0 2 2) (setV 1 (packVec 32 [1]) (setV 2 (packVec 32 [0xFFFFFFFF]) base)) (fun c => c.a.rM 2 == 0) := by
  decide +kernel

/-- R194: modulo 2^w, orders by N, shifts by y mod w. -/
theorem test_integer_lanes :
    vop 2 8 (.iadd 0 3 1 2 0 0 0) [255] [2] 1 0 ∧ vop 2 16 (.isub 0 3 1 2 0 0 1) [0] [1] 0xFFFF 0 ∧
    vop 4 8 (.imul 0 3 1 2 0 0 0) [16] [17] 16 0 ∧ vop 2 8 (.imin 0 3 1 2 0 0 0) [0xFF] [1] 0xFF 0 ∧
    vop 2 8 (.imin 0 3 1 2 0 1 0) [0xFF] [1] 1 0 ∧ vop 2 8 (.imax 0 3 1 2 0 0 0) [0xFF] [1] 1 0 ∧
    vop 2 32 (.ishl 0 3 1 2 0 0 2) [1] [33] 2 0 ∧ vop 2 8 (.isha 0 3 1 2 0 0 0) [0x80] [1] 0xC0 0 ∧
    vop 2 8 (.ishr 0 3 1 2 0 0 0) [0x80] [1] 0x40 0 ∧ vop 2 8 (.ixor 0 3 1 2 0 0 0) [12] [10] 6 0 ∧
    vop 2 8 (.iand 0 3 1 2 0 0 0) [12] [10] 8 0 ∧ vop 2 8 (.ior 0 3 1 2 0 0 0) [12] [10] 14 0 := by decide +kernel

/-- The worked program of chapter 8: 2^24 and 63 ones sum pairwise to 2^24 + 62, and only the first tie is inexact. -/
theorem test_vsum_worked :
    vop 8 32 (.vsum 0 3 1 0 1) (0x4B800000 :: List.replicate 63 0x3F800000) [] 0x4B80001F fNX := by decide +kernel

/-- The examples of R200 and R201: `vexpmax` of 3.0, −0.75 and 2^−1074 is 1; the live lanes of an f16 vector are 3, 17 and 40. -/
theorem test_vexpmax_and_vnzs :
    vop 6 64 (.vexpmax 0 3 1 0 0) [0x4008000000000000, 0xBFE8000000000000, 1] [] 1 0 ∧
    (let lanes := (List.range 128).map fun k => if k = 3 then 0x4100 else if k = 17 then 0xBC00 else if k = 40 then 1
       else if k = 90 then 0x8000 else 0
     after 6 (.vnzs 0 3 1 0 2 1 1) (setV 1 (packVec 16 lanes) base) (fun c => lane 16 (c.a.rV 3) 0 == 3 &&
       lane 16 (c.a.rV 3) 1 == 17 && lane 16 (c.a.rV 3) 2 == 40 && lane 16 (c.a.rV 3) 3 == 0 && c.a.rM 2 == 7)) := by decide +kernel

/-- R196 to R198, R202 to R205: `vbc.32.hi 0x3F80`, a permute past the lanes, a move that zeroes inactive lanes, a select that
keeps them, packing, a class, a mask of none, no row in the latch. -/
theorem test_lane_moves :
    after 2 (.vbcImm 0 6 3 1 0x1F0) base (fun c => lane 64 (c.a.rV 6) 31 == 0x01F0000000000000) ∧
    after 2 (.vbcLane 0 6 2 1 1) (setV 1 (packVec 32 [5, 6]) base) (fun c => lane 32 (c.a.rV 6) 63 == 6) ∧
    vop 3 64 (.vperm 0 3 1 2 3) [5, 6, 7] [2] 7 0 ∧ vop 3 64 (.vperm 0 3 1 2 3) [5, 6, 7] [32] 0 0 ∧
    after 1 (.vmov 0 3 1 1 3) (setV 1 (packVec 64 [5, 6]) (setV 3 (packVec 64 [8, 9]) (setM 1 2 base))) (fun c =>
      lane 64 (c.a.rV 3) 0 == 0 && lane 64 (c.a.rV 3) 1 == 6) ∧
    after 2 (.vsel 0 3 1 1 3) (setV 1 (packVec 64 [5, 6]) (setV 3 (packVec 64 [8, 9]) (setM 1 2 base))) (fun c =>
      lane 64 (c.a.rV 3) 0 == 8 && lane 64 (c.a.rV 3) 1 == 6) ∧
    after 6 (.vcmpk 0 3 1 1 2 3) (setV 1 (packVec 64 [5, 6]) (setM 1 2 base)) (fun c => lane 64 (c.a.rV 3) 0 == 6 && c.a.rM 2 == 1) ∧
    vop 2 32 (.fcls 0 3 1 0 1) [0x80000000] [] 3 0 ∧ after 1 (.mnot 0 1 0) (setM 1 5 base) (fun c => c.a.rM 1 == 0) ∧
    after 1 (.mpop 0 3 1) base (fun c => lane 64 (c.a.rV 3) 0 == 0 && lane 64 (c.a.rV 3) 1 == 128) ∧
    after 1 (.mand 0 3 1 2) (setM 1 6 (setM 2 3 base)) (fun c => c.a.rM 3 == 2) ∧
    after 1 (.mor 0 3 1 2) (setM 1 6 (setM 2 3 base)) (fun c => c.a.rM 3 == 7) ∧
    after 1 (.vsp 0 3 4) base (fun c => !c.a.rP 4 && c.a.rP 5) ∧ after 1 (.vsp 0 3 4) (withRow base) (fun c =>
      c.a.rP 4 && lane 64 (c.a.rV 3) 0 == 9) := by decide +kernel

/-- The X slot works on w registers. -/
theorem test_wide_slot :
    after 4 (.faddW 0 3 1 2 0 1 0) ((setW 1 (packVec 32 [0x3F800000]) (setW 2 (packVec 32 [0x40000000]) base)).updArch fun a =>
      { a with nmr := 1 }) (fun c => lane 32 (c.a.rW 3) 0 == 0x40400000) ∧
    after 2 (.iaddW 0 3 1 2 0 0 2) (setW 1 (packVec 32 [5]) (setW 2 (packVec 32 [6]) base)) (fun c => lane 32 (c.a.rW 3) 0 == 11) := by
  decide +kernel

/-! ### Window and streams -/

/-- The worked entry of chapter 3 at e = −30: 3 − 2^−30, drained to f32 under RNE and RDN; at e = −40 nothing is lost. -/
theorem test_window_worked :
    let p := [FVal.fin false 3 0, .fin true 3 (-32), .fin false 1 (-31)]
    let e30 := p.foldl (winAdd (-30)) {}
    let e40 := p.foldl (winAdd (-40)) {}
    e30.i = 3221225471 ∧ e30.cnt = 3 ∧ e30.wx = true ∧ e30.wo = false ∧
    winDrain (fenv 1) (-30) e30 (.flt .f32) .rne = (0x40400000, fWX ||| fNX) ∧
    winDrain (fenv 1) (-30) e30 (.flt .f32) .rdn = (0x403FFFFF, fWX ||| fNX) ∧
    e40.i = 3 * 2 ^ 40 - 256 ∧ e40.wx = false ∧ winDrain (fenv 1) (-40) e40 (.flt .f32) .rne = (0x40400000, fNX) := by decide +kernel

/-- The drain cases for f16 of chapter 3. -/
theorem test_drain_f16 :
    let d := fun (nmr : Word) (e : Int) (E : WinEntry) => winDrain (fenv nmr) e E (.flt .f16) .rne
    d 1 0 { i := 65520 } = (0x7C00, fOF ||| fNX) ∧ d 0x81 0 { i := 65520 } = (0x7BFF, fOF ||| fNX) ∧
    d 1 (-25) { i := 1 } = (0, fUF ||| fNX) ∧ d 1 (-26) { i := 3 } = (1, fUF ||| fNX) ∧ d 1 0 {} = (0, 0) ∧
    d 1 0 { cls := 1, wx := true } = (0x7C00, fWX ||| fNX) ∧ d 1 0 { cls := 3, nvi := true } = (0x7E00, fNV) ∧
    d 1 0 { cls := 3 } = (0x7E00, 0) ∧ d 1 0 { wo := true } = (0x7E00, fWO ||| fNV) := by decide +kernel

/-- R325 to R327: keys of both, of either, of the first only; a dot product of f32 pairs; a length. -/
theorem test_streams :
    let p := fun (k v : Nat) => mkPair k v
    let s := ((setZ 0 [p 1 0x3F800000, p 3 0x40000000] (setZ 1 [p 3 0x40000000, p 4 0x3F800000] base)).updArch fun a =>
      { a with nmr := 1 }).updMe fun x => { x with strWait := some 0 }
    after 4 (.zis 0 2 0 1 1) s (fun c => (vget c.a.z 2).map pairKey == [3]) ∧
    after 4 (.zun 0 2 0 1 1) s (fun c => (vget c.a.z 2).map pairKey == [1, 3, 4]) ∧
    after 4 (.zsb 0 2 0 1) s (fun c => (vget c.a.z 2).map pairKey == [1]) ∧
    after 12 (.zma 0 3 0 1) s (fun c => lane 32 (c.a.rW 3) 0 == 0x40800000 || lane 64 (c.a.rW 3) 0 == 0x4010000000000000) ∧
    after 1 (.zlen 0 3 0) s (fun c => lane 64 (c.a.rW 3) 0 == 2) := by decide +kernel

/-! ### Further cases of the statements -/

/-- Operands of every class: finite and infinite, quiet and signalling NaN; formats that widen and that do not; values that fit the
window, and an order of them; entries of every class. -/
theorem witness_NumbersAreExact :
    let v := fenv 1
    let cls := fun (t : FTy) (x : Nat) => t.val (flushBits v t x)
    (∃ m e, cls .f32 0x3F800000 = .fin false m e) ∧ (∃ m e, cls .f32 0x80000000 = .fin true m e) ∧
      cls .f32 0xFF800000 = .inf true ∧ cls .f32 0x7FC00000 = .nan false ∧ cls .f32 0x7F800001 = .nan true ∧
      widens .f32 .f64 = true ∧ widens .f64 .f32 = false ∧ (∃ m e, readVal v .f64 0x3FF8000000000000 = .fin false m e ∧ m ≠ 0) ∧
      readVal v .e5m2 0xFC = .inf true ∧ readVal v .f16 0x7E00 = .nan false ∧ [(false, 3, (0 : Int))].length < 2 ^ 32 ∧
      cmpDyadic 3 0 1 (-40 + 223) = .lt ∧ [FVal.fin false 3 0, .inf true].Perm [.inf true, .fin false 3 0] ∧
      ({ wo := true } : WinEntry).wo = true ∧ ({} : WinEntry).cls = 0 ∧ ({ cls := 3 } : WinEntry).cls = 3 ∧
      ({ cls := 2 } : WinEntry).cls = 2 ∧ 0 < [({} : WinEntry)].length := by
  refine ⟨⟨_, _, rfl⟩, ⟨_, _, rfl⟩, ?_, ?_, ?_, ?_, ?_, ⟨2 ^ 52 + 2 ^ 51, -52, ?_⟩, ?_, ?_, ?_, ?_, .swap .., ?_⟩ <;> decide +kernel

/-- Two loops that end together: of the inner one the count runs out, of the outer one it does not. -/
theorem witness_LoopRunsItsCount_nested :
    let inner : LoopLevel := { count := 1, index := 4, start := 48, last := 64 }
    let outer : LoopLevel := { count := 3, index := 0, start := 32, last := 64 }
    inner.last = 64 ∧ inner.count ≤ 1 ∧ outer.last = 64 ∧ 1 < outer.count ∧
      backEdge 64 [inner, outer] = (32, [{ outer with count := 2, index := 1 }]) ∧ backEdge 64 [inner] = (80, []) := by
  decide +kernel

/-- The stages of a step-control call: not begun, waiting for a command, waiting for none, a kill under way and over; contexts of the
step that are parked, held and neither. -/
theorem witness_StepControl_stages :
    let s := svc (setS 2 1 (setS 3 7 base))
    let at' := fun (r : ReqStage) (t : State) => t.updMe fun x => { x with reqStage := r }
    let busy := (at' .released s).updMe fun x => { x with records := [{ form := 0, scope := 0, len := 1, total := 1, left := 1 }] }
    let done := fun (t : State) => t.updMe fun x => { x with records := x.records.map fun r => { r with left := 0 } }
    let dead := ((otherStep [] 1 s).updStep 1 7 fun k => { k with killed := true }).updCtx 2 fun x => { x with cond := .absent }
    let ok := (otherStep [2] 1 s).updStep 1 7 fun k => { k with ctxs := [(0, 2), (1, 3), (2, 4)] }
    let mixed := ok.updCtx 3 fun x => { x with cond := .held }
    s.me.reqStage = .none ∧ s.me.reqAns = none ∧ busy.me.reqStage = .released ∧
      (∃ r ∈ busy.me.records, r.moved = false) ∧ (∀ r ∈ (done busy).me.records, r.moved = true) ∧ (done busy).me.records ≠ [] ∧
      (at' .released s).me.records = [] ∧ (at' .merging dead).me.reqStage = .merging ∧
      (dead.findStep 1 7).all dead.stepDead = true ∧ isSome (dead.findStep 1 7) dead.stepDead = true ∧
      isSome (mixed.findStep 1 7) (fun k => !k.parkedBy.isEmpty && !mixed.brokenImage k && (mixed.ctx 2).cond == .parked &&
        (mixed.ctx 3).cond == .held && (mixed.ctx 4).cond == .absent && (k.areas.find? fun a => a.1 == 0).isSome &&
        (k.ctxs.find? fun e => e.2 % 384 == 5).isNone) = true := by decide +kernel

/-- A task that comes from none of the others is below task 5 only. -/
theorem not_below {l : List Task} {n p : Nat} (h : ∀ t ∈ l, t.num = n → t.parent = p) (hp : ∀ t ∈ l, t.num ≠ p) (r : Nat)
    (hn : r ≠ n) (hr : r ≠ p) : ¬ Below l r n := by
  intro hb
  cases hb with
  | here => exact hn rfl
  | child t ht hb =>
    rw [h t ht rfl] at hb
    generalize hq : p = q at hb
    cases hb with
    | here => exact hr hq.symm
    | child u hu _ => exact hp u hu hq.symm

/-- Tasks below the caller, another that is not, one whose record stands; a kill under way, over and not. -/
theorem witness_TaskRequests_kill :
    let s := task { num := 9, opb := benchOpb, rev := 1, parent := 1, kind := .launched } base
    let t := task { num := 5, opb := benchOpb, rev := 1, parent := 77, kind := .launched, recorded := true } s
    let on : State := ({ t with steps := t.steps ++ [{ task := 9, step := 0, cis := 0, members := [], ctxs := [(0, 2)], killed := true }] } :
      State).updCtx 2 fun x => { x with cond := .running }
    let kill := fun (n : Nat) (u : State) => setS 2 n (u.updMe fun x => { x with reqStage := .killing })
    Below t.tasks t.me.task 9 ∧ ¬ Below t.tasks t.me.task 5 ∧ t.isSvc t.cur = false ∧ (svc t).isSvc (svc t).cur = true ∧
      ((kill 9 on).sReg 0 2).toNat % 2 ^ 32 = 9 ∧ (kill 9 on).me.reqStage = .killing ∧ (kill 9 on).me.reqAns = none ∧
      (kill 9 on).me.req = none ∧ (kill 9 on).killDone 9 = false ∧ (kill 5 (svc t)).killDone 5 = true ∧
      isSome (t.findTask 5) Task.recorded = true := by
  refine ⟨.child { num := 9, opb := benchOpb, rev := 1, parent := 1, kind := .launched } (by decide +kernel) .here,
    not_below (p := 77) (by decide +kernel) (by decide +kernel) _ (by decide +kernel) (by decide +kernel), ?_⟩
  decide +kernel

/-- A region that meets another of the caller's; a revision as deep as any may be. -/
theorem witness_TaskRequests_traps :
    let s := asked (base.write (cellsAt (benchCode + 16) (bytesOfNat 8 0x1000 ++ bytesOfNat 8 64 ++ [1, 3, 0])))
    let t := s.updTask 1 fun k => { k with regions := [{ n := 2, start := 0x1000, len := 64, ty := 3, merge := 0 }] }
    let deep : State := { s with revs := s.revs.map fun r => { r with depth := 16 } }
    isOk (taskRead t t.myRev.table 16 24) (fun bs => isSome (parseRegion bs) fun g => isSome (t.taskOf t.cur) fun k =>
      (putRegion k.regions g).isNone) = true ∧ deep.readOpb 0 ≠ none ∧ 16 ≤ deep.myRev.depth ∧ deep.forks = [] := by
  decide +kernel

/-- Sets with no room left; a phase passed before a rollback; an effect held at a phase; in a DET task sets that do not clash and,
in two contexts of a gang that have arrived, sets that do. -/
theorem witness_WaitsFencesAndSets_phases :
    let s := setA 2 128 (setA 3 256 base)
    let r : SetRange := { path := 0, wr := false, first := 7, len := 1 }
    let full := fun (wr : Bool) => s.updMe fun x => { x with setsNext := List.replicate 8 { r with wr := wr } }
    let again := s.updMe fun x => { x with phaseTop := 1 }
    let gated := base.updMe fun x => { x with gate := [.spill []] }
    let two := ((det base).updStep 1 0 fun k => { k with ctxs := [(0, 0), (1, 1)] }).updCtx 1 fun x => { x with
      cond := .running, task := 1, step := 0, gi := 1, atPhase := true }
    let clash := (two.updMe fun x => { x with setsNext := [{ r with wr := true }] }).updCtx 1 fun x => { x with setsNext := [r] }
    let asked : SetRange := { path := 0, wr := false, first := 1, len := 2 }
    asked ∉ (full false).me.setsNext ∧ { asked with wr := true } ∉ (full true).me.setsNext ∧
      ((full false).me.setsNext.filter fun q => q.path == 0 && q.wr == false).length = 8 ∧
      ((full true).me.setsNext.filter fun q => q.path == 0 && q.wr == true).length = 8 ∧
      (full true).resolve (full true).cur ((s.aReg 0 2).toNat % 2 ^ 24) ((s.aReg 0 3).toNat % 2 ^ 24) 1 ≠ none ∧
      again.me.a.phases < again.me.phaseTop ∧ again.me.gate = [] ∧ gated.me.gate ≠ [] ∧ two.isDet two.cur = true ∧
      phaseReady two = true ∧ overlapDetail two = none ∧ phaseReady clash = true ∧ clash.me.gate = [] ∧
      clash.isDet clash.cur = true ∧ (overlapDetail clash).isSome = true ∧ two.me.inIssue = false ∧
      (two.updMe fun x => { x with inIssue := true }).me.inIssue = true := by decide +kernel

/-- Granules with single-bit errors, met by a load and not, in the well and in device memory. -/
theorem witness_SingleBitErrors :
    let s : State := { base with softMem := [wellBase + 0x1000, wellBase + 0x2000, 64] }
    wellBase + 0x1000 ∈ s.softMem ∧ youngest (s.ctx 0).ownStores (wellBase + 0x1004) = none ∧ zoneOf (wellBase + 0x1000) = .well ∧
      zoneOf 64 ≠ .well ∧ (s.coreCorrect 0 (wellBase + 0x1000) 8).softMem = [wellBase + 0x2000, 64] ∧
      (s.coreCorrect 0 64 8).softMem = [wellBase + 0x1000, wellBase + 0x2000] ∧ base.softMem = [] := by decide +kernel

/-- A command posting outside its gang, one whose local side is outside the sets of its DET task, one whose page is not mapped. -/
theorem witness_SiphonAcceptance_faults :
    let far := sphRegs 0x2000 0x1000 (BitVec.ofNat 64 (64 + 5 * 2 ^ 37 + 2 ^ 45)) 0
    let out := det (sphRegs 0x2000 0x1000 64 0)
    let va := sphRegs 0x2000 0x900000000 64 0
    isSome (draftCp far 4 5 6 0 0 0) (fun d => (d.badSide far).isNone && (d.cmd.badTarget far).isSome) = true ∧
      isSome (draftCp out 4 5 6 0 0 0) (fun d => (d.badSide out).isNone && (d.cmd.badTarget out).isNone && (d.outside out).isSome) =
        true ∧
      isSome (draftCp va 4 5 6 0 1 0) (fun d => (d.badSide va).isNone && (d.cmd.badTarget va).isNone && (d.outside va).isNone &&
        match (d.finish va).places true va.cur (d.readList va) with
        | .fail k _ _ => k != 6
        | _ => false) = true ∧ va.me.records.length < 32 ∧ va.me.draft = none := by decide +kernel

/-- A queue feed whose ring slots lie in no set of its DET task, while its tag list does. -/
theorem witness_FeedsAndDrains_sets :
    let qx := 2 * 2 ^ 48 + 1 * 2 ^ 40 + 0x400 * 2 ^ 24
    let q := pair qx 0 ((opened 0).updArch fun x => { x with
      qs := vput x.qs 3 { base := 0x1000, sz := 7, role := 2, wflag := 1, peer := 0, pflag := 2, nsl := 4 } })
    let d := (det q).updMe fun x => { x with setsNow := [{ path := 3, wr := false, first := 0, len := 1 }] }
    isOk (feedStart d false 0) (fun b => isOk (feedLists d b 3 2 0 qx 0) (fun _ => true) && isOk (queueFeed d b 3 2 1 0x400) (fun _ => true) &&
      !isOk (queueSets d 3 2 0x400 (rowBytes b)) (fun _ => true)) = true ∧
      isOk (feedStart q false 0) (fun b => isOk (queueSets q 3 2 0x400 (rowBytes b)) fun _ => true) = true := by decide +kernel

/-- A bubble cycle in which a result falls due, and one in which the watchdog reaches its bound. -/
theorem witness_CoreEvents_bubble :
    let b := (does (.add 0 3 0 0 0) base).updMe fun x => { x with bubbles := 2 }
    let w := b.updMe fun x => { x with wdog := BitVec.ofNat 29 (2 ^ 28 - 1) }
    let ready := fun (b : State) => let h := ((b.openTurn b.cur).fetchSecond (otherCtx b.cur)).hurryAtoms b.cur
      b.cur = b.arg.c ∧ b.me.bubbles ≠ 0 ∧ b.me.cond = .running ∧ b.killDue b.cur = false ∧ b.me.yieldHold = false ∧
        b.mustYield b.cur = false ∧ h.me.mcDue = none ∧ h.me.fpDue = none
    ready b ∧ b.me.wdog.toNat + 1 < 2 ^ 28 ∧ ready w ∧ w.me.wdog.toNat + 1 = 2 ^ 28 ∧ b.me.a.pend.length = 1 ∧
      b.me.a.pend.all (fun p => match p.val with | .atomic .. => false | _ => true) = true := by decide +kernel

/-- The command of this form accepted and committed, nothing in its way. -/
def going (i : Instr) (s : State) : State := (does i s).updMe fun x => { x with
  gate := [], records := x.records.map fun r => { r with st := .committed } }

/-- Command 0 may move; its sides and what holds of it. -/
def moves (s : State) (ok : SphCmd → Bool) : Bool := isSome ((s.ctx 0).sphRec 0) fun r =>
  s.mayMove 0 r && r.done < r.stream && (s.cis 0).lines.isEmpty && r.st == .committed &&
    (placesOf r.sPlaces 0 r.stream).all (fun p => !s.unreadable p 1) && (placesOf r.dPlaces r.done r.chunk).all (fun p => !s.lost p) &&
    ok r

/-- A copy, a gather, a scatter and an immediate, whose sides do not meet; an overlapping copy that has not begun, and one with its
source remembered. -/
theorem witness_SiphonMoves_bytes :
    let ix : Word := BitVec.ofNat 64 (2 * 2 ^ 40 + 2 * 2 ^ 37 + 1 * 2 ^ 24 + 0x3000)
    let plain := fun (f : Nat) (r : SphCmd) => r.form == f && !r.add && r.snap.isNone && !r.overlapping &&
      (placesOf r.dPlaces r.done r.chunk).length == r.chunk && (placesOf r.sPlaces r.done r.chunk).length == r.chunk
    let lapped := going (.sphCp 0 4 5 6 0 0 0) (sphRegs 0x1010 0x1000 64 0)
    moves (going (.sphCp 0 4 5 6 0 0 0) (sphRegs 0x2000 0x1000 64 0)) (plain 0) = true ∧
      moves (going (.sphGth 0 4 5 6 0) (sphRegs 0x2000 0x1000 64 ix)) (plain 1) = true ∧
      moves (going (.sphSct 0 4 5 6 0) (sphRegs 0x1000 0x2000 64 ix)) (plain 2) = true ∧
      moves (going (.sphImm 0 4 5 6 0 0) (sphRegs 0x2000 0x1000 8 0)) (fun r => r.form == 9 && r.snap.isNone && !r.overlapping &&
        (placesOf r.dPlaces r.done r.chunk).length == r.chunk) = true ∧
      moves lapped (fun r => r.form == 0 && !r.begun && r.overlapping && r.done == 0 && r.snap.isNone) = true ∧
      isSome ((ev .siphonTransfer lapped |>.ctx 0).sphRec 0) (fun r => r.begun && isSome r.snap fun l => l.length == 64) = true := by
  decide +kernel

/-- An exact add of both kinds, an atomic, a preload, and a scatter that has only its skip word to write. -/
theorem witness_SiphonMoves_others :
    let ix : Word := BitVec.ofNat 64 (2 * 2 ^ 40 + 2 * 2 ^ 37 + 1 * 2 ^ 24 + 0x3000)
    let last := (going (.sphSct 0 4 5 6 0) (sphRegs 0x1000 0x2000 64 ix)).updMe fun x => { x with
      records := x.records.map fun r => { r with done := 64, skipAt := some 64 } }
    moves (going (.sphRed 0 4 5 6 0 0 0) (sphRegs 0x2000 0x1000 80 0)) (fun r => r.form == 3) = true ∧
      moves (going (.sphSctAdd 0 4 5 6 0) (sphRegs 0x1000 0x2000 80 ix)) (fun r => r.form == 2 && r.add) = true ∧
      moves (going (.sphAtom 0 4 5 6 0 0) (sphRegs 0x2000 0x1000 8 0)) (fun r => r.form == 5 &&
        (placesOf r.dPlaces 0 r.stream).length == r.stream) = true ∧
      moves (going (.sphPre 0 5 6 0) (sphRegs 0x2000 0x1000 64 0)) (fun r => r.form == 7 &&
        (placesOf r.sPlaces r.done r.chunk).any fun p => zoneOf p == .device) = true ∧
      isSome ((last.ctx 0).sphRec 0) (fun r => last.mayMove 0 r && r.stream ≤ r.done && r.skipAt.isSome) = true ∧
      (filling.badIn 0 64) = false ∧ 3 < 2 ^ 32 := by decide +kernel

/-- The test SHA(abc) of RFC 8032: the seed, its key, and the signature of the SHA-512 of "abc". -/
def rfcSeed : List Byte := (bytesOfNat 32 0x833fe62409237b9d62ec77587520911e9a759cec1d19755b7da901b96dca3d42).reverse
def rfcKey : List Byte := (bytesOfNat 32 0xec172b93ad5e563bf4932c70e1245034c35467ef2efd4d64ebf819683467e2bf).reverse
def rfcSig : List Byte := (bytesOfNat 64 (0xdc2a4459e7369633a52b1bf277839a00201009a3efbf3ecb69bea2186c26b589 * 2 ^ 256 +
  0x09351fc9ac90b3ecfdfbc7c66431e0303dca179c138ac17ad9bef1177331a704)).reverse

/-- The image whose body is "abc". -/
def signedImage : BootImage := { version := 0, digest := sha512 [0x61, 0x62, 0x63], signature := rfcSig, body := [0x61, 0x62, 0x63] }

theorem test_ed25519_key : edPublic rfcSeed = rfcKey := by decide +kernel

theorem test_ed25519_sign : edSign rfcSeed (sha512 [0x61, 0x62, 0x63]) = rfcSig := by decide +kernel

/-- A part whose key has the fused digest. -/
def keyed : Mgmt := { State.reset.mgmt with hexvinKey := rfcKey, keyDigest := sha512 rfcKey }

theorem image_signed : keyed.signed signedImage = true := by decide +kernel

/-- A start that goes on. -/
theorem witness_GoodImage : keyed.imageBad signedImage = none := by
  unfold Mgmt.imageBad
  rw [image_signed]
  decide +kernel

/-- The body of a signed image changed; an image older than the part asks for. -/
theorem witness_BadImages : keyed.imageBad { signedImage with body := [1] } = some 2 ∧
    ({ keyed with minVersion := 1 } : Mgmt).imageBad signedImage = some 3 := by
  have h : keyed.signed { signedImage with body := [1] } = true := image_signed
  have k : ({ keyed with minVersion := 1 } : Mgmt).signed signedImage = true := image_signed
  unfold Mgmt.imageBad
  rw [h, k]
  decide +kernel

/-- Starts begun and not, a dump that is there and not yet read, a part opened in spite of one; flits carried and not, one that has
failed seven times, a faulty lane of a link that is down. -/
theorem witness_StartupAndLinks_more :
    let l : Link := { vget base.links 0 with sent := 5, replay := [3, 4] }
    (mgmt (fun m => { m with begun := true }) {}).mgmt.begun = true ∧ State.reset.mgmt.begun = false ∧
      (mgmt (fun m => { m with state := 3, fullWidth := true, dumped := true }) {}).mgmt.dack = false ∧
      (mgmt (fun m => { m with state := 3, fullWidth := true, dumped := true, dack := true }) {}).mgmt.dack = true ∧
      State.reset.mgmt.fatal = none ∧ (mgmt (fun m => { m with state := 4 }) {}).mgmt.state = 4 ∧ l.st = .up ∧
      isSome (l.carry 4 6) (fun m => m.replay == [4, 5, 6] && m.sent == 7) = true ∧ l.carry 4 3 = none ∧
      ({ l with st := .down } : Link).carry 4 6 = none ∧
      ({ l with failing := 4, fails := 7 } : Link).crcFail 2 4 false = { l with
        failing := 4, fails := 8, st := .down, laneReplays := vput l.laneReplays 2 (vget l.laneReplays 2 + 1) } ∧
      ({ l with st := .down } : Link).st = .down := by decide +kernel

/-- A dump that is complete, in minimal mode; a part that is neither open nor dumped; remote accesses of each kind. -/
theorem witness_HostAccesses_more :
    let read := mgmt (fun m => { m with state := 5, dumpDone := true }) { a := Config.dumpAt, n := 8 }
    let far := fun (k n : Nat) (bs : List Byte) => ({ base with arg := { k := k, n := n, a := 64, bs := bs } } : State)
    read.mgmt.state = 5 ∧ read.mgmt.dumpDone = true ∧ Config.dumpAt ≤ read.arg.a ∧ read.arg.a + read.arg.n ≤ Config.deviceBytes ∧
      read.badMem = [] ∧ State.reset.mgmt.dumpDone = false ∧ (far 0 8 []).arg.a + (far 0 8 []).arg.n ≤ Config.deviceBytes ∧
      (far 1 0 [1, 2]).arg.k = 1 ∧ (far 2 4 [1, 0, 0, 0]).badIn 64 4 = false ∧ (far 2 4 []).arg.v = 0 ∧
      (far 3 40 [1]).badIn 64 40 = false ∧ configOffset 0x20 = true := by decide +kernel

/-- The worked example of R389: a third bad signature of stage 2's image, then the start that ends in minimal mode. -/
theorem test_status_worked :
    let s := mgmt (fun m => { m with state := 1, fails := 2, begun := true }) {}
    (does .bootStart (does .bootStageDone s)).barRead 8 = 0x01230045 := by decide +kernel

/-- A region of KEEP over the whole page leaves it as it is. -/
theorem mergePage_keeps (s : State) (v : FEnv) (fp fc fa : Nat) :
    (mergePage s v [{ n := 0, start := 0, len := 65536, ty := 7, merge := 0 }] 0 fp fc fa).cells = [] := by
  have keep : ∀ l : List (Nat × Nat × Nat × Nat), (∀ e ∈ l, e.2.2.2 = 0) → ∀ m : PageMerge, m.cells = [] →
      (l.foldl (mergeOne s v fp fc fa) m).cells = [] := by
    intro l
    induction l with
    | nil => intro _ m h; exact h
    | cons e l ih =>
      intro hl m h
      refine ih (fun e he => hl e (List.mem_cons_of_mem _ he)) _ ?_
      have he : e.2.2.2 = 0 := hl e List.mem_cons_self
      have hk : ∀ p c a, (mergeElem v e.2.2.1 0 p c a).1 = p := fun p c a => by
        unfold mergeElem
        split <;> rfl
      unfold mergeOne
      split
      · exact h
      · simp [he, hk, h]
  refine keep _ (fun e he => ?_) _ rfl
  simp only [pageElems, List.flatMap_cons, List.flatMap_nil, List.append_nil, List.mem_append, List.mem_map,
    List.mem_filter] at he
  obtain ⟨i, -, rfl⟩ | ⟨o, ⟨ho, hn⟩, -⟩ := he
  · rfl
  · have : o < 65536 := by simpa [upTo] using ho
    simp [this] at hn

/-- A join whose merge waits for a command that holds an old frame; a page that does not change; a page of the parent that is
shared, with no frame left to copy it to. -/
theorem witness_Joins_more :
    let kept : Region := { n := 0, start := 0, len := 65536, ty := 7, merge := 0 }
    let same := joining 15 (some [0]) fun j => { j with regions := [kept] }
    let busy : State := { joining 15 (some [0]) (fun j => { j with waits := [(0, 0)] }) with ctxs := filling.ctxs }
    let shared := merging.write (cellsAt 0x830000 (bytesOfNat 8 (ownPa base 0x900000 + 31)))
    isSome busy.joins.head? (fun j => j.waits.any busy.holdsOld) = true ∧ (mergePage same (fenv 1) [kept] 0 0x900000 0xB00000 0xC00000).cells = [] ∧
      isSome (same.findRev 1) (fun a => isSome (same.findRev 2) fun b => pageFrames same a b 0 == some (0x900000, 0xB00000, 0xC00000)) =
        true ∧
      isSome (shared.findRev 1) (fun a => isSome (shared.findRev 2) fun b =>
        let l := [(0x900000, 65536), (0xB00000, 65536), (0xC00000, 65536)]
        pageFrames shared a b 0 == some (0x900000, 0xB00000, 0xC00000) && (((shared.correctAll l).logBad l).ownPage a 0).isNone) = true ∧
      (mergePage shared (fenv 1) [region0] 0 0x900000 0xB00000 0xC00000).cells ≠ [] := by
  refine ⟨by decide +kernel, mergePage_keeps .., by decide +kernel, by decide +kernel, ?_⟩
  exact mergePage_kept _ _ _ _ _ _ _ (0, regionSize 3, 3, 1) _ rfl (by decide +kernel)

/-- Elements of a float type: finite, a signalling and a quiet NaN, infinities of one and of both signs. -/
theorem witness_MergeRules :
    let v := fenv 1
    let at' := fun (p c a : Nat) => [readVal v .f64 p, readVal v .f64 c, (readVal v .f64 a).neg]
    ETy.ofCode 0 = .flt .f64 ∧ ¬ ((0 : Nat) = 1 ∧ (0 : Nat) = 1) ∧ .nan true ∈ at' 0x7FF0000000000001 0 1 ∧
      .nan false ∈ at' 0 0x7FF8000000000000 1 ∧ .nan true ∉ at' 0 0x7FF8000000000000 1 ∧
      (∀ i ∈ at' 0x7FF0000000000000 0 0x7FF0000000000000, i.isNan = false) ∧
      .inf true ∈ at' 0x7FF0000000000000 0 0x7FF0000000000000 ∧ .inf false ∈ at' 0x7FF0000000000000 0 0x7FF0000000000000 ∧
      (∀ i ∈ at' 0x7FF0000000000000 0 1, i.isNan = false) ∧ .inf true ∉ at' 0x7FF0000000000000 0 1 ∧
      .inf false ∈ at' 0x7FF0000000000000 0 1 ∧ (readVal v .f64 0).isNan = false ∧ (readVal v .f64 0).isInf = false := by
  decide +kernel

/-- The limits of live tasks and revisions. -/
theorem witness_Forks_limits : (forking 3).liveTasks < 16384 ∧ (forking 3).revs.length < 4096 ∧
    4096 ≤ ({ forking 3 with revs := List.replicate 4096 default } : State).revs.length := by
  refine ⟨by decide +kernel, by decide +kernel, ?_⟩
  simp

/-- A codebook and a scale table at the head of the engine; a drain of two tag groups, of which the first is not the last. -/
theorem witness_EngineOperations_more :
    let book := release (does (.mcb 0 0 0 0) (withTid 0 0 0x400 base))
    let scale := release (does (.msc 0 0 0) base)
    let s := release (does (.bagClose 0) (begun 0))
    let two := fun (dst : Nat) => ev .arrayOpStart (release (does (.sumpDr 0 6 0 0 1 1 dst)
      (setA 6 (BitVec.ofNat 64 (32 * 2 ^ 35 + 16 * 2 ^ 24)) (ev .bagCloseComplete s))))
    head book (fun o => book.mayBegin 0 o && match o.kind with | .mcb _ _ p => !book.badIn p 32 | _ => false) = true ∧
      head scale (fun o => scale.mayBegin 0 o && match o.kind with | .msc p => !scale.badIn p 64 | _ => false) = true ∧
      isSome (two 1).me.drainOp (fun o => o.2.dst == 1 && (o.2.next + 1) * o.2.group < o.2.len) = true ∧
      isSome (two 2).me.drainOp (fun o => o.2.dst == 2 && (o.2.next + 1) * o.2.group < o.2.len) = true ∧
      isSome (draining 2).me.drainOp (fun o => o.2.dst == 2 && o.2.len ≤ (o.2.next + 1) * o.2.group) = true := by decide +kernel

/-- Pairs of common keys: finite values; a NaN; infinities of both signs; one infinity. Lanes that are nonzero, infinite and NaN. -/
theorem witness_DotProduct :
    let w := fun (k v : Nat) => BitVec.ofNat 64 (k + v * 2 ^ 32)
    let ps := fun (a b : List Word) => a.filterMap fun x => (b.find? fun y => pairKey y == pairKey x).map fun y =>
      prod (readVal (fenv 1) .f32 (pairVal x)) (readVal (fenv 1) .f32 (pairVal y))
    let one := 0x3F800000
    let inf := 0x7F800000
    keysAscend [w 1 one, w 2 one] = true ∧
      (ps [w 1 one, w 2 one] [w 2 one, w 3 one]).all (fun p => match p with | .fin .. => true | _ => false) = true ∧
      (ps [w 1 one, w 2 one] [w 2 one, w 3 one]).length = 1 ∧ (ps [w 1 0x7FC00000] [w 1 one]).any FVal.isNan = true ∧
      .inf true ∈ ps [w 1 inf, w 2 inf] [w 1 one, w 2 0xBF800000] ∧ .inf false ∈ ps [w 1 inf, w 2 inf] [w 1 one, w 2 0xBF800000] ∧
      .inf false ∈ ps [w 1 inf, w 2 one] [w 1 one, w 2 one] ∧ .inf true ∉ ps [w 1 inf, w 2 one] [w 1 one, w 2 one] ∧
      (∀ p ∈ ps [w 1 inf, w 2 one] [w 1 one, w 2 one], p.isNan = false) := by decide +kernel

/-- Active lanes of which one is a number other than zero, one infinite, one NaN. -/
theorem witness_Reductions :
    let s := setV 1 (BitVec.ofNat 2048 (0x3F800000 + 0x7F800000 * 2 ^ 32 + 0x7FC00000 * 2 ^ 64)) base
    let fs := ((List.range 64).filter fun i => s.me.a.active 0 i 32).map fun i => FTy.f32.val (lane 32 (src s 2 1) i)
    On s 0 ∧ (ETy.ofCode 1 = .flt .f32) ∧ fs.any FVal.isInf = true ∧ fs.any FVal.isNan = true ∧
      fs.any (fun x => match x with | .fin _ k _ => k != 0 | _ => false) = true ∧ ETy.ofCode 10 = .int true 2 ∧
      ((List.range 64).filter fun i => s.me.a.active 0 i 32) ≠ [] := by decide +kernel

/-- R71: an entry that holds zero drains to 0 of an integer type with no flag, whatever the base. -/
theorem test_drain_zero : winDrain (fenv 1) 71 {} (.int true 0) .rne = (0, 0) ∧ winDrain (fenv 1) 127 {} (.int false 2) .rne = (0, 0) := by
  decide +kernel

/-! ### Cases of the second reading -/

/-- Operands of `fexp2` and `flog2`: a whole number, a power of two, a number that is not zero. A bundle with a mark and one without. -/
theorem witness_ExpAndLog : (3 : Nat) ≠ 0 ∧ (0 : Int) ≤ 1 ∧ (unitsOf true 3 1 0).natAbs < 2 ^ 16 ∧ (-5 : Int).natAbs < 2 ^ 16 := by
  decide +kernel

theorem witness_BundleEnds :
    let b := fun (k : Nat) => ((.header 0 k 0 0 0 0 0 0, .nopM 0, .nopV 0, .nopX 0) : Bundle)
    (hdrOf (b 1)).k = 1 ∧ (hdrOf (b 0)).k ≠ 1 := by decide +kernel

/-- A table that is split and one that is not; images that are good and bad in each way. -/
theorem witness_TidEntries_details :
    let split := fun (s : State) => (s.taskOf s.cur).all fun k => !(opbField 42 1 k.opb).testBit 3
    split base = true ∧ split (setOpb 42 8 base) = false ∧ base.cur = 0 ∧ tidDetail 0 = 0 ∧ tidDetail (7 * 2 ^ 61 + 8) = 8 ∧
      tidDetail (3 * 2 ^ 58) = 8 ∧ tidDetail (2 ^ 60) = 7 ∧ tidDetail (2 * 2 ^ 58) = 7 := by decide +kernel

/-- A stage wait that is over; counts a handle holds and must take; words and snapshots out of reach. -/
theorem witness_WaitsAndCounts :
    let late := base.updMe fun x => { x with step := 3, wlPassed := some 0xFFFE }
    let q := (base.updArch fun x => { x with qs := vput x.qs 3 { sz := 2, role := 1, wflag := 1, nsl := 4, held := 1 } }).updMe
      fun x => { x with flags := vput x.flags 1 1 }
    let far := setA 2 (0xFFFF00 + 2 * 2 ^ 24) base
    late.me.wlPassed = some 0xFFFE ∧ 0 ≤ late.stages ∧ 1 ≤ (vget q.me.a.qs 3).held ∧ (vget q.me.a.qs 3).held < 2 ∧
      q.me.canAcquire 3 2 = true ∧ atomReady far = true ∧ far.resolve far.cur (lsaOf (far.aReg 0 2)) 4 4 = none ∧
      far.resolve far.cur (lsaOf (far.aReg 0 2)) 256 256 = none := by decide +kernel

/-- Conditions on numbers and NaNs; values of every class. -/
theorem witness_ConditionsAndClasses :
    (FVal.nan true).isNan = true ∧ 7 < 8 ∧ 0xFF < 2 ^ FTy.e5m2.width ∧ FTy.f32.val 0x7F800001 = .nan true ∧
      FTy.f32.val 0xFF800000 = .inf true ∧ FTy.f32.val 0x80000000 = .fin true 0 (-149) ∧ FTy.f32.val 1 = .fin false 1 (-149) ∧
      cmpDyadic 1 (-149) 1 FTy.f32.emin = .lt ∧ 0x7F < 256 := by decide +kernel

/-- A byte that a siphon command could not read: its machine check is not yet due. -/
theorem witness_DueCheck :
    let x : Ctx := { filling.me with records := filling.me.records.map fun r => { r with left := 0, done := r.stream, errFirst := some 3 } }
    x.cond ≠ .absent ∧ isSome (x.records.find? fun q => q.idx == 0 && q.st == .committed && q.moved && q.errFirst.isSome && !q.checked)
      (fun r => r.idx == 0) = true := by decide +kernel

/-- A counter at a final value and below; the root with another task live, with a service task left, with none left. -/
theorem witness_RootCompletes :
    let root : State := setOpb 88 0 ({ sphRegs 0 0 0 0 with steps := [] } : State)
    let ends := fun (s : State) => isSome (s.findTask 1) (fun k => k.num == 1 && !k.recorded && k.st == .live && s.stepsOver k &&
      (s.leftChildren k).isEmpty)
    let other : State := task { num := 9, opb := benchOpb, rev := 1, parent := 8, kind := .launched } root
    let served : State := task { num := 9, opb := benchOpb.set 41 8, rev := 1, parent := 8, kind := .launched } root
    0xFFFE ≤ 0xFFFE ∧ 3 < 0xFFFE ∧ ends root = true ∧ ends other = true ∧ ends served = true ∧
      other.tasks.any (fun u => u.num != 1 && !u.svc && !u.recorded) = true ∧
      served.tasks.all (fun w => w.num == 1 || w.svc || w.recorded) = true ∧
      isSome (served.tasks.find? fun w => w.svc && !w.recorded) (fun u => u.num == 9) = true ∧
      root.tasks.all (fun w => (w.num == 1 && !w.svc) || w.recorded) = true ∧
      isSome (root.findTask 1) (fun k => isSome (root.findRev k.rev) fun r => (crecPlace root r.table (opbCrec k.opb)).isSome) = true := by
  decide +kernel

/-- Joins whose pages are all merged, before and after the revisions have left the TLBs for good. -/
theorem witness_Joins_sealed :
    let e := fun (b : Bool) => joining 7 (some []) fun j => { j with sealed := b }
    isSome (e false).joins.head? (fun j => !j.sealed && !j.waits.any (e false).holdsOld && j.pages == some []) = true ∧
      isSome (e true).joins.head? (fun j => j.sealed && !j.waits.any (e true).holdsOld && j.pages == some []) = true := by
  decide +kernel

/-- Every SPDM request code, one that is none, and measurements asked for with a signature and without. -/
theorem witness_SpdmCodes :
    let code := fun (n : Nat) => (([0x12, BitVec.ofNat 8 n, 1] : List Byte).getD 1 0).toNat
    (upTo 256).map code = upTo 256 ∧ 0x85 ∉ [0x84, 0xE1, 0xE3, 0x81, 0x82, 0x83, 0xE0] ∧
      (([0x12, 0xE0, 1] : List Byte).getD 2 0).toNat % 2 = 1 ∧ (([0x12, 0xE0, 0] : List Byte).getD 2 0).toNat % 2 ≠ 1 := by
  decide +kernel

/-- Tiles, codebooks and scale tables out of reach, outside the sets of a DET task, and through a number of the other half. -/
theorem witness_TileLoads_traps :
    let s := withTid 0 0 0x400 base
    let far := setA 2 0xFFFF00 s
    let d := det s
    isSome (s.tidEntry 0) (fun e => e.fmt != 7 && (far.resolve far.cur (ea (far.aReg 0 2) (far.me.simm 3 8 0) 256) (tileBytes e) 1).isNone &&
      (d.resolve d.cur (ea (d.aReg 0 0) (d.me.simm 3 8 0) 256) (tileBytes e) 1).isSome && !d.inSets d.cur 3 false 0 (tileBytes e)) = true ∧
      s.tidEntry 32 = none ∧ s.physTid 32 = none ∧ far.resolve far.cur 0xFFFF00 32 32 = none ∧
      far.resolve far.cur 0xFFFF00 64 64 = none ∧ d.resolve d.cur 0 32 32 = some wellBase ∧ d.inSets d.cur 3 false 0 32 = false ∧
      d.physTid 0 ≠ none ∧ d.resolve d.cur 0 64 64 = some wellBase ∧ d.inSets d.cur 3 false 0 64 = false := by decide +kernel

/-- A bag that each check of R315 turns away in turn: its number, its entry, its size, an empty slot, a slot of another format, its
report; a report of an open bag out of reach and outside the sets. -/
theorem witness_Bags_traps :
    let s := pair 0 0x8000 slotted
    let good := fun (s : State) (x0 x1 : Nat) (p : TidEntry → Bag → Bool) =>
      s.me.a.bag.isNone && !bagFieldsBad x0 x1 (s.me.simm 3 14 0) && isSome (s.tidEntry (bits x0 56 6)) fun ent =>
        p ent (bagOf s x0 x1 (s.me.simm 3 14 0) ent 0)
    let fits := fun (s : State) (ent : TidEntry) => isSome s.me.a.slotTid fun k =>
      ({ img := k.2 : TidEntry }).fmt == ent.fmt && ({ img := k.2 : TidEntry }).bs == ent.bs
    let d := det s
    let o := opened 0
    bagFieldsBad (32 * 2 ^ 56) 0x8000 (s.me.simm 3 14 0) = false ∧ s.tidEntry (bits (32 * 2 ^ 56) 56 6) = none ∧
      good s (3 * 2 ^ 56) 0x8000 (fun ent _ => ent.fmt == 7) = true ∧
      good s 1023 0x8000 (fun ent b => ent.fmt != 7 && 16384 < b.count * b.w) = true ∧
      good (withTid 0 0 0x400 base) 0 0x8000 (fun ent b => ent.fmt != 7 && b.count * b.w ≤ 16384 && b.mode != 2 &&
        (withTid 0 0 0x400 base).me.a.slotTid.isNone) = true ∧
      good (withTid 1 1 0x400 slotted) (2 ^ 56) 0x8000 (fun ent b => ent.fmt != 7 && b.count * b.w ≤ 16384 && b.mode != 2 &&
        !fits (withTid 1 1 0x400 slotted) ent && (withTid 1 1 0x400 slotted).me.a.slotTid.isSome) = true ∧
      good s 0 0xFFFF00 (fun ent b => ent.fmt != 7 && b.count * b.w ≤ 16384 && fits s ent &&
        (s.resolve s.cur 0xFFFF00 (reportBytes b) 8).isNone) = true ∧
      good d 0 0x8000 (fun ent b => ent.fmt != 7 && fits d ent && (d.resolve d.cur 0x8000 (reportBytes b) 8).isSome &&
        !d.inSets d.cur 3 true 0x8000 (reportBytes b)) = true ∧
      good s (16383 * 2 ^ 11) 0x8000 (fun ent b => ent.fmt != 7 && fits s ent && (s.resolve s.cur 0x8000 (reportBytes b) 8).isSome &&
        b.mode != 1 && !isOk (claimRange s b.base (b.count * b.w) 0) fun _ => true) = true ∧
      o.me.a.bag.isSome ∧ o.resolve o.cur 0xFFFF00 16 8 = none ∧ (det o).resolve o.cur 0 16 8 = some wellBase ∧
      (det o).inSets o.cur 3 true 0 16 = false := by decide +kernel

/-- A range past the sump, one owned, eight owned, one met, one new. -/
theorem witness_RangeChecks :
    let r : SumpRange := { first := 0, len := 32, e := 0 }
    let s := base.updArch fun x => { x with ranges := [r] }
    let full := base.updArch fun x => { x with ranges := List.replicate 8 r }
    let same := fun (first len : Nat) (q : SumpRange) => q.first == first && q.len == len
    16384 < 16383 + 2 ∧ s.me.a.ranges.find? (same 0 32) = some r ∧ s.me.a.ranges.find? (same 16 32) = none ∧
      full.me.a.ranges.find? (same 64 32) = none ∧ 8 ≤ full.me.a.ranges.length ∧ s.me.a.ranges.length < 8 ∧
      (s.me.a.ranges ++ (s.ctx (otherCtx s.cur)).a.ranges ++ (s.ctx (otherCtx s.cur)).releasing) = [r] ∧
      (r.first < 16 + 32 ∧ 16 < r.first + r.len) ∧ ¬ (r.first < 64 + 32 ∧ 64 < r.first + r.len) := by decide +kernel

/-- Rows that a pump has fetched, ready in each mode, with sump entries in their form. -/
theorem witness_PumpRows :
    let arrived := fun (mode : Nat) => ev .pumpFetchReturn (ev .pumpFeedBegin (release (does (.bagPump 0 4 0)
      (pair (2 * 2 ^ 48 + 5 * 2 ^ 42) 0 (withTid 5 0 0x400 (begun mode))))))
    let ready := fun (mode : Nat) => isSome (arrived mode).me.bagRun fun b => b.bag.mode == mode && isSome b.feeds[0]? fun f =>
      f.f.pump && isSome (b.entry 0 0) fun r => isSome ((b.keys[r.key]?).bind KeyRec.data) fun l => !l.isEmpty &&
        (arrived mode).rowReady 0 0 0 && ((arrived mode).tile 0).badSump.isEmpty && ((arrived mode).tile 0).sump.isEmpty
    ready 0 = true ∧ ready 1 = true ∧ ready 2 = true ∧ sumpOk [] := by
  unfold sumpOk
  refine ⟨by decide +kernel, by decide +kernel, by decide +kernel, .nil, fun e h => nomatch h⟩

/-! ### Cases of the third reading -/

/-- A DET task whose sets hold one row for reads and one for writes. -/
def sets (s : State) : State := (det s).updMe fun x => { x with setsNow := [
  { path := 0, wr := false, first := 0x20, len := 2 }, { path := 0, wr := true, first := 0x24, len := 2 }] }

/-- A context that an `xf` from core to core holds back: an earlier atomic of it is on its way. -/
def fenced (s : State) : State :=
  (s.updCis 0 fun k => { k with atoms := [{ id := 0, c := 0, seq := 0, kind := .add, place := wellBase, size := 8, y := 0, z := 0, lsa := 0 }] }).updArch
    fun x => { x with marks := [{ pa := 0, pb := 0, seq := 1 }] }

/-- Accesses inside the sets and outside them, for loads, stores, rows and lanes. -/
theorem witness_CoreSets :
    let s := sets (setA 2 0x1000 base)
    let w := sets (setA 2 (0x1000 + 3 * 2 ^ 24) base)
    let q := (sets base).updArch fun x => { x with
      qs := vput x.qs 3 { base := 0x2000, sz := 2, role := 1, wflag := 1, peer := 0, pflag := 2, nsl := 4, held := 1 } }
    On s 0 ∧ s.isDet s.cur = true ∧ 0 < 8 ∧ coreReady s = true ∧ s.inSets s.cur 0 false (loadLsa s 2 0 0 8) 8 = true ∧
      (s.resolve s.cur (loadLsa s 2 0 32 8) 8 8).isSome ∧ s.inSets s.cur 0 false (loadLsa s 2 0 32 8) 8 = false ∧
      (s.resolve s.cur (storeLsa s 2 0 0 8) 8 8).isSome ∧ s.inSets s.cur 0 true (storeLsa s 2 0 0 8) 8 = false ∧
      (s.resolve s.cur (vecLsa s 2 0 2) 256 256).isSome ∧ s.inSets s.cur 0 true (vecLsa s 2 0 0) 256 = false ∧
      s.inSets s.cur 0 true (vecLsa s 2 0 2) 256 = true ∧ s.inSets s.cur 0 false (vecLsa s 2 0 1) 256 = false ∧
      s.inSets s.cur 0 false (vecLsa s 2 0 1) 1 = false ∧ esWidth (w.aReg 0 2) = 64 ∧
      (idxLanes w 2 0 0 4).all (fun l => (w.resolve w.cur l.2 8 8).isSome) = true ∧
      ((idxLanes w 2 0 0 4).find? fun l => !w.inSets w.cur 0 true l.2 8).isSome ∧
      (idxLanes w 2 0 0 4).all (fun l => w.inSets w.cur 0 false l.2 8) = true ∧
      ((idxLanes (setV 4 (2 ^ 40) w) 2 0 0 4).find? fun l => !(setV 4 (2 ^ 40) w).inSets w.cur 0 false l.2 8).isSome = false ∧
      ((idxLanes (setV 4 0x100 w) 2 0 0 4).find? fun l => !(setV 4 0x100 w).inSets w.cur 0 false l.2 8).isSome ∧
      ((idxLanes (setV 4 0x20000 w) 2 0 0 4).find? fun l => ((setV 4 0x20000 w).resolve w.cur l.2 8 8).isNone).isSome ∧
      slotOk (q.handle 3) 1 0 0 = true ∧ q.me.canAcquire 3 1 = true ∧
      (q.resolve q.cur ((q.handle 3).slotLsa 0 + 0 * queueBytes 1) (queueBytes 1) (queueBytes 1)).isSome ∧
      q.inSets q.cur 0 true ((q.handle 3).slotLsa 0 + 0 * queueBytes 1) (queueBytes 1) = false ∧
      q.inSets q.cur 0 false ((q.handle 3).slotLsa 0 + 0 * queueBytes 1) (queueBytes 1) = false := by decide +kernel

/-- Core accesses that wait for what an `xf` names; queue forms that wait, that fail their checks, and whose slot or peer is out of
reach. -/
theorem witness_QueueChecks :
    let bound := fun (r b peer : Nat) => base.updArch fun x => { x with
      qs := vput x.qs 3 { base := b, sz := 2, role := r, wflag := 1, peer := peer, pflag := 2, nsl := 4 } }
    let p := bound 1 0x1000 0
    let out := (bound 1 0xFFFF00 0).updMe fun x => { x with flags := vput x.flags 1 4 }
    let lone := (bound 1 0x1000 9).updMe fun x => { x with flags := vput x.flags 1 4 }
    On base 0 ∧ coreReady (fenced base) = false ∧ coreReady base = true ∧ slotOk (p.handle 3) 1 0 0 = true ∧ p.me.canAcquire 3 1 = false ∧ advOk (p.handle 3) 1 1 = true ∧
      advOk (p.handle 3) 2 1 = false ∧ advOk ((bound 2 0x1000 0).handle 3) 1 1 = false ∧ statOk (p.handle 3) 5 = false ∧
      statOk (p.handle 3) 4 = true ∧ p.me.canAcquire 3 4 = false ∧ slotOk (out.handle 3) 1 0 0 = true ∧ out.me.canAcquire 3 1 = true ∧
      out.resolve out.cur ((out.handle 3).slotLsa 0 + 0 * queueBytes 1) (queueBytes 1) (queueBytes 1) = none ∧
      lone.me.canAcquire 3 1 = true ∧ (match postTarget lone (lone.handle 3).peer with | .ok _ => false | .error _ => true) = true ∧
      newBinding base 0 0 = none := by decide +kernel

/-- Contexts with a save area and without, of a step and of none; the only context of its step, and one of two; traps of kind C. -/
theorem witness_CommitTraps_cases :
    let gone : State := { base with steps := [] }
    let pair := base.updStep 1 0 fun k => { k with ctxs := [(0, 0), (1, 1)] }
    0x0B ≤ 0x0C ∧ 0x0C ≤ 0x0D ∧ base.areaOf base.cur = some benchArea ∧ gone.areaOf gone.cur = none ∧ gone.stepOf gone.cur = none ∧
      isSome (base.stepOf base.cur) (fun k => k.nums.all fun d => (k.exited ++ [base.cur]).contains d) = true ∧
      isSome (pair.stepOf pair.cur) (fun k => !(k.nums.all fun d => (k.exited ++ [pair.cur]).contains d)) = true ∧
      gone.me.bagAtIssue = none ∧ On gone 0 ∧ On pair 0 := by decide +kernel

/-- A gate with a store, a spill, two posts to different flags and a stage effect, before which nothing was posted since the last mark;
one with two posts to one flag. -/
theorem witness_MarkCommits :
    let g : List GateEff := [.store [(wellBase, 1)] 0 [], .spill [(0, 2)], .post 0 3 1 0 1 [], .post 0 4 1 1 2 [], .stage false 1 3 []]
    let s := base.updMe fun x => { x with gate := g, opSeq := 4 }
    let twice := base.updMe fun x => { x with gate := [.post 0 3 1 1 1 [], .post 0 3 2 1 2 []], opSeq := 3 }
    (∀ p ∈ s.posts, ∀ k, p.seq = some k → k < s.me.markSeq) ∧
      (g.filterMap (releasedPost s.cur s.me.opSeq)).Pairwise (fun p q => ¬ (p.c = q.c ∧ p.f = q.f)) ∧
      (s.mark s.cur 16).posts = g.filterMap (releasedPost s.cur s.me.opSeq) ∧
      (s.mark s.cur 16).stageQ = g.filterMap (releasedStage s) ∧
      postedCounts (twice.mark twice.cur 16).posts 0 3 = 3 := by decide +kernel

/-- A gather whose index list waits for what an `xf` to core names; a cancelled command whose read met an error, one already offered. -/
theorem witness_SiphonForm_waits :
    let ix : Word := BitVec.ofNat 64 (2 * 2 ^ 40 + 2 * 2 ^ 37 + 1 * 2 ^ 24 + 0x3000)
    let s := fenced (sphRegs 0x2000 0x1000 64 ix)
    let err := fun (o : Bool) => filling.updMe fun x => { x with records := x.records.map fun r => { r with errFirst := some 3, offered := o } }
    On s 0 ∧ s.me.draft = none ∧ coreReady s = false ∧
      isSome (draftRows s 1 false 5 4 6 0) (fun d => d.list.isSome && (d.badSide s).isNone) = true ∧
      nextIs (exec (.sphGth 0 4 5 6 0) s) (fun t => t.me.stall == 1 && t.me.cSph == 0) = true ∧
      isSome (err false).me.records.head? (fun r => r.st == .committed && r.restartable && !(err false).sphComplete 0 r &&
        (cancelRecord (err false) 0 r).isSome) = true ∧
      isSome (err true).me.records.head? (fun r => (cancelRecord (err true) 0 r).isNone) = true := by decide +kernel

/-- A command whose reads have met an error, its bytes not all performed and all performed; one complete and one whose record has been
refused; one already checked. -/
theorem witness_DueCheck_cases :
    let x := fun (f : SphCmd → SphCmd) => ({ filling.me with records := filling.me.records.map fun r => { f r with errFirst := some 3 } } : Ctx)
    let waits := fun (n : Nat) => { filling with records := [{ engine := 1, bytes := [], c := some 0, cmd := some 0, tries := n }] }
    let found := fun (x : Ctx) (p : SphCmd → Bool) =>
      isSome (x.records.find? fun q => q.idx == 0 && q.st == .committed && q.errFirst.isSome) p
    (x id).cond ≠ .absent ∧ found (x id) (fun r => !r.moved && !r.checked) = true ∧
      found (x fun r => { r with left := 0, done := r.stream }) (fun r => r.moved && !r.checked) = true ∧
      found (x fun r => { r with checked := true }) (fun r => r.checked) = true ∧
      found (x fun r => { r with left := 0, done := r.stream }) (fun r => filling.sphComplete 0 r && (waits 0).sphComplete 0 r) = true ∧
      found (x fun r => { r with left := 0, done := r.stream, offered := true, recs := 1 }) (fun r => r.moved && !(waits 1).sphComplete 0 r) = true := by
  decide +kernel

/-- What a fence names outstanding on each path and not; contexts of a gang at a barrier. -/
theorem witness_PathsDone :
    let st := base.updMe fun x => { x with woq := [{ cells := [(wellBase, 1)], seq := 0, fences := [] }], markSeq := 1 }
    let po : State := { base with posts := [{ src := some (0, 0, []), c := 0, f := 3, n := 1, seq := some 0 }] }
    let sq : State := { base with stageQ := [{ gi := 0, seq := 0, task := 1, step := 0, kind := .adv, n := 1, waits := [] }] }
    st.pathDone 0 0 1 = false ∧ st.pathDone 0 0 0 = true ∧ po.pathDone 0 0 1 = false ∧ sq.pathDone 0 4 1 = false ∧
      base.pathDone 0 4 1 = true ∧ filling.pathDone 0 1 1 = false ∧ (fenced base).pathDone 0 0 1 = false ∧
      (base.stepOf base.cur).isSome ∧ base.me.gate = [] ∧ base.me.phaseTop ≤ base.me.a.phases ∧ phaseReady base = true ∧
      phaseReady st = false ∧ phaseReady (po.updMe fun x => { x with markSeq := 1 }) = false ∧
      phaseReady (sq.updMe fun x => { x with markSeq := 1 }) = false := by decide +kernel

/-- A bundle whose header has these fields; one whose slots are these. -/
def headed (d sy fn cnt : Nat) : Bundle := (.header d 0 0 sy fn cnt 0 0, .nopM 0, .nopV 0, .nopX 0)

/-- The turn ends before acceptance, with this condition, stall count, record and detail. -/
def ends (r : Except State State) (t : State) : Bool :=
  match r with
  | .error u => u.me.cond == t.me.cond && u.me.stall == t.me.stall && u.me.overlap == t.me.overlap && u.me.conflict == t.me.conflict &&
      u.records == t.records && u.me.pc == t.me.pc
  | .ok _ => false

/-- A drain point with writes pending, of which the hazard names the one due first in the file of the lowest code; one that waits for the
queues, for a drain, for an operation of the engine; with a deferred trap, a parked step, a pre-emption asked for. -/
theorem witness_DrainPoints :
    let b := headed 1 0 0 0
    let p := fun (f : RFile) (r n : Nat) => ({ file := f, reg := r, val := .word 0, left := n, slot := 0, seq := 0, pc := 0 } : Pend)
    let wr := base.updArch fun x => { x with pend := [p .a 3 2, p .v 9 1, p .s 7 2, p .v 4 1] }
    let st := base.updMe fun x => { x with woq := [{ cells := [(wellBase, 1)], seq := 0, fences := [] }] }
    let op : ArrOp := { kind := .close, seq := 0, pc := 0, fences := [] }
    let mx := base.updMe fun x => { x with mx := [op] }
    let due : DefTrap := { cause := 7, pc := 0, slot := some 3, exc := 1, detail := 1, watch := [] }
    let df := base.updMe fun x => { x with deferred := [due] }
    let held := base.updStep 1 0 fun k => { k with parkedBy := [1] }
    let pre := base.updMe fun x => { x with preempt := true }
    drainPoint b = true ∧ drainPoint (headed 0 0 0 0) = false ∧ drainPoint (.sysc 0 3, .nopM 0, .nopV 0, .nopX 0) = true ∧
      ends (drainWait b wr) (takeTrap { cause := 8, pc := 0, detail := 4 + 2 * 2 ^ 8 + 4 * 2 ^ 16 } wr) = true ∧
      ends (drainWait b st) st.stallNow = true ∧ ends (drainWait b mx) mx.stallNow = true ∧ st.me.a.pend = [] ∧ base.drained = true ∧
      df.me.deferred = [due] ∧ df.drained = true ∧ isSome (held.stepOf held.cur) (fun k => !k.parkedBy.isEmpty) = true ∧
      held.drained = true ∧ pre.me.preempt = true ∧ pre.me.gate = [] ∧ pre.me.hold = [] ∧ pre.me.a.bag = none ∧ pre.me.a.ranges = [] ∧
      pre.follower = false ∧ base.me.preempt = false := by decide +kernel

/-- A header's wait that holds, one that passes, a header that asks for none; a slot that stalls and one that does not. -/
theorem witness_HeaderWaits :
    let s := base.updMe fun x => { x with flags := vput x.flags 9 3 }
    (hdrOf (headed 0 1 9 3)).sy % 2 = 1 ∧ (vget s.me.flags 9).toNat < 3 + 1 ∧ 2 + 1 ≤ (vget s.me.flags 9).toNat ∧
      (hdrOf (headed 0 2 9 3)).sy % 2 = 0 ∧ ends (headerWait (headed 0 1 9 3) s) s.stallNow = true ∧
      isOk (headerWait (headed 0 1 9 2) s) (fun _ => true) = true ∧
      (match runSlot (.waitcImm 0 0 0) ((base.updMe fun x => { x with cSph := 1 }).landedView {}) with
        | .next t => t.me.stall == 1
        | _ => false) = true ∧
      (match runSlot (.waitcImm 0 0 0) (base.landedView {}) with
        | .next t => t.me.stall == 0
        | _ => false) = true := by decide +kernel

/-- A gate and an array hold with room for one more entry and without; a slot that faults before one that does not. -/
theorem witness_RoomChecks :
    let b := fun (sy : Nat) => ((.header 0 0 0 sy 0 0 0 0, .sd 0 1 2 0 0 0, .nopV 0, .nopX 0) : Bundle)
    let full := fun (n : Nat) => base.updMe fun x => { x with gate := List.replicate n (.spill []) }
    let op : ArrOp := { kind := .close, seq := 0, pc := 0, fences := [] }
    let hold := fun (n : Nat) => base.updMe fun x => { x with hold := List.replicate n op }
    let c : Bundle := (.nopS 0, .nopM 0, .nopV 0, .bagClose 0)
    let bad : Bundle := (.add 0 2 2 5 0, .ld 0 1 3 2 0 1, .nopV 0, .nopX 0)
    let s := setA 2 1 base
    ends (roomCheck (b 2) (full 31)) (takeTrap { cause := 2, pc := 0, detail := 0 } (full 31)) = true ∧
      isOk (roomCheck (b 0) (full 31)) (fun _ => true) = true ∧ isOk (roomCheck (b 2) (full 30)) (fun _ => true) = true ∧
      ends (roomCheck (b 0) (full 32)) (takeTrap { cause := 2, pc := 0, detail := 0 } (full 32)) = true ∧
      ends (roomCheck c (hold 16)) (takeTrap { cause := 2, pc := 0, detail := 1 } (hold 16)) = true ∧
      isOk (roomCheck c (hold 15)) (fun _ => true) = true ∧
      slotsOf bad = [.add 0 2 2 5 0] ++ .ld 0 1 3 2 0 1 :: [.nopV 0, .nopX 0] ∧
      (match runSlot (.ld 0 1 3 2 0 1) (s.landedView {}) with
        | .next t => t.me.cond == .parked && ends (faultCheck bad s) t
        | _ => false) = true ∧
      (match runSlot (.add 0 2 2 5 0) (s.landedView {}) with
        | .next t => t.me.cond != .parked
        | _ => false) = true ∧ isOk (faultCheck (b 0) base) (fun _ => true) = true := by decide +kernel

/-- Two contexts of a tile: elder by step, by priority, by number; a clash of slot positions and none; a count at its bound. -/
theorem witness_MergeIssue :
    let two := base.updCtx 1 fun x => { x with cond := .running, task := 1, step := 1, overlap := 64 }
    let young : State := { two with cur := 1 }
    let second := young.updTile 0 fun t => { t with second := some 1, used := 1 }
    let b : Bundle := (.add 0 2 2 5 0, .nopM 0, .nopV 0, .nopX 0)
    let m : Bundle := (.nopS 0, .sd 0 1 2 0 0 0, .nopV 0, .nopX 0)
    let prio := (task { num := 2, opb := benchOpb.set 40 9, rev := 1, parent := 0, kind := .launched } base).updCtx 1 fun x => { x with
      cond := .running, task := 2 }
    two.lockOn 0 = two.lockOn 1 ∧ (two.ctx 0).task = (two.ctx 1).task ∧ (two.ctx 0).step < (two.ctx 1).step ∧
      two.older 0 1 = true ∧ (prio.ctx 0).task ≠ (prio.ctx 1).task ∧
      second.servedSecond second.cur = true ∧ two.servedSecond two.cur = false ∧ young.junior 1 = true ∧ two.junior 0 = false ∧
      ends (mergeWait b second) (second.stallNow.updMe fun x => { x with overlap := 65, yielded := false }) = true ∧
      isOk (mergeWait m second) (fun t => t.me.stall == 0) = true ∧
      two.mustYield 0 = true ∧ two.killDue 0 = false ∧ two.me.cond = .running ∧
      (let v := (two.openTurn two.cur).fetchSecond (otherCtx two.cur)
       v.follower = false ∧ v.me.yieldHold = false ∧ v.mustYield v.cur = true) := by decide +kernel

/-- A gather whose lanes meet in one bank, one whose lanes do not; a bundle behind a conflict of the other context. -/
theorem witness_BankConflicts :
    let s := setA 2 (0x1000 + 3 * 2 ^ 24) base
    let far := setV 4 (packVec 64 [0, 256, 512]) s
    let b : Bundle := (.nopS 0, .vldx 0 0 5 2 0 0 4, .nopV 0, .nopX 0)
    let v := far.landedView (hdrOf b)
    let two := base.updCtx 1 fun x => { x with cond := .running, task := 1, step := 1, conflict := some 2 }
    let mine := far.updMe fun x => { x with conflict := some 1 }
    isOk (idxPlaces v false (esWidth (v.aReg 0 2)) (idxLanes v 2 0 0 4)) (fun ps => conflictOf (ps.map Prod.snd) == 2) = true ∧
      v.me.a.rP 0 = true ∧ esWidth (v.aReg 0 2) ≠ 8 ∧ conflictAhead b far = 2 ∧ conflictAhead b s = 0 ∧ far.me.conflict = none ∧
      (far.ctx (otherCtx far.cur)).cond ≠ .running ∧ Instr.slot (.vldx 0 0 5 2 0 0 4) = some 1 ∧
      (two.ctx (otherCtx two.cur)).conflict = some 2 ∧ 1 < 2 ∧ ends (bankWait b two) two.stallNow = true ∧ mine.me.conflict = some 1 ∧
      ends (bankWait b far) (far.stallNow.updMe fun x => { x with conflict := some 2 }) = true ∧
      isOk (bankWait b mine) (fun t => t.me.stall == 0) = true := by decide +kernel

/-- A stage effect that is ready, one of a parked step, one that waits for a store, one that waits for an access an `xf` names. -/
theorem witness_EffectsWait :
    let e : StageEff := { gi := 0, seq := 0, task := 1, step := 0, kind := .adv, n := 1, waits := [(0, 1)], fences := [(0, ⟨1, 1⟩)] }
    let s : State := { base with stageQ := [e] }
    let parked := s.updStep 1 0 fun k => { k with parkedBy := [1] }
    let st := s.updMe fun x => { x with woq := [{ cells := [(wellBase, 1)], seq := 0, fences := [] }] }
    let sph : State := { filling with stageQ := [{ e with waits := [] }] }
    s.readyEffects 1 0 = [e] ∧ parked.readyEffects 1 0 = [] ∧ st.opsDone 0 1 = false ∧ st.readyEffects 1 0 = [] ∧
      sph.readyEffects 1 0 = [] ∧ base.findStep 1 7 = none := by decide +kernel

/-- A step that may retire by its exit, one by its kill, one with a store left, one with a post left. -/
theorem witness_StepsRetire :
    let may := fun (s : State) => isSome (s.findStep 1 0) fun k => s.mayRetire k
    let killed := (base.updStep 1 0 fun k => { k with killed := true }).updMe fun x => { x with cond := .absent }
    let st := exited.updMe fun x => { x with woq := [{ cells := [(wellBase, 1)], seq := 0, fences := [] }] }
    let po : State := { exited with posts := [{ src := none, c := 0, f := 3, n := 1 }] }
    may exited = true ∧ may killed = true ∧ may st = false ∧ may po = false := by decide +kernel

/-- A task with a step to start, with a saved one, held back by its window, by a dependence; whose steps have all started. -/
theorem witness_NextStep :
    let next := fun (s : State) => (s.findTask 1).bind fun t => s.nextStep t
    let idle : State := base.updTask 1 fun t => { t with started := 0 }
    let wide := (setOpb 48 2 idle).updTask 1 fun t => { t with started := 1 }
    let dep : State := setOpb 36 7 (task { num := 7, opb := benchOpb, rev := 1, parent := 0, kind := .launched } idle)
    next idle = some (none, 0) ∧ isSome (next (savedStep 1)) (fun n => n.1.isSome) = true ∧ next base = none ∧
      isSome (wide.findTask 1) (fun t => 0 < opbW t.opb) = true ∧ isSome (dep.findTask 1) (fun t => t.st == .live) = true := by
  decide +kernel

/-- Where a step goes: on a tile that is free, past one that another step fills; nowhere when tiles, or the route counters, are held; two
tasks to choose from. -/
theorem witness_Places :
    let t : Task := { num := 2, opb := benchOpb, rev := 1, parent := 1, kind := .launched }
    let two := task { t with boost := 3 } fresh
    (fresh.tileSpot t 0 0 = some 0 ∧ base.tileSpot t 0 0 = some 16 ∧ crowded.tileSpot t 0 1 = none ∧ crowded.tileSpot t 0 2 = some 0) ∧
      isSome (crowded.spot t) (fun p => p.1 == 0 && p.2.all fun m => m.tile == 2) = true ∧
      crowded.waiting.length = 1 ∧ isSome (crowded.tasks.getLast?) (fun w => (crowded.cisSpot w 0).isNone && (crowded.spot w).isNone) =
        true ∧
      isSome two.choice (fun ch => ch.task.num == 2) = true ∧ isSome fresh.choice (fun ch => ch.task.num == 1) = true ∧
      (two.updTask 2 fun u => { u with boost := 0 }).choice.map (fun ch => ch.task.num) = some 1 ∧ base.choice = none := by
  decide +kernel

/-- A victim for the waiting task, and none once every step of lower priority has been asked or spared. -/
theorem witness_Victims :
    let spared : State := { crowded with steps := crowded.steps.map fun k => { k with spared := true } }
    isSome (firstOf crowded.waiting) (fun w => isSome (crowded.firstVictim w) (fun k => k.step == 24) &&
      (spared.firstVictim w).isNone) = true ∧ firstOf [] = none := by decide +kernel

/-- A gang that may be saved, whose pieces lie apart from each other and from its well; what keeps it from being saved. -/
theorem witness_SavedBytes :
    let s := (holed 16 base).updStep 1 0 (fun k => { k with asked := some 2 }) |>.updMe fun x => { x with cond := .stopped }
    let fields := { s.me with cSph := 0, cByte := 0 }.imageFields 0 0 []
    let may := fun (s : State) => isSome (s.findStep 1 0) fun k => s.maySave k
    let tile := 0x4110000
    Memory.wf s.mem = true ∧ s.badMem = [] ∧ may s = true ∧ s.me.savedCmds = [] ∧
      isSome (s.findStep 1 0) (fun k => isSome (takeImages k.imageLens s) (fun r => r.1.map (·.2) == [0x4000000, tile]) &&
        k.members.map (fun m => (wellPlace (8 * k.cis + m.tile) (65536 * m.base), 65536 * m.size)) == [(wellBase, 0x100000)] &&
        k.members.zipIdx.all fun m => tileImageSize (s.tidImageOf k m).2 ((onTile k.ctxs (8 * k.cis + m.1.tile)).map s.ctx) ≤
          Config.tileImageRoom) = true ∧
      Apart [(benchArea, Config.saveArea), (0x4000000, 0x100000), (tile, Config.tileImageRoom), (wellBase, 0x100000)] ∧
      (fieldCells benchArea fields).all (fun c => benchArea ≤ c.1 && c.1 < benchArea + Config.saveArea) = true ∧
      may (s.updMe fun x => { x with cond := .running }) = false ∧
      may ({ s with posts := [{ src := none, c := 0, f := 3, n := 1 }] } : State) = false := by
  unfold Apart
  decide +kernel

/-! ### Engines, rows and tables, once more -/

/-- The granules of some places, uncorrectable. -/
def spoil (l : List Nat) (s : State) : State := { s with badMem := l.map granule }

/-- Codebook, scale table and tile at the head of the engine, with an uncorrectable byte; a drain of which an entry is uncorrectable. -/
theorem witness_EngineOperations_bad :
    let book := spoil [wellBase] (release (does (.mcb 0 0 0 0) (withTid 0 0 0x400 base)))
    let scale := spoil [wellBase] (release (does (.msc 0 0 0) base))
    let tile := ev .arrayOpStart (release slotted)
    let at' := fun (s : State) => isSome s.me.mx.head? fun o => match o.kind with
      | .mld _ _ p k => o.begun && (spoil [p] s).badIn p k
      | .mcb _ _ p => s.mayBegin 0 o && s.badIn p 32
      | .msc p => s.mayBegin 0 o && s.badIn p 64
      | _ => false
    let bad := (draining 2).updTile 0 fun t => { t with badSump := [0] }
    let rep := release (does (.bagRep 0 2 0) (begun 0))
    at' book = true ∧ at' scale = true ∧ at' tile = true ∧
      isSome bad.me.drainOp (fun o => 0 < o.2.group && (bad.tile 0).badSump.contains (o.2.first + o.2.next * o.2.group + 0)) = true ∧
      head rep (fun o => rep.mayBegin 0 o && rep.me.bagRun.isSome && match o.kind with | .rep _ => true | _ => false) = true := by
  decide +kernel

/-- Feeds that begin: rows of a well, of a queue, with an uncorrectable tag list, and a pump's indices. -/
theorem witness_FeedBegins :
    let rows := release (does (.bagRows 0 4 0 0 0) (pair (2 * 2 ^ 48 + 0x400 * 2 ^ 24) 0 (begun 0)))
    let ready := fun (s : State) (p : Feed → Bool) => head s fun o => s.mayBegin 0 o && s.me.bagRun.isSome && match o.kind with
      | .feed f => p f
      | _ => false
    let q := release (does (.bagRows 0 4 0 1 3) (pair (2 * 2 ^ 48 + 1 * 2 ^ 40 + 0x400 * 2 ^ 24) 0
      (((begun 0).updArch fun x => { x with
        qs := vput x.qs 3 { base := 0x1000, sz := 7, role := 2, wflag := 1, peer := 0, pflag := 2, nsl := 4 } }).updMe fun x =>
          { x with flags := vput x.flags 1 4 })))
    ready rows (fun f => !f.pump && f.n == 2) = true ∧ ready q (fun f => f.q == some 3) = true ∧ ready pumped (fun f => f.pump) = true ∧
      ready rows (fun f => let bad := spoil [f.tags] rows
        !f.pump && bad.mayBegin 0 rows.me.mx.head! && isSome bad.me.bagRun fun b => (entryAt bad b f b.keys 0).2.fate == .faulted 6) = true := by
  decide +kernel

/-- A pump feed of two 32-bit indices from a table in the DIRECT mode with 16 rows. -/
def feed0 (pump : Bool) : Feed := { (default : Feed) with
  pump := pump, n := 2, tid := 5, ent := { img := BitVec.ofNat 256 (16 * 2 ^ 104 + 8 * 2 ^ 84) } }

/-- Entries of each fate: uncorrectable, past COUNT, the last index, out of the table, of a known key in each of its states, new, and
new beyond the last key. -/
theorem witness_EntryChecks :
    let b : Bag := { (default : Bag) with count := 4 }
    let f := feed0 true
    let k := fun (i : Nat) (st : Fate) => ({ tid := 5, ent := f.ent, idx := i, feed := 0, pos := 0, st := st } : KeyRec)
    let fate := fun (keys : List KeyRec) (tag idx : Nat) (bad : Bool) => (checkEntry b f 0 keys 0 tag 0 idx bad).2.fate
    inTable b f 1 3 false ∧ ¬ inTable b f 4 3 false ∧ ¬ inTable b f 1 (2 ^ 32 - 1) false ∧ inTable b (feed0 false) 1 3 false ∧
      inTable b f 1 16 false ∧ fate [] 1 3 true = .faulted 6 ∧ fate [] 4 3 false = .dropped ∧ fate [] 1 (2 ^ 32 - 1) false = .dropped ∧
      fate [] 1 16 false = .dropped ∧ fate [] 1 15 false = .fetching ∧ fate [k 2 .arrived, k 3 .arrived] 1 3 false = .fetching ∧
      fate [k 3 (.faulted 1)] 1 3 false = .faulted 1 ∧ fate [k 3 .parked] 1 3 false = .parked ∧
      (checkEntry b (feed0 false) 0 [] 0 1 0 0 false).2.fate = .pending := by
  unfold inTable
  decide +kernel

/-- A list of keys that has no room left and holds none of the key that is looked for. -/
theorem witness_EntryChecks_full :
    let l := List.replicate 4096 ({ tid := 5, ent := (feed0 true).ent, idx := 2, feed := 0, pos := 0 } : KeyRec)
    4096 ≤ l.length ∧ ∀ j ∈ l, ¬ (j.tid = (feed0 true).tid ∧ j.idx = 3) := by
  refine ⟨by simp, fun j h => ?_⟩
  rw [(List.mem_replicate.mp h).2]
  exact fun e => absurd e.2 (by decide)

/-- A bag with a feed begun, one with none, and none; a bag with a fault listed, of each mode; what rows settle as. -/
theorem witness_RowProgress :
    let none' := begun 0
    let e := fun (n : Nat) (f : Fate) => ({ pos := n, tag := 0, wgt := 0, idx := n, fate := f } : RowEnt)
    let feed : FeedRun := { f := feed0 true, seq := 0, pc := 0, fences := [], rows := [e 0 .dropped, e 1 (.faulted 6)] }
    isSome (fed 0).me.bagRun (fun b => b.feeds.length == 1) = true ∧ isSome none'.me.bagRun (fun b => b.feeds.isEmpty) = true ∧
      base.me.bagRun = none ∧ (feed.rows.Pairwise fun x y => x.pos < y.pos) ∧
      (let b : RunBag := { bag := default, feeds := [feed] }
       b.faults = [(1, 0, 6, 1)] ∧ b.faults[0]? = some (1, 0, 6, 1) ∧ b.faults.length ≤ 1) ∧
      isSome (fed 1).me.bagRun (fun b => b.bag.mode == 1) = true ∧
      isSome (fed 0).me.bagRun (fun b => b.bag.mode == 0 && 0 < b.bag.count * b.bag.w) = true := by decide +kernel

/-- Table rows in each mode, one and two. -/
theorem witness_TableFetch :
    let k := fun (m : Nat) => ({ tid := 5, ent := { img := BitVec.ofNat 256 (m * 2 ^ 58 + 16 * 2 ^ 104 + 8 * 2 ^ 84 + 3 * 2 ^ 232) },
                                 idx := 7, feed := 0, pos := 0 } : KeyRec)
    let walking := ev .pumpFeedBegin pumped
    let s := fun (k : Nat) (p : Nat → Bool) => match walking.xlate true 0 (walking.revOf 0) (65536 * k) false with
      | .ok r => p r.1
      | .error _ => false
    (keyRows (k 0)).length = 1 ∧ (keyRows (k 1)).length = 1 ∧ (keyRows (k 2)).length = 2 ∧
      (∀ m ∈ [0, 1, 2], (k m).ent.img.toNat / 2 ^ 58 % 2 ^ 2 = m) ∧
      s 0 (fun q => zoneOf q != .well && !walking.unreadable q 8 && (spoil [q] walking).unreadable q 8) = true ∧
      isOk (walking.xlate true 0 (walking.revOf 0) (65536 * 9999) false) (fun _ => true) = false := by decide +kernel

/-- Ready rows: of a queue, and of a well with an uncorrectable byte; a key that its first entry brought and one replayed. -/
theorem witness_RowsAndLatch_more :
    let bad := fun (s : State) => isSome s.me.bagRun fun b => isSome b.feeds[0]? fun f =>
      let l := rowPlaces s 0 f 0 (rowBytes b.bag)
      let t := spoil (l.take 1) s
      l.any t.badAt && t.rowReady 0 0 0
    let arrived := ev .pumpFetchReturn (ev .pumpFeedBegin pumped)
    bad (fed 0) = true ∧ queued.rowReady 0 0 0 = true ∧
      isSome arrived.me.bagRun (fun b => isSome (b.entry 0 0) (fun r => isSome b.keys[r.key]? fun z => z.feed == 0 && z.pos == 0) &&
        isSome (b.entry 0 1) (fun r => isSome b.keys[r.key]? fun z => z.pos != 1)) = true ∧
      (ev .rowIn arrived).rowReady 0 0 1 = true ∧
      isSome queued.me.bagRun (fun b => isSome b.feeds[0]? fun f => 0 < rowBytes b.bag &&
        (queued.resolve 0 ((vget queued.me.a.qs 3).base +
          ((vget queued.me.a.qs 3).ptr * 1024 + (0 - f.stage * 1) * f.f.stride + 0) % 4096) 1 1).isSome) = true := by decide +kernel

/-- What waits for the latch: the last row of a drain and one before it, a row of a bag, a row of an uncorrectable entry. -/
theorem witness_LatchArrivals :
    let two := ev .arrayOpStart (release (does (.sumpDr 0 6 0 0 1 1 2) (setA 6 (BitVec.ofNat 64 (32 * 2 ^ 35 + 16 * 2 ^ 24))
      (ev .bagCloseComplete (release (does (.bagClose 0) (begun 0)))))))
    let waits := fun (s : State) (p : LatchRow → Bool) => s.latchFree 0 && isSome (s.tile 0).waiting.head? p
    let last := ev .drainRow (draining 2)
    waits last (fun r => r.drain && r.last && last.me.latching.any fun o => o.seq == r.id) = true ∧
      waits (ev .drainRow two) (fun r => r.drain && !r.last) = true ∧
      waits (ev .rowIn (fed 1)) (fun r => !r.drain && isSome (fed 1).me.bagRun fun b => isSome b.feeds[r.feed]? fun f =>
        f.rows[r.pos]?.isSome) = true ∧
      waits (ev .drainRow ((draining 2).updTile 0 fun t => { t with badSump := [0] })) (fun r => r.machineCheck.isSome) = true := by
  decide +kernel

/-- A join whose parent has been killed; a page at a multiple of its size; regions that hold whole elements. -/
theorem witness_Joins_killed :
    let s := (joining 15 none id).updTask 1 fun t => { t with st := .killed }
    isSome (s.joins.find? fun j => j.child == s.arg.t && !j.hold) (fun j => j.pages.isNone &&
      isSome (s.findTask j.child) (fun k => k.recorded && k.st == .complete && s.closed k) &&
      isSome (s.findTask j.parent) (fun p => p.st == .killed)) = true ∧
      65536 % 65536 = 0 ∧ region0.start % regionSize region0.ty = 0 ∧ region0.len % regionSize region0.ty = 0 := by decide +kernel

/-- A lane that fails in a link whose other half is sound, and in one whose other half has failed. -/
theorem witness_LinkHalves :
    let l : Link := { vget base.links 0 with laneReplays := Vector.replicate 8 16 }
    let m := fun (k : Nat) => l.faulty ||| BitVec.ofNat 8 (2 ^ (k % 8))
    l.st ≠ .down ∧ 16 ≤ vget l.laneReplays 0 ∧ (m 0).extractLsb' 4 4 = 0 ∧
      (({ l with faulty := 16 } : Link).faulty ||| 1).extractLsb' 0 4 ≠ 0 ∧ (({ l with faulty := 16 } : Link).faulty ||| 1).extractLsb' 4 4 ≠ 0 := by
  decide +kernel

/-! ### Joins kept, posts after atomics, checks of feeds and drains, answers to the outside -/

/-- A step-control call that has begun, and one that has not; a loop that ends at the bundle and goes on, and one that is over. -/
theorem witness_CallsAndLoops :
    let call : Bundle := (.syscLocate 0, .nopM 0, .nopV 0, .nopX 0)
    let busy := base.updMe fun x => { x with
      reqStage := .released, woq := [{ cells := [(wellBase, 1)], seq := 0, fences := [] }] }
    let loop := fun (n : Nat) => ({ base.me with a := { base.me.a with loops := [{ count := n, index := 0, start := 32, last := 0 }] } } : Ctx)
    drainPoint call = true ∧ busy.me.reqStage ≠ .none ∧ busy.drained = false ∧ base.me.reqStage = .none ∧
      (loop 3).nextPc = none ∧ (loop 3).pc = 0 ∧ (backEdge 0 (loop 3).a.loops).1 = 32 ∧ (backEdge 0 (loop 1).a.loops).1 = 16 := by
  decide +kernel

/-- Infinities of both signs count in every order, with a quiet NaN before, between or after them; R70's pseudocode alone passes over the
second sign once the NaN has come. -/
theorem test_window_order :
    ([[.nan false, .inf false, .inf true], [.inf false, .nan false, .inf true], [.inf true, .inf false, .nan false]].all fun l =>
      let E := (l : List FVal).foldl (winPut 0) {}
      E.cls == 3 && E.nvi) = true ∧
      ([.nan false, .inf false].foldl (winPut 0) {} : WinEntry).nvi = false ∧
      ([.inf false, .nan false, .inf true].foldl (winAdd 0) {} : WinEntry).nvi = false := by decide +kernel

/-- Pairs whose products hold a signalling NaN, and a quiet one alone. -/
theorem witness_DotProduct_flags :
    let w := fun (k v : Nat) => BitVec.ofNat 64 (k + v * 2 ^ 32)
    let p := fun (v : Nat) => prod (readVal (fenv 1) .f32 (pairVal (w 1 v))) (readVal (fenv 1) .f32 (pairVal (w 1 0x3F800000)))
    p 0x7F800001 = .nan true ∧ p 0x7FC00000 = .nan false := by decide +kernel

/-- A post of the core path with an earlier atomic of its context on its way, and one before it. -/
theorem witness_PostsInOrder_atoms :
    let p := fun (n : Nat) => ({ src := some (0, 0, []), c := 0, f := 1, n := 1, seq := some n } : PostEff)
    (fenced base).postReady (p 1) = false ∧ (fenced base).postReady (p 0) = true ∧ base.postReady (p 1) = true := by decide +kernel

/-- A request not yet released, one whose context waits for nothing, one that waits for a stage effect of its own. -/
theorem witness_RequestsRelease :
    let s := base.updMe fun x => { x with reqStage := .released, opSeq := 1 }
    let e : StageEff := { gi := 0, seq := 0, task := 1, step := 0, kind := .adv, n := 1, waits := [] }
    let t : State := { s with stageQ := [e] }
    On base 0 ∧ base.me.reqAns = none ∧ base.me.reqStage = .none ∧ s.me.reqStage = .released ∧ s.opsDone s.cur s.me.opSeq = true ∧
      s.stageQ = [] ∧ s.fencesDone s.cur (s.me.a.fencesFor 4) = true ∧ e.task = t.me.task ∧ e.step = t.me.step ∧ e.gi = t.me.gi ∧
      ¬ t.me.opSeq ≤ e.seq := by decide +kernel

/-- A join in its closure wait, of context 0. -/
def closing (f : Ctx → Ctx) : State :=
  ({ base with joins := [{ c := some 0, parent := 1, child := 9 }] } : State).updMe fun x => f { x with reqStage := .closure }

/-- A pre-emption that a closure wait may honour, and one that it may not. -/
theorem witness_ClosureStops :
    let b : Bundle := (.tjoin 0 3 2 0, .nopM 0, .nopV 0, .nopX 0)
    let s := closing fun x => { x with preempt := true }
    b.1.request (s.landedView (hdrOf b)) ≠ none ∧ s.me.reqAns = none ∧ s.me.reqStage = .closure ∧ s.joins.length = 1 ∧
      s.lockOn s.cur = false ∧ s.me.preempt = true ∧ s.me.a.pend = [] ∧ s.drained = true ∧ s.me.gate = [] ∧ s.me.hold = [] ∧
      s.me.a.bag = none ∧ s.me.a.ranges = [] ∧ (closing id).me.preempt = false ∧
      isOk (requestWait b s) (fun _ => true) = false := by decide +kernel

/-- A child kept for this context, and one kept for another. -/
theorem witness_RequestsAct_kept :
    let s := task { num := 9, opb := benchOpb, rev := 1, parent := 1, kind := .forked, join := .joining } (setS 2 9 (asked base))
    let kept := fun (g : Nat) => ({ s with joins := [{ c := none, parent := 1, child := 9, hold := true, stopped := some (1, 0, g) }] } : State)
    On s 0 ∧ s.me.reqAns = none ∧ s.me.reqStage = .asked ∧ s.me.req = none ∧ (s.sReg 0 2).toNat = 9 ∧
      isSome (s.childOf s.me.task 9) (fun k => k.num == 9 && k.join == .joining) = true ∧
      some (1, 0, 0) = some (s.me.task, s.me.step, s.me.gi) ∧
      (some (1, 0, 1) : Option (Nat × Nat × Nat)) ≠ some (s.me.task, s.me.step, s.me.gi) ∧ ((kept 0).joins.map PendJoin.c) = [none] := by
  decide +kernel

/-- A join that a pre-emption has stopped stays so over the retry; a page's walk frees the way to its own copy. -/
theorem witness_Joins_stopped :
    let s := { joining 15 (some [0]) fun j => { j with hold := true, stopped := some (1, 0, 0) } with arg := { t := 2, ok := false } }
    s.arg.ok = false ∧ (s.joins.all fun j => j.stopped.isSome && j.child == s.arg.t) = true ∧
      isSome (merging.findRev 1) (fun a => isSome (merging.findRev 2) fun b =>
        (((((merging.correctPages a.table b.table [0]).correctAll [(0x900000, 65536)]).logBad [(0x900000, 65536)])).ownPage a 0).isSome) =
          true := by decide +kernel

/-- Stream accesses of a DET task outside its sets. -/
theorem witness_StreamsAndMerges_sets :
    let s := setZ 1 [1] (setA 3 2 (sets (base.updMe fun x => { x with strWait := some 0 })))
    (s.resolve s.cur 0 16 8).isSome ∧ s.inSets s.cur 3 false 0 16 = false ∧ (s.resolve s.cur 0 8 8).isSome ∧
      s.inSets s.cur 3 true 0 8 = false ∧ (s.aReg 0 3).toNat = 2 ∧ (s.zReg 1).length = 1 := by decide +kernel

/-- Bags that take no feed more, a reserved bit, bags without a slot and with one of another format. -/
theorem witness_FeedStarts :
    let s := fun (f : Arch → Arch) => (opened 0).updArch f
    let trap := fun (s : State) (r : Bool) (x1 n : Nat) => match feedStart s r x1 with
      | .error e => e == xTrap s 0x10 n
      | .ok _ => false
    trap slotted false 0 2 = true ∧ trap (s fun x => { x with bag := x.bag.map fun b => { b with feeds := 255 } }) false 0 8 = true ∧
      trap (opened 0) true 0 8 = true ∧ trap (opened 0) false 1 8 = true ∧ trap (opened 0) false (2 ^ 48) 8 = true ∧
      isOk (feedStart (opened 2) false 1) (fun b => b.mode == 2) = true ∧ trap (s fun x => { x with slotTid := none }) false 0 0x0B = true ∧
      isOk (feedStart (opened 0) false 0) (fun b => b.mode == 0 && b.feeds == 0) = true ∧
      trap (s fun x => { x with slotTid := some (0, BitVec.ofNat 256 (3 * 2 ^ 61)) }) false 0 7 = true := by decide +kernel

/-- Lists of no entry, lists misplaced, and in a DET task outside the sets. -/
theorem witness_FeedListChecks :
    let s := opened 2
    let d := sets s
    let trap := fun (s : State) (x0 x1 : Nat) (c : Nat) => isSome s.me.a.bag fun b => match feedLists s b 2 2 4 x0 x1 with
      | .error e => e.cause == c
      | .ok _ => false
    isSome s.me.a.bag (fun b => isOk (feedLists s b 2 0 4 0 0) (· == (0, 0, 0)) && isOk (feedLists s b 2 2 4 0 0) fun _ => true) = true ∧
      trap s 1 0 3 = true ∧ trap s 0 (2 ^ 24) 3 = true ∧ trap s 0 1 3 = true ∧ trap d 0 0 4 = true := by decide +kernel

/-- Feeds that trap at each of their checks. -/
theorem witness_FeedsTrap :
    let s := fun (x0 : Nat) => pair x0 0 (opened 0)
    let starts := fun (s : State) (p : Bag → Bool) => isOk (feedStart s false 0) p
    let rows := fun (n stride lsa : Nat) => n * 2 ^ 48 + stride * 2 ^ 24 + lsa
    let lists := fun (x0 : Nat) (b : Bag) => isOk (feedLists (s x0) b 3 2 0 x0 0) fun _ => true
    let q := fun (role : Nat) => ((opened 0).updArch fun x => { x with
      qs := vput x.qs 3 { base := 0x1000, sz := 7, role := role, wflag := 1, peer := 0, pflag := 2, nsl := 4 } })
    let e := fun (fmt stride : Nat) => withTid 5 fmt stride (opened 0)
    starts slotted (fun _ => true) = false ∧
      starts (s 0) (fun b => !isOk (feedLists (s 0) b 3 2 0 0 (2 ^ 24)) (fun _ => true) && lists (rows 2 8 0) b &&
        8 < rowBytes b && rowBytes b ≤ 0x400 && ((s 0).resolve 0 (2 ^ 24 - 8) (0x400 + rowBytes b) 1).isNone &&
        !(sets (s 0)).inSets 0 3 false 0 (0x400 + rowBytes b) && ((s 0).resolve 0 0 (0x400 + rowBytes b) 1).isSome) = true ∧
      ((q 1).handle 3).role ≠ 2 ∧ ((q 2).handle 3).role = 2 ∧ ((q 2).handle 3).arr = false ∧
      ((q 2).handle 3).slotBytes % 0x400 = 0 ∧ 3 % (2 * ((q 2).handle 3).slotBytes / 0x400) ≠ 0 ∧
      (opened 0).tidEntry 40 = none ∧ ((opened 0).tidEntry 5).any (fun e => e.rows == 0) = true ∧
      starts (s 0) (fun b => ((e 0 8).tidEntry 5).any fun e => e.fmt == b.ent.fmt && e.bs == b.ent.bs && e.rows != 0 && e.stride < rowBytes b) =
        true := by decide +kernel

/-- Ranges not held, of the open bag, another than FREE names, and held. -/
theorem witness_NamedRange :
    let d := does (.bagClose 0) (opened 0)
    let trap := fun (s : State) (first len : Nat) (free : Bool) => match tableRange s first len free with
      | .error e => e == xTrap s 0x10 4
      | .ok _ => false
    trap d 0 16384 false = true ∧ trap (opened 0) 0 1 false = true ∧ trap d 0 1 true = true ∧
      isOk (tableRange d 0 1 false) (fun r => r.first == 0) = true := by decide +kernel

/-- Drains and clears that trap at each of their checks. -/
theorem witness_DrainsTrap :
    let y := fun (first len group lsa : Nat) (s : State) => setA 4 (BitVec.ofNat 64 (first * 2 ^ 50 + len * 2 ^ 35 + group * 2 ^ 24 + lsa)) s
    let d := does (.bagClose 0) (opened 0)
    let field := fun (s : State) => (bits (s.aReg 0 4).toNat 35 15, bits (s.aReg 0 4).toNat 24 11, bits (s.aReg 0 4).toNat 0 24)
    field (y 0 32 16 8 d) = (32, 16, 8) ∧ field (y 0 0 1 0 d) = (0, 1, 0) ∧ 32 % 24 ≠ 0 ∧
      isOk (tableRange d 0 32 false) (fun _ => true) = true ∧ isOk (tableRange d 16000 32 false) (fun _ => true) = false ∧
      (d.resolve d.cur (2 ^ 24 - 8) (32 * 8) 8).isNone ∧ (d.resolve d.cur 0 (32 * 8) 8).isSome ∧
      (sets d).inSets (sets d).cur 3 true 0 (32 * 8) = false := by decide +kernel

/-- A feed of no rows. -/
theorem witness_FeedsAndDrains_none :
    let x0 := 0x400 * 2 ^ 24
    let s := pair x0 0 (opened 0)
    bits x0 48 16 = 0 ∧ isOk (feedStart s false 0) (fun b => rowBytes b ≤ 0x400) = true ∧
      nextIs (exec (.bagRows 0 4 0 0 0) s) (fun t => t.me.hold.length == s.me.hold.length + 1) = true := by decide +kernel

/-- Accesses from outside beyond device memory and to a part that does not serve them; parts stopped by a fatal error and not. -/
theorem witness_OutsideAnswers :
    let far : State := { idle with arg := { a := Config.deviceBytes, n := 8, bs := [1] } }
    let lost := mgmt (fun m => { m with state := 3 }) {}
    let six := mgmt (fun m => { m with state := 6, fatal := some (1, 2, 3) }) { k := 1 }
    let seven := mgmt (fun m => { m with state := 7, fatal := some (1, 2, 3) }) { k := 1 }
    let five := mgmt (fun m => { m with state := 5 }) { k := 1 }
    Config.deviceBytes < far.arg.a + far.arg.bs.length ∧ Config.deviceBytes < far.arg.a + far.arg.n ∧ far.mgmt.state = 4 ∧
      far.mgmt.fullWidth = true ∧ lost.mgmt.state ≠ 4 ∧ six.mgmt.state = 6 ∧ seven.mgmt.fatal ≠ none ∧ five.mgmt.state = 5 ∧
      nextIs (exec .hostMemWrite far) (fun t => t.mgmt.resp == .error && t.mem == far.mem) = true ∧
      nextIs (exec .galeRemoteAccess lost) (fun t => t.mgmt.resp == .lost) = true ∧
      nextIs (exec .fatalError five) (fun t => t.mgmt.state == 6 && t.mgmt.fatal == some (1, 0, 0)) = true := by decide +kernel

/-! ### Posts that hold back, exact adds, records, host stores, reads that correct -/

/-- A released core-path post of context 0 with nothing before it on its way, and what is later in program order. -/
def posting (woq : List StoreEnt) : State :=
  { base.updMe fun x => { x with opSeq := 3, woq := woq } with
    posts := [{ src := some (0, 1, []), c := 1, f := 3, n := 1, seq := some 1 }] }

/-- A load after a released post; a bundle that loads nothing; an atomic before and behind the post. -/
theorem witness_PostsHoldBack :
    let b : Bundle := (.nopS 0, .lw 0 1 3 0 0 0, .nopV 0, .nopX 0)
    let s := posting []
    let atom := fun (n : Nat) => s.updCis 0 fun k => { k with atoms := [{
      id := 0, c := 0, seq := n, kind := .add, place := wellBase, size := 4, y := 7, z := 0, lsa := 0 }] }
    let waits := fun (s : State) => s.posts.any fun p => p.before 0 2
    b.2.1.loads = true ∧ (headed 0 0 0 0).2.1.loads = false ∧ s.me.woq = [] ∧ (s.cis (cisOf s.cur)).atoms = [] ∧
      (s.posts.all fun p => isSome p.src fun e => s.fencesDone 0 e.2.2 && isSome p.seq fun i => i < s.me.opSeq) = true ∧
      (loadOrder b s).posts = [] ∧ vget ((loadOrder b s).ctx 1).flags 3 = 1 ∧
      waits (atom 2) = true ∧ nextIs (exec .atomicPerform (atom 2)) (fun t => !(t.cis 0).atoms.isEmpty) = true ∧
      nextIs (exec .atomicPerform (atom 0)) (fun t => (t.cis 0).atoms.isEmpty) = true := by decide +kernel

/-- A store before a released post leaves the write-out queue, one behind it waits. -/
theorem test_store_behind_post :
    let st := fun (n : Nat) => posting [{ cells := [(wellBase, 1)], seq := n, fences := [] }]
    (st 0).headStore 0 ≠ none ∧ (st 2).headStore 0 = none ∧ ((st 2).postEffect 0).headStore 0 ≠ none := by decide +kernel

/-- Elements of 40 bytes: two that add with CNT saturating, two of unequal e, one with a reserved bit, one with e out of range. -/
theorem witness_ExactAdd :
    let elem := fun (i cnt st e : Nat) => i + cnt * 2 ^ 256 + st * 2 ^ 288 + e * 2 ^ 296
    let a := elem 5 (2 ^ 32 - 1) 1 0xFFE2
    let r := exactAdd a (elem 7 1 2 0xFFE2)
    a < 2 ^ 320 ∧ elem 7 1 2 0xFFE2 < 2 ^ 320 ∧ r = (elem 12 (2 ^ 32 - 1) 0x1B 0xFFE2, false) ∧
      exactAdd (elem 5 1 0 0) (elem 7 1 0 1) = (elem 12 2 8 0, true) ∧
      exactAdd (elem 5 1 0 0) (elem 7 1 0x20 0) = (elem 5 1 0x18 0, true) ∧
      exactAdd (elem 5 1 0 2048) (elem 7 1 0 2048) = (elem 5 1 0x18 2048, true) := by decide +kernel

/-- A task with a signature, and its completion record. -/
theorem witness_CompletionLayout :
    let k : Task := { (default : Task) with num := 258, opb := benchOpb, notes := 2, exited := 3, preempts := 4, sig := List.replicate 16 9 }
    k.sig.length = 16 ∧ (completionRecord k 1 0).take 8 = [1, 0, 2, 0, 2, 1, 0, 0] ∧
      (completionRecord k 1 0).getD 32 0 = 3 ∧ (completionRecord k 1 0).getD 44 0 = 4 := by decide +kernel

/-- A queue feed that passes: ROLE 2, detached, stages of rows that divide N; fields of a bag that are right and wrong. -/
theorem witness_QueueServes :
    let qx := 2 * 2 ^ 48 + 1 * 2 ^ 40 + 0x400 * 2 ^ 24
    let q := pair qx 0 ((opened 0).updArch fun x => { x with
      qs := vput x.qs 3 { base := 0x1000, sz := 7, role := 2, wflag := 1, peer := 0, pflag := 2, nsl := 4 } })
    (q.handle 3).role = 2 ∧ (q.handle 3).arr = false ∧ bits qx 40 8 * (q.handle 3).slotBytes % bits qx 24 16 = 0 ∧
      bits qx 48 16 % (bits qx 40 8 * (q.handle 3).slotBytes / bits qx 24 16) = 0 ∧
      bagFieldsBad (2 ^ 48) 0 0 = true ∧ bagFieldsBad (2 ^ 62 + 2 ^ 48) 0 0 = false ∧ bagFieldsBad (2 ^ 62 + 2 ^ 11) 0 0 = true ∧
      bagFieldsBad 1024 0 0 = true ∧ bagFieldsBad 1023 0 2047 = false ∧ bagFieldsBad 0 0 2048 = true := by decide +kernel

/-- The host stores into its own memory, at its last byte and beyond it, whatever the STATE. -/
theorem witness_HostStores :
    let s := fun (a : Nat) => mgmt (fun m => { m with state := 3 }) { k := 1, a := a, bs := [7] }
    let far := s (2 ^ 51)
    let own : State := { idle with arg := { k := 0, a := 8, bs := [7] } }
    (s (2 ^ 51 - 1)).arg.a + 1 ≤ 2 ^ 51 ∧ 2 ^ 51 < far.arg.a + far.arg.bs.length ∧ own.arg.k ≠ 1 ∧ own.mgmt.state = 4 ∧
      nextIs (exec .hostMemWrite (s (2 ^ 51 - 1))) (fun t => t.mgmt.resp == .done && memRead t.mem (2 ^ 52 + 2 ^ 51 - 1) == 7) = true ∧
      nextIs (exec .hostMemWrite far) (fun t => t.mgmt.resp == .error && t.mem == far.mem) = true ∧
      nextIs (exec .hostMemWrite own) (fun t => memRead t.mem 8 == 7) = true := by decide +kernel

/-- A walk that ends at an entry which is not present corrects the one it has read; one that meets an uncorrectable entry stops the
acceptance with a machine check. -/
theorem witness_WalksCorrect :
    let soft : State := { base with softMem := [granule benchTables] }
    let bad := spoil [benchTables] (sphRegs 0x2000 0 64 0)
    let i := Instr.sphCp 0 4 5 6 0 1 0
    (match soft.xlate false 0 (soft.revOf 0) (2 ^ 44) false with | .error k => k == 1 | .ok _ => false) = true ∧
      (match xlSide 0 (soft.revOf 0) false false [(0, 8, 2 ^ 44)] soft with
        | .error e => e.1 == 1 && e.2.2.softMem.isEmpty
        | .ok _ => false) = true ∧
      (match fetchRow 0 8 (2 ^ 44) soft with | .error e => e.2.2.softMem.isEmpty | .ok _ => false) = true ∧
      isSome (draftCp bad 4 5 6 0 1 0) (fun d => match (d.finish bad).places true bad.cur (d.readList bad) with
        | .fail k _ _ => k == 6
        | _ => false) = true ∧
      nextIs (exec i bad) (fun t => t.me.cond == .parked) = true := by decide +kernel

/-- A fault buffer in own memory, its control block with a single-bit error: the refused record leaves it corrected; the dump finds both. -/
theorem witness_BufferReads :
    let soft := fun (n : Nat) => { recorded n with softMem := [granule 0x600000] }
    ownPlace (soft 5) (soft 5).mgmt.fbuf = some 0x600000 ∧ (soft 5).badIn 0x600000 64 = false ∧
      ownPlace (soft 5) ((soft 5).readNat (0x600000 + 16) 8) = some 0x610000 ∧
      nextIs (exec .faultRecordOffer (soft 4096)) (fun t => t.softMem.isEmpty) = true ∧
      nextIs (exec .faultRecordOffer (soft 5)) (fun t => t.softMem.isEmpty) = true ∧
      (soft 5).correctDump.softMem = [] := by decide +kernel

/-- A saved step whose tile image has a single-bit error, and an uncorrectable granule. -/
theorem witness_TileImages :
    let s := fun (soft bad : List Nat) =>
      { (savedStep 1).updStep 1 0 fun k => { k with tileImages := [(0, 0x5000000)], tids := [(0, [{}])] } with softMem := soft, badMem := bad }
    let k := ((s [] []).findStep 1 0).getD default
    k.tileReads = [(0x5000000, 64 + 128)] ∧ ((s [0x5000000] []).correctSaved k).softMem = [] ∧
      (s [] []).brokenSaved k = false ∧ (s [] [0x5000040]).brokenSaved k = true := by decide +kernel

/-- A step asked for its tiles holds the route counters of its cistern: they count as free for the tasks that wait (R342). -/
theorem test_asked_grant :
    let s : State := (crowded.updStep 1 0 fun k => { k with asked := some 2 }).updCis 0 fun k => { k with grant := some (1, 0) }
    (s.cis 0).grant = some (1, 0) ∧ (s.freed.cis 0).grant = none ∧ s.freed.steps.length + 1 = s.steps.length := by decide +kernel

end Sys2Proof.Tests
end

/-! ## Every step keeps memory and sumps in canonical form (O56): the state's own updates -/

namespace Sys2Proof.Forms
open Sys2Proof.Machine Sys2Proof.Claims

/-! ### The canonical form as a predicate of what it speaks of -/

/-- `formsOk` of a state's memory and tiles alone, so that a record update of anything else drops out of it. -/
def formsOn (m : List Host.Cell) (ts : Vector Tile 192) : Prop := Memory.wf m = true ∧ ∀ k, sumpOk (vget ts k).sump

@[simp] theorem formsOn_state (s : State) : formsOn s.mem s.tiles ↔ formsOk s := Iff.rfl

@[simp] theorem formsOk_mk (sched : List Turn) (arg : EvArg) (cur freeCount : Nat) (mem : List Host.Cell)
    (badMem softMem softTables : List Nat) (ctxs : Vector Ctx 384) (tiles : Vector Tile 192) (ciss : Vector Cistern 24)
    (tasks : List Task) (steps : List Step) (nextTask : Nat) (revs : List Revision) (nextRev : Nat) (framesUsed : List Nat)
    (poolUsed : List (Nat × Nat)) (board : List Count) (stageQ : List StageEff) (posts : List PostEff) (records : List FRec)
    (forks : List PendFork) (joins : List PendJoin) (invs : List PendInv) (contained : List Nat)
    (routes : List (Nat × List Nat)) (links : Vector Link 12) (mgmt : Mgmt) :
    formsOk ⟨sched, arg, cur, freeCount, mem, badMem, softMem, softTables, ctxs, tiles, ciss, tasks, steps, nextTask, revs,
      nextRev, framesUsed, poolUsed, board, stageQ, posts, records, forks, joins, invs, contained, routes, links, mgmt⟩ ↔
      formsOn mem tiles := Iff.rfl

/-- Memory and sumps the same: the canonical form is the same. -/
theorem formsOk_congr {s t : State} (hm : t.mem = s.mem) (ht : ∀ k, (t.tile k).sump = (s.tile k).sump) :
    formsOk t ↔ formsOk s := by
  simp only [formsOk, hm, ht]

theorem formsOk_congr_tiles {s t : State} (hm : t.mem = s.mem) (ht : t.tiles = s.tiles) : formsOk t ↔ formsOk s :=
  formsOk_congr hm fun k => by simp only [State.tile, ht]

@[simp] theorem formsOk_ite (c : Prop) [Decidable c] (s t : State) :
    formsOk (if c then s else t) ↔ if c then formsOk s else formsOk t := by
  split <;> rfl

/-! ### Folds -/

/-- A fold of acts none of which matters to the canonical form does not matter to it. -/
theorem formsOk_foldl {α : Type} {f : State → α → State} (hf : ∀ s x, formsOk (f s x) ↔ formsOk s) :
    ∀ (l : List α) (s : State), formsOk (l.foldl f s) ↔ formsOk s
  | [], _ => Iff.rfl
  | x :: l, s => (formsOk_foldl hf l (f s x)).trans (hf s x)

/-- A fold of acts that keep the canonical form keeps it. -/
theorem foldl_keeps {α : Type} {f : State → α → State} (hf : ∀ s x, formsOk s → formsOk (f s x)) :
    ∀ (l : List α) {s : State}, formsOk s → formsOk (l.foldl f s)
  | [], _, h => h
  | x :: l, s, h => foldl_keeps hf l (hf s x h)

/-! ### Memory -/

@[simp] theorem dropLines_tiles (s : State) (l : List Host.Cell) : (dropLines s l).tiles = s.tiles := by
  unfold dropLines
  split <;> rfl

@[simp] theorem dropRange_tiles (s : State) (p n : Nat) : (dropRange s p n).tiles = s.tiles := by
  unfold dropRange
  split <;> rfl

@[simp] theorem write_tiles (s : State) (l : List Host.Cell) : (s.write l).tiles = s.tiles := dropLines_tiles _ _

@[simp] theorem fill_tiles (s : State) (p n : Nat) (l : List Host.Cell) : (s.fill p n l).tiles = s.tiles := by
  simp [State.fill]

@[simp] theorem store_tiles (s : State) (l : List Host.Cell) : (s.store l).tiles = s.tiles := by
  rw [(s.store_same l).tiles, write_tiles]

@[simp] theorem write_keeps {s : State} (h : formsOk s) (l : List Host.Cell) : formsOk (s.write l) :=
  ⟨State.write_wf h.1 l, by simpa [State.tile] using h.2⟩

@[simp] theorem fill_keeps {s : State} (h : formsOk s) (p n : Nat) (l : List Host.Cell) : formsOk (s.fill p n l) :=
  ⟨State.fill_wf h.1 p n l, by simpa [State.tile] using h.2⟩

@[simp] theorem store_keeps {s : State} (h : formsOk s) (l : List Host.Cell) : formsOk (s.store l) :=
  ⟨State.store_wf h.1 l, by simpa [State.tile] using h.2⟩

/-! ### Sumps -/

theorem sumpOk_filter {l : List (Nat × WinEntry)} (h : sumpOk l) (p : Nat × WinEntry → Bool) : sumpOk (l.filter p) :=
  ⟨h.1.filter p, fun e he => h.2 e (List.mem_filter.mp he).1⟩

/-- An entry put into a sump lists no number but its own and those listed before. -/
theorem mem_sumpPut {n : Nat} {E : WinEntry} : ∀ {l : List (Nat × WinEntry)} {e : Nat × WinEntry},
    e ∈ sumpPut l n E → (e = (n, E) ∧ E ≠ {}) ∨ e ∈ l
  | [], e, he => by
    unfold sumpPut at he
    split at he <;> simp_all
  | (k, x) :: r, e, he => by
    unfold sumpPut at he
    split at he
    · split at he
      · exact .inr he
      · simp_all
    · split at he
      · split at he
        · exact .inr (List.mem_cons_of_mem _ he)
        · rcases List.mem_cons.mp he with rfl | he
          · exact .inl ⟨rfl, by assumption⟩
          · exact .inr (List.mem_cons_of_mem _ he)
      · rcases List.mem_cons.mp he with rfl | he
        · exact .inr (by simp)
        · exact (mem_sumpPut he).imp_right (List.mem_cons_of_mem _)

/-- A sump stays sorted, and free of zero entries, when an entry is put into it. -/
theorem sumpPut_ok (n : Nat) (E : WinEntry) : ∀ {l : List (Nat × WinEntry)}, sumpOk l → sumpOk (sumpPut l n E)
  | [], _ => by
    unfold sumpPut
    split <;> simp_all [sumpOk]
  | (k, x) :: r, h => by
    obtain ⟨hs, hz⟩ := h
    rw [List.pairwise_cons] at hs
    refine ⟨?_, fun e he => ?_⟩
    · unfold sumpPut
      split
      · rename_i hnk
        have hcons : ((k, x) :: r).Pairwise fun x y => x.1 < y.1 := List.pairwise_cons.mpr hs
        split
        · exact hcons
        · refine List.pairwise_cons.mpr ⟨fun e he => ?_, hcons⟩
          rcases List.mem_cons.mp he with rfl | he
          · exact hnk
          · exact Nat.lt_trans hnk (hs.1 e he)
      · split
        · rename_i heq
          subst heq
          split
          · exact hs.2
          · exact List.pairwise_cons.mpr ⟨hs.1, hs.2⟩
        · have hr : sumpOk r := ⟨hs.2, fun e he => hz e (List.mem_cons_of_mem _ he)⟩
          refine List.pairwise_cons.mpr ⟨fun e he => ?_, (sumpPut_ok n E hr).1⟩
          rcases mem_sumpPut he with ⟨rfl, -⟩ | he
          · simp only
            omega
          · exact hs.1 e he
    · rcases mem_sumpPut he with ⟨rfl, hE⟩ | he
      · exact hE
      · exact hz e he

theorem putEntries_ok {t : Tile} (h : sumpOk t.sump) (k first : Nat) (l : List WinEntry) :
    sumpOk (t.putEntries k first l).sump := by
  unfold Tile.putEntries
  refine List.foldlRecOn l.zipIdx _ h fun m hm e _ => sumpPut_ok _ _ hm

theorem clearRange_ok {t : Tile} (h : sumpOk t.sump) (first n : Nat) : sumpOk (t.clearRange first n).sump :=
  sumpOk_filter h _

/-- The sump of a tile after an update of one. -/
theorem sump_updTile (s : State) (t k : Nat) (f : Tile → Tile) :
    ((s.updTile t f).tile k).sump = if t % 192 = k % 192 then (f (s.tile t)).sump else (s.tile k).sump := by
  by_cases h : t % 192 = k % 192
  · have : (s.updTile t f).tile k = (s.updTile t f).tile t := by simp only [State.tile, vget, h]
    rw [this, State.tile_updTile_same, if_pos h]
  · rw [if_neg h]
    exact congrArg Tile.sump (vget_vput_other s.tiles t k _ h)

/-- An update that keeps the form of the tile's sump keeps the canonical form. -/
theorem updTile_keeps {s : State} {f : Tile → Tile} (h : formsOk s) (t : Nat) (hf : sumpOk (f (s.tile t)).sump) :
    formsOk (s.updTile t f) := by
  refine ⟨h.1, fun k => ?_⟩
  rw [sump_updTile]
  split
  · exact hf
  · exact h.2 k

/-- An update that leaves the sump alone does not matter. -/
@[simp] theorem formsOk_updTile {s : State} {f : Tile → Tile} (t : Nat) (hf : ∀ u, (f u).sump = u.sump) :
    formsOk (s.updTile t f) ↔ formsOk s := by
  refine formsOk_congr rfl fun k => ?_
  rw [sump_updTile]
  split
  · rename_i h
    simp only [hf, State.tile, vget, h]
  · rfl

@[simp] theorem formsOn_updTile {m : List Host.Cell} {s : State} {f : Tile → Tile} (t : Nat) (hf : ∀ u, (f u).sump = u.sump) :
    formsOn m (s.updTile t f).tiles ↔ formsOn m s.tiles := by
  exact formsOk_updTile (s := { s with mem := m }) t hf

/-- The same for every tile at once. -/
@[simp] theorem formsOn_map {m : List Host.Cell} {ts : Vector Tile 192} {f : Tile → Tile} (hf : ∀ u, (f u).sump = u.sump) :
    formsOn m (ts.map f) ↔ formsOn m ts := by
  simp [formsOn, vget, hf]

@[simp] theorem formsOn_idle (m : List Host.Cell) : formsOn m (Vector.replicate 192 Tile.idle) ↔ Memory.wf m = true := by
  simp [formsOn, vget, Tile.idle, sumpOk]

@[simp] theorem undoTids_sump (t : Tile) (l : List (Nat × TidEntry)) : (t.undoTids l).sump = t.sump := by
  induction l generalizing t with
  | nil => rfl
  | cons e r ih => exact (ih _).trans rfl

/-! ### Contexts, cisterns, tasks, steps, the management side -/

@[simp] theorem formsOk_setCtx (s : State) (c : Nat) (x : Ctx) : formsOk (s.setCtx c x) ↔ formsOk s := Iff.rfl
@[simp] theorem formsOk_updCtx (s : State) (c : Nat) (f : Ctx → Ctx) : formsOk (s.updCtx c f) ↔ formsOk s := Iff.rfl
@[simp] theorem formsOk_updMe (s : State) (f : Ctx → Ctx) : formsOk (s.updMe f) ↔ formsOk s := Iff.rfl
@[simp] theorem formsOk_updArch (s : State) (f : Arch → Arch) : formsOk (s.updArch f) ↔ formsOk s := Iff.rfl
@[simp] theorem formsOk_updCis (s : State) (k : Nat) (f : Cistern → Cistern) : formsOk (s.updCis k f) ↔ formsOk s := Iff.rfl
@[simp] theorem formsOk_updTask (s : State) (n : Nat) (f : Task → Task) : formsOk (s.updTask n f) ↔ formsOk s := Iff.rfl
@[simp] theorem formsOk_updStep (s : State) (n k : Nat) (f : Step → Step) : formsOk (s.updStep n k f) ↔ formsOk s := Iff.rfl
@[simp] theorem formsOk_updMgmt (s : State) (f : Mgmt → Mgmt) : formsOk (s.updMgmt f) ↔ formsOk s := Iff.rfl
@[simp] theorem formsOk_updLink (s : State) (n : Nat) (f : Link → Link) : formsOk (s.updLink n f) ↔ formsOk s := Iff.rfl
@[simp] theorem formsOk_updFork (s : State) (c : Nat) (f : PendFork → PendFork) : formsOk (s.updFork c f) ↔ formsOk s := Iff.rfl
@[simp] theorem formsOk_updJoin (s : State) (c : Nat) (f : PendJoin → PendJoin) : formsOk (s.updJoin c f) ↔ formsOk s := Iff.rfl
@[simp] theorem formsOk_updBag (s : State) (c : Nat) (f : RunBag → RunBag) : formsOk (s.updBag c f) ↔ formsOk s := Iff.rfl
@[simp] theorem formsOk_offer (s : State) (r : FRec) : formsOk (s.offer r) ↔ formsOk s := Iff.rfl
@[simp] theorem formsOk_stallNow (s : State) : formsOk s.stallNow ↔ formsOk s := Iff.rfl
@[simp] theorem formsOk_choose (s : State) (n : Nat) : formsOk (s.choose n).2 ↔ formsOk s := Iff.rfl
@[simp] theorem formsOk_startCounts (t s : State) (n : Nat) : formsOk (t.startCounts s n) ↔ formsOk t := Iff.rfl
@[simp] theorem formsOk_reclaim (s : State) : formsOk s.reclaim ↔ formsOk s := Iff.rfl
@[simp] theorem formsOk_dropRevision (s : State) (n : Nat) : formsOk (s.dropRevision n) ↔ formsOk s := Iff.rfl
@[simp] theorem formsOk_freePool (s : State) (l : List (Nat × Nat)) : formsOk (s.freePool l) ↔ formsOk s := Iff.rfl
@[simp] theorem formsOk_renameWaits (s : State) (k : Step) (l : List (Nat × Nat)) : formsOk (s.renameWaits k l) ↔ formsOk s := Iff.rfl
@[simp] theorem formsOk_pruneBoard (s : State) (n : Nat) : formsOk (s.pruneBoard n) ↔ formsOk s := Iff.rfl
@[simp] theorem formsOk_note (s : State) (n b : Nat) : formsOk (s.note n b) ↔ formsOk s := Iff.rfl
@[simp] theorem formsOk_forgetJoins (s : State) (p : PendJoin → Bool) : formsOk (s.forgetJoins p) ↔ formsOk s := Iff.rfl
@[simp] theorem formsOk_killStep (s : State) (n k : Nat) : formsOk (s.killStep n k) ↔ formsOk s := Iff.rfl

end Sys2Proof.Forms

/-! ### Acts that touch neither memory nor a sump -/

namespace Sys2Proof.Forms
open Sys2Proof.Machine Sys2Proof.Claims

/-- Corrections of single-bit errors do not matter: only the lists of errors and the logs change. -/
theorem formsOk_same {s t : State} (h : SameButLogs s t) : formsOk t ↔ formsOk s := formsOk_congr_tiles h.mem h.tiles

@[simp] theorem formsOk_logAt (s : State) (g : Nat) (b : Bool) : formsOk (s.logAt g b) ↔ formsOk s := formsOk_same (s.logAt_same g b)
@[simp] theorem formsOk_correct (s : State) (p n : Nat) : formsOk (s.correct p n) ↔ formsOk s := formsOk_same (s.correct_same p n)
@[simp] theorem formsOk_correctBytes (s : State) (l : List Nat) : formsOk (s.correctBytes l) ↔ formsOk s :=
  formsOk_same (s.correctBytes_same l)
@[simp] theorem formsOk_correctAll (s : State) (l : List (Nat × Nat)) : formsOk (s.correctAll l) ↔ formsOk s :=
  formsOk_same (s.correctAll_same l)
@[simp] theorem formsOk_coreCorrect (s : State) (c p n : Nat) : formsOk (s.coreCorrect c p n) ↔ formsOk s :=
  formsOk_same (s.coreCorrect_same c p n)
@[simp] theorem formsOk_correctTables (s : State) : formsOk s.correctTables ↔ formsOk s :=
  formsOk_congr_tiles s.correctTables_mem s.correctTables_tiles
@[simp] theorem formsOk_logBad (s : State) (l : List (Nat × Nat)) : formsOk (s.logBad l) ↔ formsOk s :=
  formsOk_foldl (fun t g => formsOk_logAt t g false) _ s

@[simp] theorem formsOk_correctWalk (s : State) (table va : Nat) : formsOk (s.correctWalk table va) ↔ formsOk s := by
  unfold State.correctWalk
  split <;> simp

@[simp] theorem formsOk_correctMap (s : State) (table va n : Nat) : formsOk (s.correctMap table va n) ↔ formsOk s := by
  unfold State.correctMap
  split
  · rfl
  · exact formsOk_foldl (fun t p => formsOk_correctWalk t _ _) _ s

@[simp] theorem formsOk_correctRead (s : State) (table va n : Nat) : formsOk (s.correctRead table va n) ↔ formsOk s := by
  unfold State.correctRead
  split
  · rfl
  · refine formsOk_foldl (fun t p => ?_) _ s
    dsimp only
    split <;> simp

@[simp] theorem formsOk_missed (s : State) (pump : Bool) (c : Nat) (rev : Revision) (va : Nat) (wr : Bool) :
    formsOk (s.missed pump c rev va wr) ↔ formsOk s := by
  unfold State.missed
  split <;> simp

@[simp] theorem formsOk_correctSump (s : State) (t first n : Nat) : formsOk (s.correctSump t first n) ↔ formsOk s := by
  unfold State.correctSump
  dsimp only
  split <;> simp

@[simp] theorem formsOk_correctPages (s : State) (a b : Nat) (l : List Nat) : formsOk (s.correctPages a b l) ↔ formsOk s := by
  simp [State.correctPages]
@[simp] theorem formsOk_correctImages (s : State) (k : Step) : formsOk (s.correctImages k) ↔ formsOk s := by simp [State.correctImages]
@[simp] theorem formsOk_correctSaved (s : State) (k : Step) : formsOk (s.correctSaved k) ↔ formsOk s := by simp [State.correctSaved]
@[simp] theorem formsOk_correctDump (s : State) : formsOk s.correctDump ↔ formsOk s := by simp [State.correctDump]
@[simp] theorem formsOk_correctLaunch (s : State) (table va : Nat) (o : List Byte) :
    formsOk (s.correctLaunch table va o) ↔ formsOk s := by simp [State.correctLaunch]

@[simp] theorem formsOk_correctControl (s : State) : formsOk s.correctControl ↔ formsOk s := by
  unfold State.correctControl
  split
  · rfl
  · split <;> simp

@[simp] theorem formsOk_readList (d : Draft) (s : State) : formsOk (d.readList s) ↔ formsOk s := by
  unfold Draft.readList
  split <;> simp

/-! ### Results, held effects, the mark, rollback -/

@[simp] theorem formsOk_landP (s : State) (p : Pend) : formsOk (s.landP p) ↔ formsOk s := Iff.rfl
@[simp] theorem formsOk_land (s : State) (slot : Nat) (f : RFile) (n : Nat) (v : PVal) (l : Nat) :
    formsOk (s.land slot f n v l) ↔ formsOk s := Iff.rfl
@[simp] theorem formsOk_landS (s : State) (slot n : Nat) (x : Word) (l : Nat) : formsOk (s.landS slot n x l) ↔ formsOk s := Iff.rfl
@[simp] theorem formsOk_landA (s : State) (slot n : Nat) (x : Word) (l : Nat) : formsOk (s.landA slot n x l) ↔ formsOk s := Iff.rfl
@[simp] theorem formsOk_landBit (s : State) (slot n : Nat) (b : Bool) (l : Nat) : formsOk (s.landBit slot n b l) ↔ formsOk s := Iff.rfl
@[simp] theorem formsOk_landPair (s : State) (slot n : Nat) (b : Bool) (l : Nat) : formsOk (s.landPair slot n b l) ↔ formsOk s := Iff.rfl
@[simp] theorem formsOk_vland (s : State) (slot : Nat) (r : RFile × Nat) (x en : Vec) (l : Nat) :
    formsOk (s.vland slot r x en l) ↔ formsOk s := Iff.rfl
@[simp] theorem formsOk_landLanes (s : State) (slot : Nat) (d : RFile × Nat) (w : Nat) (res : List (Option (Nat × BitVec 7)))
    (l : Nat) : formsOk (s.landLanes slot d w res l) ↔ formsOk s := Iff.rfl
@[simp] theorem formsOk_landAllLanes (s : State) (d w : Nat) (l : List Nat) (n : Nat) :
    formsOk (s.landAllLanes d w l n) ↔ formsOk s := Iff.rfl
@[simp] theorem formsOk_landPairs (s : State) (z : Nat) (l : List (Nat × Nat × FFlags)) :
    formsOk (Machine.landPairs s z l) ↔ formsOk s := Iff.rfl
@[simp] theorem formsOk_gateAdd (s : State) (e : GateEff) : formsOk (s.gateAdd e) ↔ formsOk s := Iff.rfl
@[simp] theorem formsOk_gateStore (s : State) (l : List Host.Cell) : formsOk (s.gateStore l) ↔ formsOk s := Iff.rfl
@[simp] theorem formsOk_gatePost (s : State) (c f n : Nat) : formsOk (s.gatePost c f n) ↔ formsOk s := Iff.rfl
@[simp] theorem formsOk_holdAdd (s : State) (k : ArrKind) (p : Nat) : formsOk (s.holdAdd k p) ↔ formsOk s := Iff.rfl
@[simp] theorem formsOk_holdFeed (s : State) (f : Feed) (p : Nat) : formsOk (s.holdFeed f p) ↔ formsOk s := Iff.rfl
@[simp] theorem formsOk_atEnd (s : State) (e : Eoc) : formsOk (s.atEnd e) ↔ formsOk s := Iff.rfl
@[simp] theorem formsOk_transfer (s : State) (n : Nat) : formsOk (s.transfer n) ↔ formsOk s := Iff.rfl
@[simp] theorem formsOk_sendAtom (s : State) (k : AtomKind) (p n y z l : Nat) : formsOk (s.sendAtom k p n y z l) ↔ formsOk s := Iff.rfl

@[simp] theorem formsOk_addPost (s : State) (c : Nat) (q : PostEff) : formsOk (s.addPost c q) ↔ formsOk s := by
  unfold State.addPost
  split
  · split <;> exact Iff.rfl
  · exact Iff.rfl

@[simp] theorem formsOk_release (s : State) (c : Nat) (e : GateEff) : formsOk (s.release c e) ↔ formsOk s := by
  cases e <;> simp [State.release]

@[simp] theorem formsOk_commit (s : State) (c : Nat) : formsOk (s.commit c) ↔ formsOk s := by
  unfold State.commit
  exact formsOk_foldl (fun t e => formsOk_release t c e) _ s

@[simp] theorem formsOk_mark (s : State) (c n : Nat) : formsOk (s.mark c n) ↔ formsOk s := by simp [State.mark]

@[simp] theorem formsOk_rollback (s : State) (c : Nat) (p : Option Nat) : formsOk (s.rollback c p) ↔ formsOk s := by
  simp [State.rollback]

@[simp] theorem formsOk_putTid (s : State) (n : Nat) (e : TidEntry) : formsOk (s.putTid n e) ↔ formsOk s := by simp [State.putTid]

@[simp] theorem formsOk_putTids (s : State) (t : Nat) (c : List Nat) (l : List TidEntry) : formsOk (s.putTids t c l) ↔ formsOk s := by
  simp [State.putTids]

@[simp] theorem formsOk_endLockstep (s : State) (c : Nat) : formsOk (s.endLockstep c) ↔ formsOk s := by
  unfold State.endLockstep
  split
  · rfl
  · split
    · rfl
    · exact formsOk_foldl (fun t e => by split <;> simp) _ s

@[simp] theorem formsOk_postEffect (s : State) (k : Nat) : formsOk (s.postEffect k) ↔ formsOk s := by
  unfold State.postEffect
  split <;> simp

@[simp] theorem formsOk_stepExit (s : State) (n k : Nat) : formsOk (s.stepExit n k) ↔ formsOk s := by
  unfold State.stepExit
  split
  · rfl
  · split <;> simp

/-! ### Records, siphon commands, kills -/

@[simp] theorem formsOk_offerSph (s : State) (c k u : Nat) (r : SphCmd) (i a n : Nat) (w : Bool) :
    formsOk (s.offerSph c k u r i a n w) ↔ formsOk s := Iff.rfl
@[simp] theorem formsOk_offerTask (s : State) (u o a n k t : Nat) : formsOk (s.offerTask u o a n k t) ↔ formsOk s := Iff.rfl
@[simp] theorem formsOk_offerPump (s : State) (c : Nat) (b : RunBag) (k : KeyRec) (u a : Nat) :
    formsOk (s.offerPump c b k u a) ↔ formsOk s := Iff.rfl
@[simp] theorem formsOk_engineKill (s : State) (t k n : Nat) : formsOk (s.engineKill t k n) ↔ formsOk s := by
  simp [State.engineKill]
@[simp] theorem formsOk_putRec (s : State) (c : Nat) (r : SphCmd) : formsOk (s.putRec c r) ↔ formsOk s := Iff.rfl
@[simp] theorem formsOk_dropRec (s : State) (c k : Nat) : formsOk (s.dropRec c k) ↔ formsOk s := Iff.rfl
@[simp] theorem formsOk_refill (s : State) (c : Nat) (l : List Nat) : formsOk (s.refill c l) ↔ formsOk s := Iff.rfl
@[simp] theorem formsOk_perform (s : State) (c : Nat) (r : SphCmd) (n : Nat) : formsOk (s.perform c r n) ↔ formsOk s := Iff.rfl
@[simp] theorem formsOk_cancelRec (s : State) (c : Nat) (r : SphCmd) : formsOk (s.cancelRec c r) ↔ formsOk s := Iff.rfl
@[simp] theorem formsOk_takeIn (s : State) (r : SphCmd) : formsOk (s.takeIn r) ↔ formsOk s := Iff.rfl
@[simp] theorem formsOk_refuseAccept (s : State) (r : SphCmd) (v : Nat) : formsOk (s.refuseAccept r v) ↔ formsOk s := Iff.rfl

@[simp] theorem formsOk_reportCancelled (s : State) (c : Nat) (r : SphCmd) : formsOk (s.reportCancelled c r) ↔ formsOk s := by
  unfold State.reportCancelled
  split
  · split <;> simp
  · rfl

@[simp] theorem formsOk_cancel (s : State) (c : Nat) (f : Nat → Bool) : formsOk (s.cancel c f) ↔ formsOk s :=
  formsOk_foldl (fun t r => formsOk_reportCancelled t c r) _ s

@[simp] theorem formsOk_killCtx (s : State) (c : Nat) : formsOk (s.killCtx c) ↔ formsOk s := by
  have reports : ∀ l : List SphCmd, formsOk (l.foldl (fun t r => t.reportCancelled c r) s) ↔ formsOk s := fun l =>
    formsOk_foldl (fun t r => formsOk_reportCancelled t c r) l s
  simp [State.killCtx, Tile.dropRows, reports]

@[simp] theorem formsOk_offerOwn (s : State) (c : Nat) (r : SphCmd) : formsOk (s.offerOwn c r) ↔ formsOk s := by
  unfold State.offerOwn
  cases r.badFirst <;> cases r.errFirst <;> exact Iff.rfl

@[simp] theorem formsOk_completeSph (c : Nat) (r : SphCmd) (s : State) : formsOk (completeSph c r s) ↔ formsOk s := by
  unfold completeSph
  dsimp only
  split
  · simp
  · split <;> simp

@[simp] theorem formsOk_killOne (s : State) (n : Nat) : formsOk (s.killOne n) ↔ formsOk s := by
  have kills : ∀ l : List Step, formsOk (l.foldl (fun t k => t.killStep k.task k.step) s) ↔ formsOk s := fun l =>
    formsOk_foldl (fun t k => by simp) l s
  simp [State.killOne, kills]

@[simp] theorem formsOk_killTask (s : State) (n : Nat) : formsOk (s.killTask n) ↔ formsOk s := formsOk_foldl formsOk_killOne _ s

/-! ### The matrix engine's own records -/

@[simp] theorem formsOk_settle (s : State) (c n p : Nat) (f : Fate) : formsOk (s.settle c n p f) ↔ formsOk s := Iff.rfl
@[simp] theorem formsOk_landRow (s : State) (r : LatchRow) : formsOk (s.landRow r) ↔ formsOk s := Iff.rfl
@[simp] theorem formsOk_arrayCheck (s : State) (c pc i k : Nat) : formsOk (s.arrayCheck c pc i k) ↔ formsOk s := Iff.rfl
@[simp] theorem formsOk_updKey (s : State) (c k : Nat) (f : KeyRec → KeyRec) : formsOk (s.updKey c k f) ↔ formsOk s := Iff.rfl
@[simp] theorem formsOk_finishDrain (s : State) (c i : Nat) : formsOk (s.finishDrain c i) ↔ formsOk s := Iff.rfl

@[simp] theorem formsOk_checkLoad (s : State) (c : Nat) (o : ArrOp) (p n : Nat) : formsOk (s.checkLoad c o p n) ↔ formsOk s := by
  unfold State.checkLoad
  split <;> simp

@[simp] theorem formsOk_faultKey (s : State) (c k u : Nat) : formsOk (s.faultKey c k u) ↔ formsOk s := by
  unfold State.faultKey
  dsimp only
  split
  · simp
  · exact (formsOk_foldl (fun t (e : Nat × Nat) => formsOk_settle t c e.1 e.2 (.faulted u)) _ _).trans (formsOk_updKey s c k _)

/-! ### Task requests, joins, steps -/

@[simp] theorem formsOk_beginJoin (s : State) (c : Nat) (all : Bool) : formsOk (s.beginJoin c all) ↔ formsOk s := Iff.rfl
@[simp] theorem formsOk_takeJoin (s : State) (c : Nat) : formsOk (s.takeJoin c) ↔ formsOk s := Iff.rfl
@[simp] theorem formsOk_answered (s : State) (a : Nat) : formsOk (s.answered a) ↔ formsOk s := Iff.rfl
@[simp] theorem formsOk_requestMark (s : State) : formsOk s.requestMark ↔ formsOk s := by simp [State.requestMark]

@[simp] theorem formsOk_resumeCtx (s : State) (k : Step) (e : Nat × Nat) : formsOk (s.resumeCtx k e) ↔ formsOk s := by
  unfold State.resumeCtx
  dsimp only
  split
  · split <;> simp
  · simp
  · rfl

@[simp] theorem formsOk_invalidate (s : State) (n : Nat) : formsOk (s.invalidate n) ↔ formsOk s := by simp [State.invalidate]

@[simp] theorem formsOk_beginMerge (j : PendJoin) (p : Task) (c : Revision) (s : State) : formsOk (beginMerge j p c s) ↔ formsOk s := by
  unfold beginMerge
  dsimp only
  split <;> simp

@[simp] theorem formsOk_sealMerge (j : PendJoin) (p c : Revision) (s : State) : formsOk (sealMerge j p c s) ↔ formsOk s := by
  simp [sealMerge]

@[simp] theorem formsOk_withdraw (s : State) (k : Step) : formsOk (s.withdraw k) ↔ formsOk s :=
  formsOk_foldl (fun t c => formsOk_updCtx t c _) _ s

@[simp] theorem formsOk_withdrawFor (s : State) (n : Nat) : formsOk (s.withdrawFor n) ↔ formsOk s := formsOk_foldl formsOk_withdraw _ s

@[simp] theorem formsOk_grantRc (s : State) (t : Task) (c k : Nat) (rc : Vector (BitVec 32) 64) :
    formsOk (s.grantRc t c k rc) ↔ formsOk s := by
  unfold State.grantRc
  split <;> simp

@[simp] theorem formsOk_dropGrant (s : State) (k : Step) : formsOk (s.dropGrant k) ↔ formsOk s := Iff.rfl

@[simp] theorem formsOk_vacate (s : State) (k : Step) : formsOk (s.vacate k) ↔ formsOk s :=
  formsOk_foldl (fun t c => by simp [Tile.dropRows]) _ (s.dropGrant k)

@[simp] theorem formsOk_retireStep (k : Step) (s : State) : formsOk (retireStep k s) ↔ formsOk s := by simp [retireStep]

@[simp] theorem formsOk_rootOver (s : State) : formsOk s.rootOver ↔ formsOk s := by simp [State.rootOver]

/-! ### The issue turn's marks on the tile, the host side -/

@[simp] theorem formsOk_openTurn (s : State) (c : Nat) : formsOk (s.openTurn c) ↔ formsOk s := by
  unfold State.openTurn
  split <;> simp

@[simp] theorem formsOk_closeTurn (s : State) (c : Nat) (b : Bool) : formsOk (s.closeTurn c b) ↔ formsOk s := by
  unfold State.closeTurn
  split <;> simp

@[simp] theorem formsOk_freeLatch (s : State) (c : Nat) : formsOk (s.freeLatch c) ↔ formsOk s := by simp [State.freeLatch]

@[simp] theorem formsOk_broadcast (s : State) (l : List Byte) : formsOk (s.broadcast l) ↔ formsOk s := by
  unfold State.broadcast
  split
  · rfl
  · split
    · simp
    · split
      · rfl
      · exact formsOk_foldl (fun t e => by simp) _ s

@[simp] theorem formsOk_startIssue (t s : State) (b : Bundle) (l : List Byte) : formsOk (t.startIssue s b l) ↔ formsOk t := by
  simp [State.startIssue]

@[simp] theorem formsOk_headerPost (h : Hdr) (s : State) : formsOk (headerPost h s) ↔ formsOk s := by
  unfold headerPost
  split <;> simp

@[simp] theorem formsOk_refuse (s : State) : formsOk s.refuse ↔ formsOk s := Iff.rfl
@[simp] theorem formsOk_respond (s : State) (r : Resp) (l : List Byte) : formsOk (s.respond r l) ↔ formsOk s := Iff.rfl
@[simp] theorem formsOk_fatal (s : State) (r c i : Nat) : formsOk (s.fatal r c i) ↔ formsOk s := Iff.rfl

@[simp] theorem formsOk_downLinks (s : State) (m : Nat) : formsOk (s.downLinks m) ↔ formsOk s := by
  unfold State.downLinks
  split <;> simp

/-- A reset keeps device memory and clears every tile. -/
theorem resetModule_keeps {s : State} (h : formsOk s) (r g : Nat) : formsOk (s.resetModule r g) := by
  simpa [State.resetModule, State.reset] using h.1

theorem failStart_keeps {s : State} (h : formsOk s) (r g : Nat) : formsOk (s.failStart r g) := resetModule_keeps h r g

theorem endStart_keeps {s : State} (h : formsOk s) : formsOk s.endStart := by
  simpa [State.endStart, State.clearParts] using memClear_wf h.1 _ _

end Sys2Proof.Forms

/-! ### Traps, stores, atomics: acts that write memory -/

namespace Sys2Proof.Forms
open Sys2Proof.Machine Sys2Proof.Claims

@[simp] theorem putImage_keeps {s : State} (h : formsOk s) (a : Nat) (l : List (Nat × Nat × Nat)) : formsOk (s.putImage a l) :=
  fill_keeps h _ _ _

@[simp] theorem park_keeps {s : State} (h : formsOk s) (c : Nat) (t : Trap) : formsOk (s.park c t) := by
  have image : formsOk (match s.areaOf c with
      | some area => s.putImage area ((s.ctx c).imageFields 1 t.cause [])
      | none => s) := by
    split <;> simp [h]
  simp only [State.park, formsOk_offer, formsOk_updStep, formsOk_ite, formsOk_endLockstep, formsOk_updCtx, ite_self]
  exact image

@[simp] theorem takeTrap_keeps {s : State} (h : formsOk s) (t : Trap) : formsOk (takeTrap t s) := park_keeps (by simp [h]) _ _

@[simp] theorem takeCommitTrap_keeps {s : State} (h : formsOk s) (t : Trap) (n : Nat) : formsOk (takeCommitTrap t n s) :=
  park_keeps (by simp [h]) _ _

@[simp] theorem performStore_keeps {s : State} (h : formsOk s) (c : Nat) (e : StoreEnt) : formsOk (performStore c e s) := by
  simp [performStore, h]

theorem postsUpTo_keeps (c n : Nat) : ∀ (fuel : Nat) {s : State}, formsOk s → formsOk (postsUpTo c n fuel s)
  | 0, _, h => h
  | fuel + 1, s, h => by
    unfold postsUpTo
    split
    · exact postsUpTo_keeps c n fuel (by simp [h])
    · split
      · exact postsUpTo_keeps c n fuel (by simp [h])
      · exact h

@[simp] theorem postsFirst_keeps {s : State} (h : formsOk s) (c n : Nat) : formsOk (s.postsFirst c n) := postsUpTo_keeps c n _ h

@[simp] theorem doAtom_keeps {s : State} (h : formsOk s) (k : Nat) (a : Atom) : formsOk (s.doAtom k a) := by
  unfold State.doAtom
  dsimp only
  split <;> simp [h]

@[simp] theorem atomsUpTo_keeps {s : State} (h : formsOk s) (k : Nat) (p : Atom → Bool) : formsOk (s.atomsUpTo k p) := by
  unfold State.atomsUpTo
  dsimp only
  split
  · exact h
  · exact foldl_keeps (fun t a ht => by simp [ht]) _ h

@[simp] theorem hurryAtoms_keeps {s : State} (h : formsOk s) (c : Nat) : formsOk (s.hurryAtoms c) := atomsUpTo_keeps h _ _

@[simp] theorem ownFirst_keeps {s : State} (h : formsOk s) (c : Nat) : formsOk (s.ownFirst c) :=
  postsFirst_keeps (atomsUpTo_keeps h _ _) _ _

@[simp] theorem overlapAll_keeps {s : State} (h : formsOk s) (d : Nat) : formsOk (s.overlapAll d) := by
  have others : ∀ l : List Nat, formsOk (l.foldl (fun (t : State) e =>
      let u : State := { t with cur := e }
      takeTrap (u.trapHere 1 5 d) u) s) := fun l => foldl_keeps (fun t e ht => by simp [ht]) l h
  simp [State.overlapAll, others]

/-! ### Outcomes -/

/-- The next state, where there is one, has the canonical form. -/
def NextForms (o : Host.Outcome State Fault Refusal) : Prop := ∀ t, o = .next t → formsOk t

@[simp] theorem nextForms_next (t : State) : NextForms (.next t) ↔ formsOk t := by simp [NextForms]

@[simp] theorem nextForms_ite (c : Prop) [Decidable c] (x y : Host.Outcome State Fault Refusal) :
    NextForms (if c then x else y) ↔ if c then NextForms x else NextForms y := by
  split <;> rfl

/-- The state of an act that raised no trap has the canonical form. -/
def OkForms (e : Except Trap State) : Prop := ∀ t, e = .ok t → formsOk t

@[simp] theorem okForms_ok (t : State) : OkForms (.ok t) ↔ formsOk t := by simp [OkForms]
@[simp] theorem okForms_error (e : Trap) : OkForms (.error e) := by simp [OkForms]

@[simp] theorem okForms_ite (c : Prop) [Decidable c] (x y : Except Trap State) :
    OkForms (if c then x else y) ↔ if c then OkForms x else OkForms y := by
  split <;> rfl

@[simp] theorem okForms_bind {α : Type} {x : Except Trap α} {f : α → Except Trap State} (hf : ∀ a, OkForms (f a)) :
    OkForms (x >>= f) := by
  cases x with
  | error e => exact okForms_error e
  | ok a => exact hf a

/-- A check that traps, before the rest of an act. -/
theorem okForms_guard {c : Prop} [Decidable c] {α : Type} {e : Trap} {x : α → Except Trap State} {y : Except Trap State}
    (hy : OkForms y) : OkForms (if c then (Except.error e >>= x) else y) := by
  split
  · exact okForms_error e
  · exact hy

theorem run_keeps {g : Nat} {s : State} {f : State → State} (h : formsOk s) (hf : formsOk (f s)) : NextForms (run g s f) := by
  simp [run, h, hf]

theorem tryRun_keeps {g : Nat} {s : State} {f : State → Except Trap State} (h : formsOk s) (hf : OkForms (f s)) :
    NextForms (tryRun g s f) := by
  obtain e | ⟨t, ht, e⟩ | ⟨t, -, e⟩ := tryRun_cases g s f
  · simp [e, h]
  · simp [e, hf t ht]
  · simp [e, h]

theorem waitRun_keeps {g : Nat} {s : State} {r : State → Bool} {f : State → Except Trap State} (h : formsOk s)
    (hf : OkForms (f s)) : NextForms (waitRun g s r f) := by
  obtain e | e | ⟨t, ht, e⟩ | ⟨t, -, e⟩ := waitRun_cases g s r f
  · simp [e, h]
  · simp [e, h]
  · simp [e, hf t ht]
  · simp [e, h]

theorem streamRun_keeps {g : Nat} {s : State} {r : State → Bool} {n : State → Nat} {f : State → Except Trap State}
    (h : formsOk s) (hf : ∀ t, formsOk t → OkForms (f t)) : NextForms (streamRun g s r n f) := by
  have go : NextForms (match f (s.updMe fun x => { x with strWait := none }) with
      | .ok t => Host.Outcome.next t
      | .error e => .next (takeTrap e s)) := by
    split
    · rename_i t e
      simpa using hf _ (by simp [h]) t e
    · simp [h]
  unfold streamRun
  dsimp only
  split
  · simp [h]
  · split
    · exact go
    · simp [h]
    · split
      · simp [h]
      · split
        · exact go
        · simp [h]

end Sys2Proof.Forms

/-! ### Address translation, copies of pages, siphon commands -/

namespace Sys2Proof.Forms
open Sys2Proof.Machine Sys2Proof.Claims

theorem xlate_keeps {s t : State} {pump : Bool} {c : Nat} {rev : Revision} {va p : Nat} {wr : Bool} (h : formsOk s)
    (e : s.xlate pump c rev va wr = .ok (p, t)) : formsOk t := by
  unfold State.xlate at e
  split at e
  · split at e
    · cases e
    · cases e
      exact h
  · split at e
    · cases e
    · split at e
      · cases e
      · cases e
        rw [formsOk_mk, State.updCis_mem, State.updTile_mem, State.updCis_tiles, formsOn_updTile _ fun u => by split <;> rfl]
        simpa using h

@[simp] theorem copyLost_keeps {t : State} (h : formsOk t) (s : State) (d r n : Nat) : formsOk (t.copyLost s d r n) := by
  refine foldl_keeps (fun u g hu => ?_) _ h
  rw [formsOk_logAt]
  exact write_keeps hu _

@[simp] theorem copyFrame_keeps {s : State} (h : formsOk s) (d r : Nat) : formsOk (s.copyFrame d r) := by
  simp [State.copyFrame, h]

theorem takeFrame_keeps {s t : State} {f : Nat} (h : formsOk s) (e : s.takeFrame = some (f, t)) : formsOk t := by
  unfold State.takeFrame at e
  split at e
  · cases e
  · cases e
    exact h

theorem ownPage_keeps {s t : State} {rev : Revision} {va : Nat} (h : formsOk s) (e : s.ownPage rev va = some t) : formsOk t := by
  unfold State.ownPage at e
  split at e
  · cases e
    exact h
  · split at e
    · cases e
      exact h
    · split at e
      · split at e
        · cases e
        · rename_i f s1 hf
          have h1 := takeFrame_keeps h hf
          split at e
          · cases e
            exact h
          · cases e
            simp [h1]
      · cases e
        simp [h]

/-- What a translation of a side leaves: its state, or the state its fault is found in. -/
def SideForms (e : Except (Nat × Nat × State) (List (Nat × Nat × Nat) × State)) : Prop :=
  match e with
  | .ok (_, t) => formsOk t
  | .error (_, _, t) => formsOk t

theorem xlSide_keeps (c : Nat) (rev : Revision) (wr noHost : Bool) : ∀ (l : List (Nat × Nat × Nat)) {s : State}, formsOk s →
    SideForms (xlSide c rev wr noHost l s)
  | [], _, h => h
  | (o, n, a) :: r, s, h => by
    unfold xlSide
    split
    · simpa [SideForms] using h
    · rename_i p t e
      have ht := xlate_keeps h e
      have ih := xlSide_keeps c rev wr noHost r ht
      split
      · exact ht
      · split
        all_goals
          rename_i e2
          rw [e2] at ih
          exact ih

/-- What copying destination pages leaves. -/
def PagesForms (e : Except (Nat × State) State) : Prop :=
  match e with
  | .ok t => formsOk t
  | .error (_, t) => formsOk t

theorem ownPages_keeps (rev : Revision) : ∀ (l : List Nat) {s : State}, formsOk s → PagesForms (ownPages rev l s)
  | [], _, h => h
  | p :: r, s, h => by
    unfold ownPages
    dsimp only
    split
    · simpa [PagesForms] using h
    · rename_i t e
      exact ownPages_keeps rev r (ownPage_keeps (by simpa using h) e)

/-- What the translation of both sides of a command leaves. -/
def SidesForms : Sides → Prop
  | .ok _ _ t => formsOk t
  | .fail _ _ t => formsOk t
  | .refused _ t => formsOk t

theorem places_keeps (r : SphCmd) (own : Bool) (c : Nat) {s : State} (h : formsOk s) : SidesForms (r.places own c s) := by
  have source : SideForms (if r.sv then xlSide c (s.revOf c) false false r.sVas s else .ok (localPlaces s c r.sVas, s)) := by
    split
    · exact xlSide_keeps _ _ _ _ _ h
    · exact h
  unfold SphCmd.places
  dsimp only
  split
  · rename_i e
    rw [e] at source
    exact source
  · rename_i sp s1 e
    rw [e] at source
    have h1 : formsOk s1 := source
    split
    · split <;> exact h1
    · have dest := xlSide_keeps c (s.revOf c) true (r.form == 3 || r.add) r.dVas h1
      split
      · rename_i e2
        rw [e2] at dest
        exact dest
      · rename_i dp s2 e2
        rw [e2] at dest
        have h2 : formsOk s2 := dest
        split
        · exact h2
        · split
          · exact h2
          · have pages := ownPages_keeps (s.revOf c) (ascending (r.dVas.map fun p => p.2.2 / 65536)) h2
            split
            · rename_i e3
              rw [e3] at pages
              exact pages
            · rename_i s3 e3
              rw [e3] at pages
              have again := xlSide_keeps c (s.revOf c) true (r.form == 3 || r.add) r.dVas (s := s3) pages
              split
              all_goals
                rename_i e4
                rw [e4] at again
                exact again

/-- What an acceptance leaves, whichever way it ends. -/
def AcceptForms : Accept → Prop
  | .ok t => formsOk t
  | .trap _ t => formsOk t
  | .wait t => formsOk t

theorem acceptRest_keeps (r : SphCmd) {s : State} (h : formsOk s) : AcceptForms (acceptRest r s) := by
  have sides := places_keeps r true s.cur h
  unfold acceptRest
  split
  · exact h
  · split
    all_goals
      rename_i e
      rw [e] at sides
      exact sides

theorem accept_keeps (d : Option Draft) {s : State} (h : formsOk s) : AcceptForms (accept d s) := by
  unfold accept
  split
  · split
    · exact h
    · exact acceptRest_keeps _ h
  · split
    · exact h
    · split
      · exact h
      · split
        · exact h
        · split
          · exact h
          · split
            · exact h
            · exact acceptRest_keeps _ (by simpa using h)

theorem runAccept_keeps {g : Nat} {d : State → Option Draft} {s : State} (h : formsOk s) : NextForms (runAccept g d s) := by
  have accepted := accept_keeps (d s) h
  unfold runAccept
  split
  · split
    · rename_i e
      rw [e] at accepted
      exact (nextForms_next _).mpr accepted
    · rename_i e
      rw [e] at accepted
      exact (nextForms_next _).mpr (takeTrap_keeps accepted _)
    · rename_i e
      rw [e] at accepted
      exact (nextForms_next _).mpr accepted
  · simpa using h

/-! ### A command moves its bytes -/

@[simp] theorem moveBytes_keeps {s : State} (h : formsOk s) (c : Nat) (r : SphCmd) : formsOk (moveBytes c r s) := by
  unfold moveBytes
  refine store_keeps (s := ite _ _ _) ?_ _
  split <;> simp [h]

@[simp] theorem moveElement_keeps {s : State} (h : formsOk s) (c : Nat) (r : SphCmd) : formsOk (moveElement c r s) := by
  simp [moveElement, h]

@[simp] theorem moveAtom_keeps {s : State} (h : formsOk s) (c : Nat) (r : SphCmd) : formsOk (moveAtom c r s) := by
  simp [moveAtom, h]

@[simp] theorem moveLines_keeps {s : State} (h : formsOk s) (c : Nat) (r : SphCmd) : formsOk (moveLines c r s) := by
  simp [moveLines, h]

@[simp] theorem moveNext_keeps {s : State} (h : formsOk s) (c : Nat) (r : SphCmd) : formsOk (moveNext c r s) := by
  have taken : ∀ l : List Nat, formsOk (if !r.begun && r.overlapping then (s.correctBytes l).refill c l else s) := fun l => by simp [h]
  unfold moveNext
  split
  · simp [h]
  · dsimp only
    have ht := taken (placesOf r.sPlaces 0 r.stream)
    generalize (if !r.begun && r.overlapping then _ else s) = t at ht ⊢
    generalize (if r.begun then r else r.taken s c) = q
    split
    · exact moveElement_keeps ht c q
    · exact moveAtom_keeps ht c q
    · exact moveLines_keeps ht c q
    · simp [ht]

theorem retranslate_keeps {s : State} (h : formsOk s) (c : Nat) (r : SphCmd) : formsOk (retranslate c r s) := by
  have sides := places_keeps r true c h
  unfold retranslate
  split
  · rename_i e
    rw [e] at sides
    exact sides
  · rename_i e
    rw [e] at sides
    exact sides
  · rename_i e
    rw [e] at sides
    have ht : formsOk _ := sides
    simp [ht]

theorem reissue_keeps {s t : State} {c p i : Nat} {was : Option SphCmd} (h : formsOk s) (e : s.reissue c p i was = some t) :
    formsOk t := by
  unfold State.reissue at e
  dsimp only at e
  generalize SphCmd.withSides _ _ _ _ _ = q at e
  have sides := places_keeps q false c h
  split at e
  · cases e
  · split at e
    · rename_i e2
      cases e
      rw [e2] at sides
      exact sides
    · cases e

theorem reissueAll_keeps {c a : Nat} {l : List SphCmd} {s : State} (h : formsOk s) : ∀ (n : Nat) {t : State},
    s.reissueAll c a l n = some t → formsOk t
  | 0, t, e => by
    cases e
    exact h
  | n + 1, t, e => by
    obtain ⟨u, hu, e⟩ := Option.bind_eq_some_iff.mp e
    exact reissue_keeps (reissueAll_keeps h n hu) e

end Sys2Proof.Forms

/-! ### Slot instructions -/

namespace Sys2Proof.Forms
open Sys2Proof.Machine Sys2Proof.Claims

variable {s : State}

/-! Shapes that many instructions share. -/

theorem aluR_keeps (h : formsOk s) {g d a b x l : Nat} {f : Word → Word → Word} : NextForms (aluR g d a b x l f s) :=
  run_keeps h (by simp [h])

theorem aluI_keeps (h : formsOk s) {g d a x l : Nat} {k : Word} {f : Word → Word → Word} : NextForms (aluI g d a x l k f s) :=
  run_keeps h (by simp [h])

theorem cmpR_keeps (h : formsOk s) {g p a b x : Nat} {c : Word → Word → Bool} : NextForms (cmpR g p a b x c s) :=
  run_keeps h (by simp [h])

theorem cmpI_keeps (h : formsOk s) {g p a : Nat} {k : Word} {c : Word → Word → Bool} : NextForms (cmpI g p a k c s) :=
  run_keeps h (by simp [h])

theorem predR_keeps (h : formsOk s) {g d a b : Nat} {f : Bool → Bool → Bool} : NextForms (predR g d a b f s) :=
  run_keeps h (by simp [h])

theorem commitTrap_keeps (h : formsOk s) {g cause code : Nat} : NextForms (commitTrap g cause code s) :=
  run_keeps h (takeCommitTrap_keeps (by simp [h]) _ _)

theorem loadScalar_keeps (h : formsOk s) {n : Nat} {sg : Bool} {g f d b x o : Nat} : NextForms (loadScalar n sg g f d b x o s) := by
  refine waitRun_keeps h ?_
  dsimp only
  split <;> simp [h]

theorem storeScalar_keeps (h : formsOk s) {n g f r b x o : Nat} : NextForms (storeScalar n g f r b x o s) := by
  refine tryRun_keeps h ?_
  split <;> simp [h]

theorem advance_keeps (h : formsOk s) {role g q n : Nat} : NextForms (advance role g q n s) := by
  refine waitRun_keeps h ?_
  dsimp only
  split
  · simp
  · split <;> simp [h]

theorem atomic_keeps (h : formsOk s) {k : AtomKind} {g d a b c x : Nat} {pd : Option Nat} :
    NextForms (atomic k g d a b c x pd s) := by
  refine waitRun_keeps h ?_
  dsimp only
  split
  · simp
  · cases pd <;> simp [h]

theorem rcInc_keeps (h : formsOk s) {g c x n : Nat} : NextForms (rcInc g c x n s) := waitRun_keeps h (by simp [h])

theorem waitc_keeps (h : formsOk s) {g k : Nat} {n : State → Nat} : NextForms (waitc g k n s) := by
  refine waitRun_keeps h ?_
  split <;> simp [h]

theorem declare_keeps (h : formsOk s) {wr : Bool} {g p a l x : Nat} : NextForms (declare wr g p a l x s) :=
  tryRun_keeps h (by simp [h])

theorem loopBegin_keeps (h : formsOk s) (l n : Nat) : OkForms (loopBegin l n s) := by simp [loopBegin, h]

theorem stageAdv_keeps (h : formsOk s) {g : Nat} {n : State → Nat} : NextForms (stageAdv g n s) := tryRun_keeps h (by simp [h])

theorem stageSet_keeps (h : formsOk s) {g : Nat} {n : State → Nat} : NextForms (stageSet g n s) := tryRun_keeps h (by simp [h])

theorem stageWait_keeps (h : formsOk s) {g d : Nat} {n : State → Nat} : NextForms (stageWait g d n s) :=
  waitRun_keeps h (by simp [h])

theorem lanesF3_keeps (h : formsOk s) {sl l : Nat} {f : FEnv → FTy → RMode → FVal → FVal → FVal → Nat × FFlags}
    {g d a b m t r : Nat} : NextForms (lanesF3 sl l f g d a b m t r s) := run_keeps h (by simp [h])

theorem lanesFU_keeps (h : formsOk s) {f : FEnv → FTy → RMode → FVal → Nat × FFlags} {g d a m t r : Nat} :
    NextForms (lanesFU f g d a m t r s) := run_keeps h (by simp [h])

theorem lanesFN_keeps (h : formsOk s) {sl : Nat} {f : FEnv → FTy → Nat → Nat → Nat × FFlags} {g d a b m t : Nat} :
    NextForms (lanesFN sl f g d a b m t s) := run_keeps h (by simp [h])

theorem lanesCvt_keeps (h : formsOk s) {sl g d a e y m r : Nat} : NextForms (lanesCvt sl g d a e y m r s) :=
  run_keeps h (by simp [h])

theorem lanesI_keeps (h : formsOk s) {sl l : Nat} {f : Nat → Bool → Nat → Nat → Nat} {g d a b m n y : Nat} :
    NextForms (lanesI sl l f g d a b m n y s) := run_keeps h (by simp [h])

theorem lanesCmp_keeps (h : formsOk s) {w : Nat} {f : FEnv → Nat → Nat → Bool × FFlags} {g e a b m : Nat} :
    NextForms (lanesCmp w f g e a b m s) := run_keeps h (by simp [h])

theorem reduce_keeps (h : formsOk s) {o : RedOp} {g d a m t : Nat} : NextForms (reduce o g d a m t s) :=
  run_keeps h ((formsOk_landP s _).mpr h)

/-! Instructions with a shape of their own. -/

theorem execVld_keeps (h : formsOk s) {g f d b m x o : Nat} : NextForms (execVld g f d b m x o s) := by
  refine waitRun_keeps h ?_
  dsimp only
  split <;> simp [h]

theorem execVst_keeps (h : formsOk s) {g f r b m x o : Nat} : NextForms (execVst g f r b m x o s) := by
  refine tryRun_keeps h ?_
  split <;> simp [h]

theorem execVldb_keeps (h : formsOk s) {g f d b m x o : Nat} : NextForms (execVldb g f d b m x o s) := by
  refine waitRun_keeps h ?_
  dsimp only
  split <;> simp [h]

theorem execVldx_keeps (h : formsOk s) {g f d b m x i : Nat} : NextForms (execVldx g f d b m x i s) := by
  refine waitRun_keeps h ?_
  dsimp only
  split
  · simp
  · split
    · simp
    · rw [okForms_ok, formsOk_landP]
      exact foldl_keeps (fun t p ht => by simp [ht]) _ h

theorem execVstx_keeps (h : formsOk s) {g f r b m x i : Nat} : NextForms (execVstx g f r b m x i s) := by
  refine tryRun_keeps h ?_
  dsimp only
  split
  · simp
  · split <;> simp [h]

theorem execSpl_keeps (h : formsOk s) {g f r x o : Nat} : NextForms (execSpl g f r x o s) := by
  refine run_keeps h ?_
  split <;> simp [h]

theorem execQbind_keeps (h : formsOk s) {g q a b : Nat} : NextForms (execQbind g q a b s) := by
  refine tryRun_keeps h ?_
  dsimp only
  split
  · simp
  · split <;> simp [h]

theorem execQld_keeps (h : formsOk s) {g q f d k o : Nat} : NextForms (execQld g q f d k o s) := by
  refine waitRun_keeps h ?_
  dsimp only
  split
  · simp
  · split <;> simp [h]

theorem execQst_keeps (h : formsOk s) {g q f d k o : Nat} : NextForms (execQst g q f d k o s) := by
  refine waitRun_keeps h ?_
  dsimp only
  split
  · simp
  · split <;> simp [h]

theorem execQstat_keeps (h : formsOk s) {g q d k : Nat} : NextForms (execQstat g q d k s) := waitRun_keeps h (by simp [h])

theorem execFpost_keeps (h : formsOk s) {g t f n : Nat} : NextForms (execFpost g t f n s) := by
  refine tryRun_keeps h ?_
  split <;> simp [h]

theorem execRcSnap_keeps (h : formsOk s) {g a x : Nat} : NextForms (execRcSnap g a x s) := by
  refine waitRun_keeps h ?_
  dsimp only
  split <;> simp [h]

theorem execPhase_keeps (h : formsOk s) {g : Nat} : NextForms (execPhase g s) := by
  unfold execPhase
  repeat' split
  all_goals simp [h]

theorem execLpIdx_keeps (h : formsOk s) {g d k : Nat} : NextForms (execLpIdx g d k s) := by
  refine tryRun_keeps h ?_
  split
  · simp
  · split <;> simp [h]

theorem execLpBrk_keeps (h : formsOk s) {g : Nat} : NextForms (execLpBrk g s) := by
  refine tryRun_keeps h ?_
  split <;> simp [h]

theorem execFlClr_keeps (h : formsOk s) {g sel m : Nat} : NextForms (execFlClr g sel m s) := by
  refine run_keeps h ?_
  split <;> simp [h]

theorem execExit_keeps (h : formsOk s) {g : Nat} : NextForms (execExit g s) := tryRun_keeps h (by simp [h])

theorem execTidSet_keeps (h : formsOk s) {g t a x : Nat} : NextForms (execTidSet g t a x s) := by
  refine tryRun_keeps h ?_
  dsimp only
  split <;> simp [h]

theorem execTidGet_keeps (h : formsOk s) {g t d x w : Nat} : NextForms (execTidGet g t d x w s) := by
  refine tryRun_keeps h ?_
  split <;> simp [h]

theorem execStgRd_keeps (h : formsOk s) {g d k x : Nat} : NextForms (execStgRd g d k x s) := tryRun_keeps h (by simp [h])

/-! The matrix and stream slot. -/

theorem arrayOp_keeps (h : formsOk s) {g : Nat} {f : State → Except Trap State} (hf : OkForms (f s)) : NextForms (arrayOp g s f) :=
  tryRun_keeps h hf

theorem execMld_keeps (h : formsOk s) {g t a x o : Nat} : NextForms (execMld g t a x o s) := arrayOp_keeps h (by simp [h])

theorem execMcb_keeps (h : formsOk s) {g t a x : Nat} : NextForms (execMcb g t a x s) := by
  refine arrayOp_keeps h ?_
  split <;> simp [h]

theorem execMsc_keeps (h : formsOk s) {g a x : Nat} : NextForms (execMsc g a x s) := arrayOp_keeps h (by simp [h])

theorem execBagOpen_keeps (h : formsOk s) {g c x e : Nat} : NextForms (execBagOpen g c x e s) := by
  refine arrayOp_keeps h (okForms_guard (okForms_guard (okForms_bind fun ent => okForms_guard ?_)))
  split
  · simp
  · refine okForms_bind fun p => ?_
    dsimp only
    split
    · simp [h]
    · split <;> simp [h]

theorem execBagRows_keeps (h : formsOk s) {g c x q n : Nat} : NextForms (execBagRows g c x q n s) := by
  refine arrayOp_keeps h (okForms_bind fun b => okForms_bind fun l => okForms_guard ?_)
  dsimp only
  split
  · simp [h]
  · split <;> simp [h]

theorem execBagPump_keeps (h : formsOk s) {g c x : Nat} : NextForms (execBagPump g c x s) := by
  refine arrayOp_keeps h (okForms_bind fun b => okForms_bind fun l => ?_)
  split <;> simp [h]

theorem execBagClose_keeps (h : formsOk s) {g : Nat} : NextForms (execBagClose g s) := arrayOp_keeps h (by simp [h])

theorem execBagRep_keeps (h : formsOk s) {g a x : Nat} : NextForms (execBagRep g a x s) := arrayOp_keeps h (by simp [h])

theorem execSumpDr_keeps (h : formsOk s) {g c x t r f d : Nat} : NextForms (execSumpDr g c x t r f d s) :=
  arrayOp_keeps h (okForms_guard (okForms_bind fun _ => okForms_bind fun _ => by simp [h]))

theorem execSumpClr_keeps (h : formsOk s) {g fc c x f : Nat} : NextForms (execSumpClr g fc c x f s) :=
  arrayOp_keeps h (by simp [h])

theorem execZld_keeps (h : formsOk s) {g z a b x : Nat} : NextForms (execZld g z a b x s) :=
  streamRun_keeps h fun t ht => okForms_guard (okForms_bind fun _ => okForms_guard (by simp [ht]))

theorem execZst_keeps (h : formsOk s) {g z a x : Nat} : NextForms (execZst g z a x s) :=
  streamRun_keeps h fun t ht => by simp [ht]

theorem execZis_keeps (h : formsOk s) {g z a b o : Nat} : NextForms (execZis g z a b o s) :=
  streamRun_keeps h fun t ht => by simp [ht]

theorem execZun_keeps (h : formsOk s) {g z a b o : Nat} : NextForms (execZun g z a b o s) :=
  streamRun_keeps h fun t ht => by simp [ht]

theorem execZsb_keeps (h : formsOk s) {g z a b : Nat} : NextForms (execZsb g z a b s) :=
  streamRun_keeps h fun t ht => by simp [ht]

theorem execZma_keeps (h : formsOk s) {g d a b : Nat} : NextForms (execZma g d a b s) :=
  streamRun_keeps h fun t ht => by simp [ht]

theorem execZlen_keeps (h : formsOk s) {g d z : Nat} : NextForms (execZlen g d z s) :=
  streamRun_keeps h fun t ht => by simp [ht]

end Sys2Proof.Forms

/-! ### Launches and task requests -/

namespace Sys2Proof.Forms
open Sys2Proof.Machine Sys2Proof.Claims

variable {s : State}

@[simp] theorem writeRecord_keeps (h : formsOk s) (t : Task) (n c : Nat) : formsOk (s.writeRecord t n c) := by
  unfold State.writeRecord
  dsimp only
  split <;> simp [h]

@[simp] theorem acceptLaunch_keeps (h : formsOk s) (rev table va parent key : Nat) (kind : LaunchKind) (o : List Byte) :
    formsOk (acceptLaunch s rev table va parent key kind o) := by
  have written : ∀ t : Task, formsOk (match crecPlace (s.correctLaunch table va o) table (opbCrec o) with
      | some p => (s.correctLaunch table va o).write (cellsAt p (completionRecord t 0 0 ++ List.replicate 64 0))
      | none => s.correctLaunch table va o) := fun t => by split <;> simp [h]
  unfold acceptLaunch
  dsimp only
  split
  · exact writeRecord_keeps ((formsOk_mk ..).mpr (written _)) _ _ _
  · exact (formsOk_mk ..).mpr (written _)

/-- What the task engine's reply leaves. -/
def AskForms : Ask → Prop
  | .answer _ t => formsOk t
  | .fault _ => True
  | .wait t => formsOk t
  | .held t => formsOk t

theorem askLaunch_keeps (h : formsOk s) (va : Nat) : AskForms (askLaunch va s) := by
  unfold askLaunch
  split
  · trivial
  · split
    · exact h
    · exact acceptLaunch_keeps h _ _ _ _ _ _ _

theorem askFork_keeps (h : formsOk s) (va : Nat) : AskForms (askFork va s) := by
  unfold askFork
  split
  · exact h
  · split
    · trivial
    · split
      · trivial
      · split <;> exact h

theorem askChild_keeps (h : formsOk s) (t : Task) (all : Bool) : AskForms (askChild t all s) := by
  unfold askChild
  split
  · exact h
  · split <;> exact h

theorem joining_keeps (h : formsOk s) {a : Ask} (e : s.joining = some a) : AskForms a := by
  obtain ⟨j, -, rfl⟩ := Option.map_eq_some_iff.mp e
  split <;> exact h

theorem askJoin_keeps (h : formsOk s) (n : Nat) : AskForms (askJoin n s) := by
  unfold askJoin
  split
  · exact joining_keeps h ‹_›
  · split
    · trivial
    · exact askChild_keeps h _ _

theorem askJoinAll_keeps (h : formsOk s) : AskForms (askJoinAll s) := by
  unfold askJoinAll
  split
  · exact joining_keeps h ‹_›
  · split
    · exact h
    · exact askChild_keeps h _ _

theorem askKill_keeps (h : formsOk s) (n : Nat) : AskForms (askKill n s) := by
  unfold askKill
  split
  · trivial
  · split
    · trivial
    · split
      · split <;> exact h
      · split
        · exact h
        · exact (formsOk_killTask s n).mpr h

theorem askRgn_keeps (h : formsOk s) (va : Nat) : AskForms (askRgn va s) := by
  unfold askRgn
  split
  · split
    · trivial
    · exact (formsOk_correctRead s _ _ _).mpr h
  · trivial

theorem ask_keeps (h : formsOk s) (r : TaskReq) : AskForms (ask r s) := by
  cases r with
  | launch va => exact askLaunch_keeps h va
  | fork va => exact askFork_keeps h va
  | join n => exact askJoin_keeps h n
  | joinAll => exact askJoinAll_keeps h
  | kill n => exact askKill_keeps h n
  | rgn va => exact askRgn_keeps h va

@[simp] theorem requestTurn_keeps (h : formsOk s) (r : TaskReq) : formsOk (requestTurn r s) := by
  have reply := ask_keeps h r
  unfold requestTurn
  split
  · simp [h]
  · simp [h]
  · split
    · simp [h]
    · split
      · simp [h]
      · rename_i e
        rw [e] at reply
        exact reply
      · rename_i e
        rw [e] at reply
        exact reply
      · rename_i e
        rw [e] at reply
        exact reply

theorem taskRequest_keeps (h : formsOk s) {g : Nat} {r : State → TaskReq} {d : Option Nat} : NextForms (taskRequest g s r d) := by
  unfold taskRequest
  split
  · simp [h]
  · split
    · simp [h]
    · split <;> simp [h]

/-! ### Step control -/

@[simp] theorem formsOk_resumeStep (t k : Nat) (s : State) : formsOk (resumeStep t k s).2 ↔ formsOk s := by
  unfold resumeStep
  split
  · rfl
  · split
    · rfl
    · dsimp only
      split
      · simp
      · rw [formsOk_updStep]
        exact (formsOk_foldl (fun t e => formsOk_resumeCtx t _ e) _ _).trans (formsOk_correctImages s _)

@[simp] theorem formsOk_locate (t k g : Nat) (s : State) : formsOk (locate t k g s).2 ↔ formsOk s := by
  unfold locate
  split <;> rfl

@[simp] theorem formsOk_controlAnswer (code : Nat) (s : State) : formsOk (controlAnswer code s).2 ↔ formsOk s := by
  unfold controlAnswer
  dsimp only
  split
  · exact formsOk_resumeStep _ _ s
  · split
    · rfl
    · split
      · rfl
      · simp
  · exact formsOk_locate _ _ _ s

@[simp] theorem formsOk_controlTurn (code : Nat) (s : State) : formsOk (controlTurn code s) ↔ formsOk s := by
  unfold controlTurn
  split
  · simp
  · split <;> simp
  · simp

theorem stepControl_keeps (h : formsOk s) {g code : Nat} : NextForms (stepControl g code s) := by
  unfold stepControl
  split
  · exact commitTrap_keeps h
  · split
    · simp [h]
    · split <;> simp [h]

/-! ### Every slot instruction -/

theorem runSlot_keeps (h : formsOk s) (i : Instr) : NextForms (runSlot i s) := by
  unfold runSlot
  cases i
  case add | sub | mul | mulh | mulhn | div | divn | rem | remn | and | or | xor | andn | shl | shr | sha | min | max | minn
      | maxn => exact aluR_keeps h
  case clz | popc | addi | muli | andi | ori | xori | andni | shli | shri | shai | mini | maxi | minni | maxni =>
    exact aluI_keeps h
  case ceq | cne | clt | cle | cltn | clen => exact cmpR_keeps h
  case ceqi | cnei | clti | clei | cltni | cleni => exact cmpI_keeps h
  case pand | por | pxor => exact predR_keeps h
  case trap | sysc | brk => exact commitTrap_keeps h
  case syscResume | syscKillStep | syscLocate => exact stepControl_keeps h
  case lb | lbn | lh | lhn | lw | lwn | ld => exact loadScalar_keeps h
  case sb | sh | sw | sd => exact storeScalar_keeps h
  case qadvP | qadvC => exact advance_keeps h
  case atomAdd | atomMin | atomMax | atomXchg | atomCas | atomIncb => exact atomic_keeps h
  case rcIncReg | rcIncImm => exact rcInc_keeps h
  case waitcImm | waitcReg => exact waitc_keeps h
  case rwsR | rwsW => exact declare_keeps h
  case lpBegReg | lpBegImm => exact tryRun_keeps h (loopBegin_keeps h _ _)
  case stgAdvImm | stgAdvReg => exact stageAdv_keeps h
  case stgSetImm | stgSetReg => exact stageSet_keeps h
  case stgWlImm | stgWlReg => exact stageWait_keeps h
  case tlaunch | tfork | tjoin | tjoinAll | tkill | rgnSet => exact taskRequest_keeps h
  case sphCp | sphGth | sphSct | sphSctAdd | sphRed | sphFill | sphAtom | sphPre | sphImm => exact runAccept_keeps h
  case ffma | ffms | fnma | fadd | fsub | fmul | fdiv | ffmaW | ffmsW | fnmaW | faddW | fsubW | fmulW => exact lanesF3_keeps h
  case fsqrt | frcp | frsq | fexp2 | flog2 => exact lanesFU_keeps h
  case fmin | fmax | fabs | fneg | fscl | fminW | fmaxW | fabsW | fnegW | fsclW => exact lanesFN_keeps h
  case fcvt | fcvtW => exact lanesCvt_keeps h
  case iadd | isub | imul | imin | imax | iand | ior | ixor | ishl | ishr | isha | iaddW | isubW | imulW | iminW | imaxW | iandW
      | iorW | ixorW | ishlW | ishrW | ishaW => exact lanesI_keeps h
  case fcmp | icmp => exact lanesCmp_keeps h
  case vsum | vmaxr | vminr => exact reduce_keeps h
  case vld => exact execVld_keeps h
  case vst => exact execVst_keeps h
  case vldb => exact execVldb_keeps h
  case vldx => exact execVldx_keeps h
  case vstx => exact execVstx_keeps h
  case spl => exact execSpl_keeps h
  case qbind => exact execQbind_keeps h
  case qld => exact execQld_keeps h
  case qst => exact execQst_keeps h
  case qstat => exact execQstat_keeps h
  case fpost => exact execFpost_keeps h
  case rcSnap => exact execRcSnap_keeps h
  case phase => exact execPhase_keeps h
  case lpIdx => exact execLpIdx_keeps h
  case lpBrk => exact execLpBrk_keeps h
  case flClr => exact execFlClr_keeps h
  case exit => exact execExit_keeps h
  case tidSet => exact execTidSet_keeps h
  case tidGet => exact execTidGet_keeps h
  case stgRd => exact execStgRd_keeps h
  case mld => exact execMld_keeps h
  case mcb => exact execMcb_keeps h
  case msc => exact execMsc_keeps h
  case bagOpen => exact execBagOpen_keeps h
  case bagRows => exact execBagRows_keeps h
  case bagPump => exact execBagPump_keeps h
  case bagClose => exact execBagClose_keeps h
  case bagRep => exact execBagRep_keeps h
  case sumpDr => exact execSumpDr_keeps h
  case sumpClr => exact execSumpClr_keeps h
  case zld => exact execZld_keeps h
  case zst => exact execZst_keeps h
  case zis => exact execZis_keeps h
  case zun => exact execZun_keeps h
  case zsb => exact execZsb_keeps h
  case zma => exact execZma_keeps h
  case zlen => exact execZlen_keeps h
  case sphCnl => exact run_keeps h ((formsOk_cancel s _ _).mpr h)
  case lih | lihK | sel | pset | br | call | bra | ret | xbase | getm | setm | flGet | xf | fset | sps | aadd | aaddi | ashl
      | amov | sphStat | vsel | vperm | vbcLane | vbcImm | vmov | vexpmax | vnzs | vcmpk | fcls | mand | mor | mnot | mpop | vsp =>
    exact run_keeps h h
  case xcp => exact run_keeps h (by simp [h])
  all_goals exact (nextForms_next _).mpr h

end Sys2Proof.Forms

/-! ### The matrix engine -/

namespace Sys2Proof.Forms
open Sys2Proof.Machine Sys2Proof.Claims

variable {s : State}

/-- An addition into sump entries keeps every sump sorted and free of zero entries. -/
theorem putEntries_keeps (h : formsOk s) (t k first : Nat) (l : List WinEntry) :
    formsOk (s.updTile t fun u => u.putEntries k first l) := updTile_keeps h t (putEntries_ok (h.2 t) _ _ _)

@[simp] theorem clearRange_keeps (h : formsOk s) (t first n : Nat) : formsOk (s.updTile t fun u => u.clearRange first n) :=
  updTile_keeps h t (clearRange_ok (h.2 t) _ _)

@[simp] theorem takeRow_keeps (h : formsOk s) (c : Nat) (b : Bag) (n p tag wgt : Nat) (book : List (BitVec 16)) (ent : TidEntry)
    (fate : Fate) (rows : List (List Byte)) : formsOk (takeRow c b n p tag wgt book ent fate rows s) := by
  have added : ∀ t k first n l, formsOk ((s.correctSump t first n).updTile t fun u => u.putEntries k first l) :=
    fun t k first n l => putEntries_keeps (by simp [h]) t k first l
  unfold takeRow
  dsimp only
  split
  · exact added _ _ _ _ _
  · exact added _ _ _ _ _
  · simp [h]

@[simp] theorem formsOk_beginFeed (c : Nat) (o : ArrOp) (f : Feed) (s : State) : formsOk (beginFeed c o f s) ↔ formsOk s := by
  have settled : ∀ (t : State) (l : List RowEnt) (n : Nat),
      formsOk (l.foldl (fun t e => t.settle c n e.pos e.fate) t) ↔ formsOk t := fun t l n => formsOk_foldl (fun _ _ => by simp) l t
  unfold beginFeed
  split
  · rfl
  · simp [settled]

@[simp] theorem snapshot_keeps (h : formsOk s) (c p : Nat) : formsOk (snapshot c p s) := store_keeps h _

@[simp] theorem beginOp_keeps (h : formsOk s) (c : Nat) (o : ArrOp) : formsOk (beginOp c o s) := by
  unfold beginOp
  dsimp only
  split <;> simp [h]

@[simp] theorem formsOk_finishLoad (c tid : Nat) (e : TidEntry) (p n : Nat) (o : ArrOp) (s : State) :
    formsOk (finishLoad c tid e p n o s) ↔ formsOk s := by
  unfold finishLoad
  dsimp only
  split <;> simp

@[simp] theorem rowEnter_keeps (h : formsOk s) (c n p : Nat) : formsOk (rowEnter c n p s) := by
  unfold rowEnter
  split
  · exact h
  · split
    · split
      · exact takeRow_keeps h _ _ _ _ _ _ _ _ _ _
      · dsimp only
        split <;> split <;> simp [h]
    · exact h

/-- What a fetch of row bytes leaves: its state, or the state its fault is found in. -/
def FetchForms {α : Type} (e : Except (Nat × Nat × State) (α × State)) : Prop :=
  match e with
  | .ok (_, t) => formsOk t
  | .error (_, _, t) => formsOk t

/-- A fold of fetches keeps the canonical form when one fetch does. -/
theorem foldl_fetches {α β : Type} {f : Except (Nat × Nat × State) (α × State) → β → Except (Nat × Nat × State) (α × State)}
    (hf : ∀ e x, FetchForms e → FetchForms (f e x)) : ∀ (l : List β) {e : Except (Nat × Nat × State) (α × State)},
    FetchForms e → FetchForms (l.foldl f e)
  | [], _, h => h
  | x :: l, e, h => foldl_fetches hf l (hf e x h)

theorem fetchRow_keeps (h : formsOk s) (c n va : Nat) : FetchForms (fetchRow c n va s) := by
  refine foldl_fetches (fun e p he => ?_) _ h
  split
  · exact he
  · have ht : formsOk _ := he
    split
    · exact (formsOk_missed ..).mpr ht
    · rename_i e2
      have hu := xlate_keeps ht e2
      split
      · exact hu
      · split
        · exact hu
        · exact (formsOk_correct ..).mpr hu

theorem fetchKey_keeps (h : formsOk s) (c n : Nat) (k : KeyRec) : FetchForms (fetchKey c n k s) := by
  refine foldl_fetches (fun e va he => ?_) _ h
  split
  · exact he
  · rename_i l t
    have row := fetchRow_keeps (s := t) he c n va
    split
    all_goals
      rename_i e2
      rw [e2] at row
      exact row

@[simp] theorem tryFetch_keeps (h : formsOk s) (c key : Nat) (b : RunBag) (k : KeyRec) : formsOk (tryFetch c key b k s) := by
  have fetched := fetchKey_keeps h c (rowBytes b.bag) k
  unfold tryFetch
  split
  · rename_i e
    rw [e] at fetched
    exact fetched
  · rename_i e
    rw [e] at fetched
    have ht : formsOk _ := fetched
    simp [ht]
  · rename_i e
    rw [e] at fetched
    have ht : formsOk _ := fetched
    simp [ht]

@[simp] theorem drainGroup_keeps (h : formsOk s) (c : Nat) (o : ArrOp) (d : Drain) : formsOk (drainGroup c o d s) := by
  unfold drainGroup
  dsimp only
  split <;> simp [h]

end Sys2Proof.Forms

/-! ### Forks, merges, the task engine -/

namespace Sys2Proof.Forms
open Sys2Proof.Machine Sys2Proof.Claims

variable {s : State}

/-! Snapshots. -/

theorem shareLeaves_keeps (h : formsOk s) (p n : Nat) : formsOk (shareLeaves s p n) :=
  foldl_keeps (fun t e ht => by simp [ht]) _ h

theorem copyTable_keeps (h : formsOk s) (d r n : Nat) : formsOk (s.copyTable d r n) := copyLost_keeps (fill_keeps h _ _ _) _ _ _ _

theorem tablePlace_keeps (h : formsOk s) {room room' : Nat × Nat} {n f : Nat} {t : State}
    (e : s.tablePlace room n = some (f, room', t)) : formsOk t := by
  unfold State.tablePlace at e
  split at e
  · cases e
    exact h
  · obtain ⟨⟨k, u⟩, hu, e⟩ := Option.map_eq_some_iff.mp e
    cases e
    exact takeFrame_keeps h hu

/-- A fold that may fail keeps what each of its acts keeps. -/
theorem foldlM_keeps {α β : Type} {P : β → Prop} {f : β → α → Option β} (hf : ∀ b x b', P b → f b x = some b' → P b') :
    ∀ (l : List α) {b b' : β}, P b → l.foldlM f b = some b' → P b'
  | [], _, _, h, e => by
    cases e
    exact h
  | x :: l, b, b', h, e => by
    rw [List.foldlM_cons] at e
    obtain ⟨c, hc, e⟩ := Option.bind_eq_some_iff.mp e
    exact foldlM_keeps hf l (hf b x c h hc) e

theorem forkTable_keeps : ∀ (n p : Nat) (room : Nat × Nat) {s t : State} {f : Nat} {room' : Nat × Nat}, formsOk s →
    forkTable n p room s = some (f, room', t) → formsOk t
  | 0, p, room, s, t, f, room', h, e => by
    unfold forkTable at e
    obtain ⟨⟨g, r, u⟩, hu, e⟩ := Option.bind_eq_some_iff.mp e
    cases e
    exact copyTable_keeps (shareLeaves_keeps (by simpa using tablePlace_keeps h hu) _ _) _ _ _
  | n + 1, p, room, s, t, f, room', h, e => by
    unfold forkTable at e
    obtain ⟨⟨g, r, u⟩, hu, e⟩ := Option.bind_eq_some_iff.mp e
    refine foldlM_keeps (P := fun b : Nat × (Nat × Nat) × State => formsOk b.2.2) (fun b x b' hb e => ?_) _
      (copyTable_keeps (by simpa using tablePlace_keeps h hu) _ _ _) e
    split at e
    · cases e
      exact hb
    · obtain ⟨⟨g', r', u'⟩, hu', e⟩ := Option.bind_eq_some_iff.mp e
      cases e
      exact write_keeps (forkTable_keeps n _ _ hb hu') _

theorem forkRev_keeps (h : formsOk s) {p r : Revision} {n : Nat} {t : State} (e : s.forkRev p n = some (r, t)) : formsOk t := by
  unfold State.forkRev at e
  obtain ⟨root, -, e⟩ := Option.bind_eq_some_iff.mp e
  obtain ⟨⟨f, room, u⟩, hu, e⟩ := Option.bind_eq_some_iff.mp e
  cases e
  have hu := forkTable_keeps 3 root (0, 0) h hu
  simpa using hu

@[simp] theorem forkNow_keeps (h : formsOk s) (f : PendFork) (p : Revision) (o : List Byte) : formsOk (forkNow f p o s) := by
  unfold forkNow
  dsimp only
  split
  · simp [h]
  · rename_i e
    have ht := forkRev_keeps h e
    simp [ht]

/-! Joins. -/

@[simp] theorem endJoin_keeps (h : formsOk s) (j : PendJoin) (t : Task) (n : Nat) : formsOk (endJoin j t n s) := by
  unfold endJoin
  dsimp only
  have hs := (formsOk_correctWalk s (((s.findRev t.rev).map Revision.table).getD 0) (opbCrec t.opb % 2 ^ 56)).mpr h
  generalize s.correctWalk _ _ = u at hs ⊢
  have report : formsOk (match crecPlace u (((s.findRev t.rev).map Revision.table).getD 0) (opbCrec t.opb) with
      | some p => u.write (cellsAt (p + 64) (mergeReport t n j))
      | none => u) := by split <;> simp [hs]
  split
  all_goals
    simp only [formsOk_updCtx, formsOk_ite, formsOk_updTask, formsOk_dropRevision, ite_self]
    exact report

@[simp] theorem writePage_keeps (h : formsOk s) (j : PendJoin) (p : Revision) (v : Nat) (m : PageMerge) (l : List Nat) :
    formsOk (writePage j p v m l s) := by
  unfold writePage
  dsimp only
  split
  · simp [h]
  · split
    · simp [h]
    · have ht := ownPage_keeps h ‹_›
      split <;> simp [ht]

@[simp] theorem mergeNext_keeps (h : formsOk s) (j : PendJoin) (t p : Task) (rp rc : Revision) (l : List Nat) :
    formsOk (mergeNext j t p rp rc l s) := by
  unfold mergeNext
  dsimp only
  split
  · simp [h]
  · split <;> simp [h]

/-! Step start, resumption, pre-emption. -/

theorem takePool_keeps (h : formsOk s) {n p : Nat} {t : State} (e : s.takePool n = some (p, t)) : formsOk t := by
  unfold State.takePool at e
  split at e
  · cases e
  · dsimp only at e
    split at e
    · cases e
    · cases e
      exact h

theorem takePools_keeps (n : Nat) : ∀ (l : List Nat) {s t : State} {r : List (Nat × Nat)}, formsOk s →
    takePools n l s = some (r, t) → formsOk t
  | [], _, _, _, h, e => by
    cases e
    exact h
  | k :: l, s, t, r, h, e => by
    unfold takePools at e
    obtain ⟨⟨p, u⟩, hu, e⟩ := Option.bind_eq_some_iff.mp e
    obtain ⟨⟨q, v⟩, hv, e⟩ := Option.bind_eq_some_iff.mp e
    cases e
    exact takePools_keeps n l (takePool_keeps h hu) hv

theorem takeImages_keeps : ∀ (l : List (Nat × Nat)) {s t : State} {r : List (Nat × Nat)}, formsOk s →
    takeImages l s = some (r, t) → formsOk t
  | [], _, _, _, h, e => by
    cases e
    exact h
  | k :: l, s, t, r, h, e => by
    unfold takeImages at e
    obtain ⟨⟨p, u⟩, hu, e⟩ := Option.bind_eq_some_iff.mp e
    obtain ⟨⟨q, v⟩, hv, e⟩ := Option.bind_eq_some_iff.mp e
    cases e
    exact takeImages_keeps l (takePool_keeps h hu) hv

@[simp] theorem fillRange_keeps (h : formsOk s) (p n : Nat) (l : List Byte) : formsOk (s.fillRange p n l) := fill_keeps h _ _ _

@[simp] theorem startStep_keeps (h : formsOk s) (ch : Choice) : formsOk (startStep ch s) := by
  unfold startStep
  dsimp only
  split
  · exact h
  · rename_i s1 e
    have h1 := takePools_keeps _ _ h e
    have placed : ∀ (l : List (Nat × Nat)) (ms : List Member) (u : State), formsOk u →
        formsOk (ms.foldl (fun u m => u.putTids (8 * ch.cis + m.tile)
            (onTile (s.gangOf ch.cis (opbCtxs ch.task.opb) ch.members) (8 * ch.cis + m.tile)) (List.replicate 64 {}))
          (l.foldl (fun u e => u.updCtx e.2 fun x => startCtx x ch.task ch.step e.1) u)) := fun l ms u hu =>
      foldl_keeps (fun t m ht => by simp [ht]) ms (foldl_keeps (fun t e ht => by simp [ht]) l hu)
    split
    · refine (formsOk_engineKill ..).mpr (placed _ _ _ ?_)
      simp [h1]
    · refine foldl_keeps (fun t m ht => by simp [ht]) _ ?_
      rw [formsOk_correctRead]
      refine placed _ _ _ ?_
      simp [h1]

theorem reviveAll_keeps (h : formsOk s) {l : List (Nat × Nat)} {k : Step} {t : State} (e : reviveAll l k s = some t) : formsOk t := by
  refine foldlM_keeps (P := formsOk) (fun b x b' hb e => ?_) l h e
  split at e
  · obtain ⟨v, hv, e⟩ := Option.map_eq_some_iff.mp e
    subst e
    have hv := reissueAll_keeps (by simpa using hb) _ hv
    simpa using hv
  · cases e
    exact hb

theorem restoreMember_keeps (h : formsOk s) (c : Nat) (l : List (Nat × Nat)) (k : Step) (m : Member × Nat) :
    formsOk (restoreMember c l k s m) := by
  have image : formsOk (match k.images.find? fun e => e.1 == m.2 with
      | some e => ((s.correct e.2 (65536 * m.1.size)).fillRange (memberPlace c m.1) (65536 * m.1.size)
          (s.read e.2 (65536 * m.1.size))).copyLost s (memberPlace c m.1) e.2 (65536 * m.1.size)
      | none => s) := by split <;> simp [h]
  unfold restoreMember
  dsimp only
  split
  · rw [formsOk_putTids]
    exact image
  · exact image

theorem resumePrep_keeps (h : formsOk s) (ch : Choice) (k : Step) : formsOk (resumePrep ch k s) :=
  foldl_keeps (fun _ m ht => restoreMember_keeps ht _ _ _ m) _ (by simp [h])

@[simp] theorem resumeSaved_keeps (h : formsOk s) (ch : Choice) (k : Step) : formsOk (resumeSaved ch k s) := by
  unfold resumeSaved
  dsimp only
  split
  · simp [h]
  · split
    · simp [h]
    · rename_i e
      have ht := reviveAll_keeps (resumePrep_keeps (s := s.correctSaved k) (by simpa using h) ch k) e
      simpa using ht

theorem saveCtx_keeps (h : formsOk s) (k : Step) (e : Nat × Nat) : formsOk (s.saveCtx k e) := by
  unfold State.saveCtx
  dsimp only
  split <;> simp [h]

theorem putTileImage_keeps (h : formsOk s) (k : Step) (m : Member × Nat) (p : Nat) : formsOk (s.putTileImage k m p) := write_keeps h _

@[simp] theorem saveGang_keeps (h : formsOk s) (k : Step) : formsOk (saveGang k s) := by
  unfold saveGang
  split
  · exact h
  · rename_i e
    have h1 := takeImages_keeps _ h e
    dsimp only
    rw [formsOk_updTask, formsOk_vacate, formsOk_renameWaits, formsOk_updStep]
    refine foldl_keeps (fun _ _ ht => putTileImage_keeps ht _ _ _) _ ?_
    refine foldl_keeps (fun _ _ ht => by simp [ht]) _ ?_
    exact foldl_keeps (fun _ _ ht => saveCtx_keeps ht _ _) _ h1

/-! Records, completion. -/

@[simp] theorem recordTask_keeps (h : formsOk s) (t : Task) : formsOk (recordTask t s) := by simp [recordTask, h]

@[simp] theorem completeTask_keeps (h : formsOk s) (t : Task) : formsOk (completeTask t s) := by
  unfold completeTask
  repeat' split
  all_goals simp [h]

theorem refuseRecord_keeps (h : formsOk s) (n : Nat) (cb : Option Nat) : formsOk (refuseRecord n cb s) := by
  unfold refuseRecord
  dsimp only
  split
  · exact h
  · exact write_keeps ((formsOk_mk ..).mpr h) _

theorem writeFault_keeps (h : formsOk s) (n : Nat) (r : FRec) (cb slot : Nat) : formsOk (writeFault n r cb slot s) := by
  have posted : ∀ c f, formsOk (if c < 384 then
      ((s.write (cellsAt slot r.bytes)).write (cellsAt cb (bytesOfNat 8 (s.readNat cb 8 + 1)))).updCtx c f
      else (s.write (cellsAt slot r.bytes)).write (cellsAt cb (bytesOfNat 8 (s.readNat cb 8 + 1)))) := fun c f => by simp [h]
  unfold writeFault
  dsimp only
  split <;> exact posted _ _

@[simp] theorem offerRecord_keeps (h : formsOk s) (n : Nat) (r : FRec) : formsOk (offerRecord n r s) := by
  unfold offerRecord
  split
  · exact refuseRecord_keeps h _ _
  · split
    · split
      · exact writeFault_keeps h _ _ _ _
      · exact refuseRecord_keeps h _ _
    · exact refuseRecord_keeps h _ _

@[simp] theorem launchRoot_keeps (h : formsOk s) (va : Nat) (o : List Byte) : formsOk (launchRoot va o s) := by
  have launched : ∀ r n, formsOk (acceptLaunch { s with revs := [r], nextRev := n } r.id r.table va 0 0 .root o) := fun r n =>
    acceptLaunch_keeps ((formsOk_mk ..).mpr h) _ _ _ _ _ _ _
  unfold launchRoot
  dsimp only
  split
  · exact (formsOk_rootOver _).mpr (launched _ _)
  · exact launched _ _

end Sys2Proof.Forms

/-! ### The issue of a bundle -/

namespace Sys2Proof.Forms
open Sys2Proof.Machine Sys2Proof.Claims

variable {s : State}

@[simp] theorem slotResult_keeps (h : formsOk s) (i : Instr) : formsOk (slotResult i s) := by
  unfold slotResult
  split
  · exact runSlot_keeps h i _ ‹_›
  · exact h

@[simp] theorem landedView_keeps (h : formsOk s) (d : Hdr) : formsOk (s.landedView d) := by simp [State.landedView, h]

/-- What a wait before the issue cycle leaves, whether it lets the bundle go on or not. -/
def WaitForms (e : Except State State) : Prop :=
  match e with
  | .ok t => formsOk t
  | .error t => formsOk t

@[simp] theorem waitForms_ok (t : State) : WaitForms (.ok t) ↔ formsOk t := Iff.rfl
@[simp] theorem waitForms_error (t : State) : WaitForms (.error t) ↔ formsOk t := Iff.rfl

@[simp] theorem waitForms_ite (c : Prop) [Decidable c] (x y : Except State State) :
    WaitForms (if c then x else y) ↔ if c then WaitForms x else WaitForms y := by
  split <;> rfl

/-- Waits in order. -/
theorem waitForms_bind {x : Except State State} {f : State → Except State State} (hx : WaitForms x)
    (hf : ∀ t, formsOk t → WaitForms (f t)) : WaitForms (x >>= f) := by
  cases x with
  | error t => exact hx
  | ok t => exact hf t hx

theorem drainTurn_keeps (h : formsOk s) : WaitForms (drainTurn s) := by
  unfold drainTurn
  split
  · simp [h]
  · split
    · simp [h]
    · split <;> simp [h]

theorem drainWait_keeps (h : formsOk s) (b : Bundle) : WaitForms (drainWait b s) := by simp [drainWait, drainTurn_keeps, h]

theorem headerWait_keeps (h : formsOk s) (b : Bundle) : WaitForms (headerWait b s) := by simp [headerWait, h]

theorem stageTurn_keeps (h : formsOk s) (b : Bundle) : WaitForms (stageTurn b s) := by
  unfold stageTurn
  split
  · exact h
  · split
    · simp [h]
    · split
      · exact h
      · split <;> simp [h]

theorem closureStop_keeps (h : formsOk s) {t : State} (e : closureStop s = some t) : formsOk t := by
  unfold closureStop at e
  split at e
  · split at e
    · cases e
    · cases e
      exact h
  · cases e

theorem requestWait_keeps (h : formsOk s) (b : Bundle) : WaitForms (requestWait b s) := by
  unfold requestWait
  dsimp only
  split
  · exact h
  · split
    · split
      · exact closureStop_keeps h ‹_›
      · simp [h]
    · split <;> simp [h]

theorem slotWait_keeps (h : formsOk s) (i : Instr) (d : Hdr) : WaitForms (slotWait i d s) := by simp [slotWait, h]

theorem memWait_keeps (h : formsOk s) (b : Bundle) : WaitForms (memWait b s) := by simp [memWait, slotWait_keeps, h]

theorem bankWait_keeps (h : formsOk s) (b : Bundle) : WaitForms (bankWait b s) := by
  unfold bankWait
  dsimp only
  split
  · simp [h]
  · split <;> simp [h]

theorem streamTurn_keeps (h : formsOk s) (b : Bundle) : WaitForms (streamTurn b s) := by
  have waited := slotWait_keeps h b.2.2.2 (hdrOf b)
  unfold streamTurn
  split
  · rename_i e
    rw [e] at waited
    exact waited
  · rename_i e
    rw [e] at waited
    have ht : formsOk _ := waited
    simp [ht]

theorem roomCheck_keeps (h : formsOk s) (b : Bundle) : WaitForms (roomCheck b s) := by simp [roomCheck, h]

theorem faultCheck_keeps (h : formsOk s) (b : Bundle) : WaitForms (faultCheck b s) := by
  unfold faultCheck
  dsimp only
  split <;> simp [h]

theorem mergeWait_keeps (h : formsOk s) (b : Bundle) : WaitForms (mergeWait b s) := by simp [mergeWait, h]

theorem beforeAccept_keeps (h : formsOk s) (b : Bundle) : WaitForms (beforeAccept b s) :=
  waitForms_bind (drainWait_keeps h b) fun _ h => waitForms_bind (headerWait_keeps h b) fun _ h =>
    waitForms_bind (stageTurn_keeps h b) fun _ h => waitForms_bind (requestWait_keeps h b) fun _ h =>
      waitForms_bind (memWait_keeps h b) fun _ h => waitForms_bind (bankWait_keeps h b) fun _ h =>
        waitForms_bind (streamTurn_keeps h b) fun _ h => waitForms_bind (roomCheck_keeps h b) fun _ h =>
          waitForms_bind (faultCheck_keeps h b) fun _ h => mergeWait_keeps h b

@[simp] theorem otherSlots_keeps (h : formsOk s) (b : Bundle) (fp : Bool) : formsOk (otherSlots b fp s) := by
  unfold otherSlots
  dsimp only
  have lanes := slotResult_keeps (slotResult_keeps h b.2.2.1) b.2.2.2
  split
  · exact lanes
  · exact slotResult_keeps lanes _

@[simp] theorem formsOk_finishBundle (b : Bundle) (s : State) : formsOk (finishBundle b s) ↔ formsOk s := by simp [finishBundle]

theorem runCycle_keeps {t : State} (h : formsOk t) (b : Bundle) (l : List Byte) (s : State) : formsOk (runCycle b l s t) := by
  have slots : ∀ fp, formsOk ((otherSlots b fp (t.startIssue s b l)).freeLatch s.cur) := fun fp => by simp [h]
  unfold runCycle
  dsimp only
  split
  · exact slots _
  · cases (s.hurryAtoms s.cur).me.fpDue with
    | some p => simp [slots]
    | none => simp [slots]

theorem landingTrap_keeps {v : State} (h : formsOk v) (p : Pend) (s : State) : formsOk (landingTrap p s v) := by
  simp [landingTrap, h]

theorem issueCycle_keeps (h : formsOk s) (b : Bundle) (l : List Byte) : formsOk (issueCycle b l s) := by
  have hv := landedView_keeps h (hdrOf b)
  have ht := slotResult_keeps hv b.2.1
  unfold issueCycle
  dsimp only
  split
  · exact ht
  · split
    · simp [ht]
    · split
      · refine landingTrap_keeps ?_ _ _
        split
        · exact ht
        · exact hv
      · exact runCycle_keeps ht b l s

@[simp] theorem issueDecoded_keeps (h : formsOk s) (b : Bundle) (l : List Byte) : formsOk (issueDecoded b l s) := by
  have waited := beforeAccept_keeps h b
  unfold issueDecoded
  split
  · rename_i e
    rw [e] at waited
    exact waited
  · rename_i e
    rw [e] at waited
    have ht : formsOk _ := waited
    exact issueCycle_keeps (by simp [loadOrder, ht]) b l

/-! ### A turn of a context -/

@[simp] theorem bubbleCycle_keeps (h : formsOk s) : formsOk (bubbleCycle s) := by
  have ht := hurryAtoms_keeps h s.cur
  unfold bubbleCycle
  dsimp only
  split
  · simp [ht]
  · split <;> simp [ht]

@[simp] theorem followerWait_keeps (h : formsOk s) : formsOk (followerWait s) := by
  unfold followerWait
  split
  · exact h
  · rename_i c _
    have drained := drainTurn_keeps (s := s.updMe fun x => { x with pc := (s.ctx c).pc }) h
    split
    · split
      all_goals
        rename_i e
        rw [e] at drained
        exact drained
    · exact h

@[simp] theorem bundleTurn_keeps (h : formsOk s) (l : List Byte) : formsOk (bundleTurn l s) := by
  unfold bundleTurn
  split <;> simp [h]

/-- What a fetch leaves. -/
def FetchedForms : Fetched → Prop
  | .bundle _ t => formsOk t
  | .trap _ t => formsOk t

theorem freshFetch_keeps (h : formsOk s) (t : Task) : FetchedForms (freshFetch t s) := by
  unfold freshFetch
  dsimp only
  split
  · exact h
  · split
    · exact h
    · show formsOk _
      simp [h]

theorem fetchBundle_keeps (h : formsOk s) : FetchedForms (fetchBundle s) := by
  unfold fetchBundle
  dsimp only
  split
  · exact h
  · split
    · exact h
    · split
      · exact freshFetch_keeps h _
      · split
        · exact freshFetch_keeps ((formsOk_choose s 3).mpr h) _
        · exact h
        · split <;> exact h

@[simp] theorem fetchTurn_keeps (h : formsOk s) : formsOk (fetchTurn s) := by
  have fetched := fetchBundle_keeps h
  unfold fetchTurn
  split
  · split <;> simp [h]
  · split
    · simp [h]
    · split
      · rename_i e
        rw [e] at fetched
        exact takeTrap_keeps fetched _
      · rename_i e
        rw [e] at fetched
        exact bundleTurn_keeps ((formsOk_updMe _ _).mpr fetched) _

@[simp] theorem fetchSecond_keeps (h : formsOk s) (d : Nat) : formsOk (s.fetchSecond d) := by
  have fetched := fetchBundle_keeps (s := { s with cur := d }) h
  unfold State.fetchSecond
  dsimp only
  split
  · split
    · rename_i e
      rw [e] at fetched
      exact fetched
    · exact h
  · exact h

@[simp] theorem countedTurn_keeps (h : formsOk s) : formsOk (countedTurn s) := by
  unfold countedTurn
  repeat' split
  all_goals simp [h]

@[simp] theorem watched_keeps (h : formsOk s) : formsOk (watched s) := by simp [watched, watchdogTrap, h]

@[simp] theorem runningTurn_keeps (h : formsOk s) : formsOk (runningTurn s) := by simp [runningTurn, h]

@[simp] theorem issueTurn_keeps (h : formsOk s) : formsOk (issueTurn s) := by
  have opened := fetchSecond_keeps ((formsOk_openTurn s s.cur).mpr h) (otherCtx s.cur)
  have run := runningTurn_keeps opened
  simp [issueTurn, h, run]

end Sys2Proof.Forms

/-! ### The part's own agents -/

namespace Sys2Proof.Forms
open Sys2Proof.Machine Sys2Proof.Claims

variable {s : State}

/-! #### Contexts -/

theorem execIssueBundle_keeps (h : formsOk s) : NextForms (execIssueBundle s) := (nextForms_next _).mpr (issueTurn_keeps h)

theorem execResultLand_keeps (h : formsOk s) : NextForms (execResultLand s) := by
  simp [execResultLand, h]

theorem execOverlapYield_keeps (h : formsOk s) : NextForms (execOverlapYield s) := by
  simp [execOverlapYield, h]

theorem execWatchdogTrap_keeps (h : formsOk s) : NextForms (execWatchdogTrap s) := by
  simp [execWatchdogTrap, h]

theorem execStorePerform_keeps (h : formsOk s) : NextForms (execStorePerform s) := by
  unfold execStorePerform
  cases s.headStore s.arg.c <;> simp [h]

theorem execAtomicPerform_keeps (h : formsOk s) : NextForms (execAtomicPerform s) := by
  unfold execAtomicPerform
  cases s.headAtom s.arg.n <;> simp [h]

theorem execFlagPostEffect_keeps (h : formsOk s) : NextForms (execFlagPostEffect s) := by simp [execFlagPostEffect, h]

theorem execKill_keeps (h : formsOk s) : NextForms (execKill s) := by simp [execKill, h]

/-! #### The siphon -/

theorem execSiphonTransfer_keeps (h : formsOk s) : NextForms (execSiphonTransfer s) := by
  unfold execSiphonTransfer
  cases (s.ctx s.arg.c).sphRec s.arg.k <;> simp [retranslate_keeps, h]

theorem execSiphonComplete_keeps (h : formsOk s) : NextForms (execSiphonComplete s) := by
  unfold execSiphonComplete
  cases (s.ctx s.arg.c).sphRec s.arg.k <;> simp [h]

theorem execReserveRefusalRetry_keeps (h : formsOk s) : NextForms (execReserveRefusalRetry s) := by
  simp [execReserveRefusalRetry, h]

/-! #### The matrix engine -/

theorem execArrayOpStart_keeps (h : formsOk s) : NextForms (execArrayOpStart s) := by
  unfold execArrayOpStart
  cases (s.ctx s.arg.c).mx <;> simp [h]

theorem execPumpFeedBegin_keeps (h : formsOk s) : NextForms (execPumpFeedBegin s) := by
  unfold execPumpFeedBegin
  cases (s.ctx s.arg.c).mx with
  | nil => simp [h]
  | cons o r => dsimp only; split <;> simp [h]

theorem execArrayOpComplete_keeps (h : formsOk s) : NextForms (execArrayOpComplete s) := by
  unfold execArrayOpComplete
  cases (s.ctx s.arg.c).mx with
  | nil => simp [h]
  | cons o r =>
    dsimp only
    split
    · simp [h]
    · split <;> simp [h]

theorem execRowIn_keeps (h : formsOk s) : NextForms (execRowIn s) := by simp [execRowIn, h]

theorem execPumpFetchReturn_keeps (h : formsOk s) : NextForms (execPumpFetchReturn s) := by
  unfold execPumpFetchReturn
  cases s.keyIn s.arg.c s.arg.k .fetching <;> simp [h]

theorem execPumpWalkRetry_keeps (h : formsOk s) : NextForms (execPumpWalkRetry s) := by
  unfold execPumpWalkRetry
  cases s.keyIn s.arg.c s.arg.k .parked <;> simp [h]

theorem execQueueStageAdvance_keeps (h : formsOk s) : NextForms (execQueueStageAdvance s) := by
  unfold execQueueStageAdvance
  dsimp only
  repeat' split
  all_goals simp [h]

theorem execBagCloseComplete_keeps (h : formsOk s) : NextForms (execBagCloseComplete s) := by
  have written : ∀ (t p n : Nat) (l : List Host.Cell), formsOk ((s.correctSump t p n).store l) := fun t p n l =>
    store_keeps ((formsOk_correctSump s t p n).mpr h) l
  unfold execBagCloseComplete
  refine (nextForms_next _).mpr ?_
  dsimp only
  split
  · exact h
  · cases (s.ctx s.arg.c).bagRun with
    | none => exact h
    | some b => exact written _ _ _ _

theorem execDrainRow_keeps (h : formsOk s) : NextForms (execDrainRow s) := by
  unfold execDrainRow
  cases (s.ctx s.arg.c).drainOp <;> simp [h]

theorem execSpoutLatchEntry_keeps (h : formsOk s) : NextForms (execSpoutLatchEntry s) := by
  unfold execSpoutLatchEntry
  dsimp only
  cases (s.tile s.arg.t).waiting <;> simp [h]

/-! #### The task engine -/

theorem execStepPlace_keeps (h : formsOk s) : NextForms (execStepPlace s) := by
  unfold execStepPlace
  cases s.choice <;> simp [h]

theorem execStepResume_keeps (h : formsOk s) : NextForms (execStepResume s) := by
  unfold execStepResume
  cases s.choice with
  | none => simp [h]
  | some ch => cases e : ch.saved <;> simp [e, h]

theorem execStepRetire_keeps (h : formsOk s) : NextForms (execStepRetire s) := by
  unfold execStepRetire
  cases s.findStep s.arg.t s.arg.n <;> simp [h]

theorem execTaskComplete_keeps (h : formsOk s) : NextForms (execTaskComplete s) := by
  unfold execTaskComplete
  cases s.findTask s.arg.t <;> simp [h]

theorem execTaskAgeing_keeps (h : formsOk s) : NextForms (execTaskAgeing s) := by
  unfold execTaskAgeing
  cases s.findTask s.arg.t <;> simp [h]

theorem execPreemptRequest_keeps (h : formsOk s) : NextForms (execPreemptRequest s) := by
  have asked : ∀ l : List Nat, formsOk (l.foldl (fun u c => u.updCtx c fun x => { x with preempt := true }) s) := fun l =>
    (formsOk_foldl (fun u c => formsOk_updCtx u c _) l s).mpr h
  unfold execPreemptRequest
  repeat' split
  all_goals simp [asked, h]

theorem execPreemptWithdraw_keeps (h : formsOk s) : NextForms (execPreemptWithdraw s) := by
  unfold execPreemptWithdraw
  cases s.findStep s.arg.t s.arg.n <;> simp [h]

theorem execGangPreempt_keeps (h : formsOk s) : NextForms (execGangPreempt s) := by
  unfold execGangPreempt
  cases s.findStep s.arg.t s.arg.n <;> simp [h]

theorem execStageApply_keeps (h : formsOk s) : NextForms (execStageApply s) := by simp [execStageApply, h]

theorem execStageCacheUpdate_keeps (h : formsOk s) : NextForms (execStageCacheUpdate s) := by simp [execStageCacheUpdate, h]

theorem execFaultRecordOffer_keeps (h : formsOk s) : NextForms (execFaultRecordOffer s) := by
  unfold execFaultRecordOffer
  cases s.firstRecord s.arg.n <;> simp [h]

theorem execFaultRecordRetry_keeps (h : formsOk s) : NextForms (execFaultRecordRetry s) := (nextForms_next _).mpr h

theorem execForkSnapshot_keeps (h : formsOk s) : NextForms (execForkSnapshot s) := by
  unfold execForkSnapshot
  dsimp only
  repeat' split
  all_goals simp [h]

theorem execJoinMerge_keeps (h : formsOk s) : NextForms (execJoinMerge s) := by
  unfold execJoinMerge
  repeat' split
  all_goals simp [h]

theorem execRevisionReserveRetry_keeps (h : formsOk s) : NextForms (execRevisionReserveRetry s) := by
  simp [execRevisionReserveRetry, h]

theorem execTlbInvalidateComplete_keeps (h : formsOk s) : NextForms (execTlbInvalidateComplete s) := by
  unfold execTlbInvalidateComplete
  cases s.invs <;> simp [h]

/-! ### The host, the management controller, the links -/

theorem execRootLaunch_keeps (h : formsOk s) : NextForms (execRootLaunch s) := by
  unfold execRootLaunch
  repeat' split
  all_goals simp [h]

theorem execTlbinv_keeps (h : formsOk s) : NextForms (execTlbinv s) := by
  unfold execTlbinv
  repeat' split
  all_goals simp [h]

theorem execFlagWindowPost_keeps (h : formsOk s) : NextForms (execFlagWindowPost s) := by simp [execFlagWindowPost, h]

theorem execRegisterWrite_keeps (h : formsOk s) : NextForms (execRegisterWrite s) := by simp [execRegisterWrite, h]

theorem execBootStart_keeps (h : formsOk s) : NextForms (execBootStart s) := by simp [execBootStart, h]

theorem execFatalError_keeps (h : formsOk s) : NextForms (execFatalError s) := by simp [execFatalError, h]

theorem execMailboxImageReplace_keeps (h : formsOk s) : NextForms (execMailboxImageReplace s) := by simp [execMailboxImageReplace, h]

theorem execHostMemWrite_keeps (h : formsOk s) : NextForms (execHostMemWrite s) := by simp [execHostMemWrite, h]

theorem execHostMemRead_keeps (h : formsOk s) : NextForms (execHostMemRead s) := by simp [execHostMemRead, h]

@[simp] theorem nextStage_keeps (h : formsOk s) : formsOk s.nextStage := by
  unfold State.nextStage
  dsimp only
  split
  · exact failStart_keeps h _ _
  · simp [h]

theorem trip_keeps (h : formsOk s) : formsOk s.trip := by simp [State.trip, failStart_keeps, h]

theorem execBootWatchdog_keeps (h : formsOk s) : NextForms (execBootWatchdog s) := by
  simp [execBootWatchdog, failStart_keeps, h]

theorem execBootStageDone_keeps (h : formsOk s) : NextForms (execBootStageDone s) := by
  unfold execBootStageDone
  split <;> simp [failStart_keeps, endStart_keeps, h]

theorem execDumpComplete_keeps (h : formsOk s) : NextForms (execDumpComplete s) := by simp [execDumpComplete, h]

theorem execGaleRemoteAccess_keeps (h : formsOk s) : NextForms (execGaleRemoteAccess s) := by
  simp [execGaleRemoteAccess, h]

theorem execFlitCrcFail_keeps (h : formsOk s) : NextForms (execFlitCrcFail s) := by
  unfold execFlitCrcFail
  split <;> simp [h]

theorem execLanePersistentFault_keeps (h : formsOk s) : NextForms (execLanePersistentFault s) := by
  simp [execLanePersistentFault, h]

end Sys2Proof.Forms

/-! ### Every step -/

namespace Sys2Proof.Forms
open Sys2Proof.Machine Sys2Proof.Claims

variable {s : State}

theorem execHeader_keeps (h : formsOk s) (d k sc sy fn cnt lt lb : Nat) : NextForms (execHeader d k sc sy fn cnt lt lb s) :=
  (nextForms_next _).mpr (issueDecoded_keeps h _ _)

/-- An instruction that acts in a slot of a bundle as it does alone. -/
theorem exec_keeps_of_slot (h : formsOk s) {i : Instr} (e : runSlot i s = exec i s) : NextForms (exec i s) := e ▸ runSlot_keeps h i

theorem exec_keeps (h : formsOk s) (i : Instr) : NextForms (exec i s) := by
  cases i
  case header => exact execHeader_keeps h _ _ _ _ _ _ _ _
  case issueBundle => exact execIssueBundle_keeps h
  case resultLand => exact execResultLand_keeps h
  case overlapYield => exact execOverlapYield_keeps h
  case watchdogTrap => exact execWatchdogTrap_keeps h
  case storePerform => exact execStorePerform_keeps h
  case atomicPerform => exact execAtomicPerform_keeps h
  case flagPostEffect => exact execFlagPostEffect_keeps h
  case kill => exact execKill_keeps h
  case siphonTransfer => exact execSiphonTransfer_keeps h
  case siphonComplete => exact execSiphonComplete_keeps h
  case reserveRefusalRetry => exact execReserveRefusalRetry_keeps h
  case faultRecordOffer => exact execFaultRecordOffer_keeps h
  case faultRecordRetry => exact execFaultRecordRetry_keeps h
  case preemptRequest => exact execPreemptRequest_keeps h
  case preemptWithdraw => exact execPreemptWithdraw_keeps h
  case gangPreempt => exact execGangPreempt_keeps h
  case stepPlace => exact execStepPlace_keeps h
  case stepResume => exact execStepResume_keeps h
  case stepRetire => exact execStepRetire_keeps h
  case taskComplete => exact execTaskComplete_keeps h
  case taskAgeing => exact execTaskAgeing_keeps h
  case stageApply => exact execStageApply_keeps h
  case stageCacheUpdate => exact execStageCacheUpdate_keeps h
  case forkSnapshot => exact execForkSnapshot_keeps h
  case joinMerge => exact execJoinMerge_keeps h
  case revisionReserveRetry => exact execRevisionReserveRetry_keeps h
  case tlbInvalidateComplete => exact execTlbInvalidateComplete_keeps h
  case arrayOpStart => exact execArrayOpStart_keeps h
  case rowIn => exact execRowIn_keeps h
  case pumpFeedBegin => exact execPumpFeedBegin_keeps h
  case pumpFetchReturn => exact execPumpFetchReturn_keeps h
  case pumpWalkRetry => exact execPumpWalkRetry_keeps h
  case queueStageAdvance => exact execQueueStageAdvance_keeps h
  case bagCloseComplete => exact execBagCloseComplete_keeps h
  case drainRow => exact execDrainRow_keeps h
  case spoutLatchEntry => exact execSpoutLatchEntry_keeps h
  case arrayOpComplete => exact execArrayOpComplete_keeps h
  case rootLaunch => exact execRootLaunch_keeps h
  case tlbinv => exact execTlbinv_keeps h
  case rst => exact (nextForms_next _).mpr (resetModule_keeps h _ _)
  case flagWindowPost => exact execFlagWindowPost_keeps h
  case registerWrite => exact execRegisterWrite_keeps h
  case hostMemWrite => exact execHostMemWrite_keeps h
  case hostMemRead => exact execHostMemRead_keeps h
  case bootStart => exact execBootStart_keeps h
  case bootStageDone => exact execBootStageDone_keeps h
  case bootWatchdog => exact execBootWatchdog_keeps h
  case flitCrcFail => exact execFlitCrcFail_keeps h
  case lanePersistentFault => exact execLanePersistentFault_keeps h
  case fatalError => exact execFatalError_keeps h
  case dumpComplete => exact execDumpComplete_keeps h
  case thermalTrip | powerTrip => exact (nextForms_next _).mpr (trip_keeps h)
  case mailboxImageReplace => exact execMailboxImageReplace_keeps h
  case galeRemoteAccess => exact execGaleRemoteAccess_keeps h
  case clrmin | dack | lrClear | mailboxSpdm | errorLogRead | errorLogClear | clockChange | peerContained
      | linkRetrainComplete => exact (nextForms_next _).mpr h
  all_goals exact exec_keeps_of_slot h rfl

@[simp] theorem formsOk_atTurn (s : State) (t : Turn) : formsOk (s.atTurn t) ↔ formsOk s :=
  formsOk_congr_tiles (s.atTurn_mem t) (s.atTurn_tiles t)

theorem nextTurn_keeps (h : formsOk s) {t : Turn} {u : State} (e : nextTurn s = some (t, u)) : formsOk u := by
  unfold nextTurn at e
  split at e
  · cases e
    exact h
  · dsimp only at e
    split at e
    · cases e
    · obtain ⟨_, -, e⟩ := Option.map_eq_some_iff.mp e
      cases e
      exact h

theorem runTurn_keeps (h : formsOk s) (t : Turn) : NextForms (runTurn t s) := by
  unfold runTurn
  split
  · simp [NextForms]
  · split
    · exact exec_keeps ((formsOk_atTurn s t).mpr h) t.act
    · exact (nextForms_next s).mpr h

theorem step_keeps (h : formsOk s) : NextForms (step s) := by
  unfold step
  split
  · rename_i e
    exact runTurn_keeps (nextTurn_keeps h e) _
  · exact (nextForms_next s).mpr h

/-- Settles O56: every act keeps the canonical forms, and a step is one turn's act. -/
theorem formsAreKept : Obligations.FormsAreKept := fun _ _ h e => step_keeps h _ e

end Sys2Proof.Forms

/-! ## Memory is its bytes, little-endian (O59) -/

namespace Sys2Proof.MemoryBytes
open Sys2Proof.Machine

/-! ### Two memories that read alike -/

theorem entry_ne_unlisted {lo : Option Nat} {a : Nat} {b : Byte} {r : List Host.Cell} (h : memOk lo ((a, b) :: r) = true) :
    b ≠ unlisted := by
  simp only [memOk, Bool.and_eq_true, bne_iff_ne] at h
  exact h.1.2

theorem memRead_head (a : Nat) (b : Byte) (r : List Host.Cell) : memRead ((a, b) :: r) a = b := by simp [memRead]

theorem memRead_cons_ne {a x : Nat} (h : a ≠ x) (b : Byte) (r : List Host.Cell) : memRead ((a, b) :: r) x = memRead r x := by
  simp [memRead, h]

/-- An address that does not read as unlisted has an entry, so the first entry is not above it. -/
theorem head_le_of_memRead {lo : Option Nat} {a x : Nat} {b : Byte} {r : List Host.Cell} (h : memOk lo ((a, b) :: r) = true)
    (hx : memRead ((a, b) :: r) x ≠ unlisted) : a ≤ x := by
  by_cases hax : a ≤ x
  · exact hax
  · rw [memRead_cons_ne (by omega), memRead_below r (memOk_tail h) (by simp only; omega)] at hx
    exact absurd rfl hx

/-- Two memories in canonical form, above whatever bound, are the same list when they read alike. -/
theorem eq_of_memRead_eq : ∀ (m n : List Host.Cell) {lo : Option Nat}, memOk lo m = true → memOk lo n = true →
    (∀ x, memRead m x = memRead n x) → m = n
  | [], [], _, _, _, _ => rfl
  | [], (a, b) :: r, _, _, hn, e => by
    have := e a
    rw [memRead_head] at this
    exact absurd this.symm (entry_ne_unlisted hn)
  | (a, b) :: r, [], _, hm, _, e => by
    have := e a
    rw [memRead_head] at this
    exact absurd this (entry_ne_unlisted hm)
  | (a, b) :: r, (a', b') :: r', _, hm, hn, e => by
    have hle : a' ≤ a := head_le_of_memRead hn (by rw [← e a, memRead_head]; exact entry_ne_unlisted hm)
    have hge : a ≤ a' := head_le_of_memRead hm (by rw [e a', memRead_head]; exact entry_ne_unlisted hn)
    obtain rfl : a = a' := Nat.le_antisymm hge hle
    obtain rfl : b = b' := by simpa only [memRead_head] using e a
    have tails : ∀ x, memRead r x = memRead r' x := fun x => by
      by_cases hx : a = x
      · subst hx
        rw [memRead_below r (memOk_tail hm) (Nat.le_refl _), memRead_below r' (memOk_tail hn) (Nat.le_refl _)]
      · simpa only [memRead_cons_ne hx] using e x
    rw [eq_of_memRead_eq r r' (memOk_tail hm) (memOk_tail hn) tails]

/-! ### Bytes laid at an address -/

/-- The addresses of bytes laid at `p`. -/
theorem mem_cellsAt : ∀ {l : List Byte} {p : Nat} {c : Host.Cell}, c ∈ cellsAt p l → p ≤ c.1 ∧ c.1 < p + l.length
  | [], _, _, h => by simp [cellsAt] at h
  | b :: r, p, c, h => by
    simp only [cellsAt, List.mem_cons] at h
    rcases h with rfl | h
    · simp
    · have := mem_cellsAt h
      simp only [List.length_cons]
      omega

theorem memRead_cellsAt_other (m : List Host.Cell) {p a : Nat} {l : List Byte} (h : ¬ (p ≤ a ∧ a < p + l.length)) :
    memRead (memWrites m (cellsAt p l)) a = memRead m a :=
  memRead_memWrites_other _ m a fun _ hc e => h (e ▸ mem_cellsAt hc)

theorem memRead_cellsAt : ∀ (l : List Byte) {m : List Host.Cell} (p k : Nat), Memory.wf m = true → k < l.length →
    memRead (memWrites m (cellsAt p l)) (p + k) = l.getD k 0
  | b :: r, m, p, 0, h, _ => by
    show memRead (memWrites (memWrite m p b) (cellsAt (p + 1) r)) p = b
    rw [memRead_cellsAt_other _ (by omega)]
    exact memRead_memWrite_same m p b none h
  | b :: r, m, p, k + 1, h, hk => by
    show memRead (memWrites (memWrite m p b) (cellsAt (p + 1) r)) (p + (k + 1)) = r.getD k 0
    rw [show p + (k + 1) = p + 1 + k by omega]
    exact memRead_cellsAt r (p + 1) k (memWrite_wf h p b) (by simpa using hk)

/-! ### Numbers -/

theorem memReads_eq_of_memRead {m : List Host.Cell} : ∀ {l : List Byte} {p : Nat},
    (∀ k, k < l.length → memRead m (p + k) = l.getD k 0) → memReads m p l.length = l
  | [], _, _ => rfl
  | b :: r, p, h => by
    have head : memRead m p = b := h 0 (by simp)
    have rest := memReads_eq_of_memRead (m := m) (l := r) (p := p + 1) fun k hk => by
      rw [show p + 1 + k = p + (k + 1) by omega]
      exact h (k + 1) (by simpa using hk)
    simp only [List.length_cons, memReads, head, rest]

theorem memReads_cellsAt (l : List Byte) {m : List Host.Cell} (p : Nat) (h : Memory.wf m = true) :
    memReads (memWrites m (cellsAt p l)) p l.length = l := memReads_eq_of_memRead fun k hk => memRead_cellsAt l p k h hk

theorem readNat_write (s : State) (p n v : Nat) (h : Memory.wf s.mem = true) :
    (s.write (cellsAt p (bytesOfNat n v))).readNat p n = v % 2 ^ (8 * n) := by
  have bytes := memReads_cellsAt (bytesOfNat n v) p h
  rw [bytesOfNat_length] at bytes
  rw [State.readNat, State.read, State.write_mem, bytes, natOfBytes_bytesOfNat, Nat.pow_mul]

/-- Settles O59: memory in canonical form is a function of its bytes, and bytes laid at an address are read back there. -/
theorem memoryIsItsBytes : Obligations.MemoryIsItsBytes :=
  ⟨fun m n hm hn e => eq_of_memRead_eq m n hm hn e, readNat_write,
    fun s p k l h hk => by rw [State.write_mem, memRead_cellsAt l p k h hk],
    fun s p a l h => by rw [State.write_mem, memRead_cellsAt_other _ h]⟩

end Sys2Proof.MemoryBytes

/-! ## The machine right after reset (O58) -/

namespace Sys2Proof.AfterReset
open Sys2Proof.Machine Sys2Proof.Claims

@[simp] theorem vget_replicate {α : Type} (n : Nat) (x : α) (i : Nat) : vget (Vector.replicate (n + 1) x) i = x := by simp [vget]

/-- A position other than 0 is not the one the step-start values single out. -/
theorem vget_set_zero {α : Type} {n : Nat} (v : Vector α (n + 1)) (x : α) {i : Nat} (h : i % (n + 1) ≠ 0) :
    vget (v.set 0 x (Nat.succ_pos n)) i = vget v i := by
  simp [vget, Ne.symm h]

@[simp] theorem reset_ctx (c : Nat) : State.reset.ctx c = Ctx.idle := vget_replicate 383 Ctx.idle c

@[simp] theorem reset_tile (t : Nat) : State.reset.tile t = Tile.idle := vget_replicate 191 Tile.idle t

/-! ### The registers at step start (R139) -/

theorem start_rS (nmr : Word) (n : Nat) : (Arch.start nmr).rS n = 0 := by simp [Arch.rS, Arch.start]
theorem start_rA (nmr : Word) (n : Nat) : (Arch.start nmr).rA n = 0 := by simp [Arch.rA, Arch.start]
theorem start_rV (nmr : Word) (n : Nat) : (Arch.start nmr).rV n = 0 := vget_replicate 31 0 n
theorem start_rW (nmr : Word) (n : Nat) : (Arch.start nmr).rW n = 0 := vget_replicate 15 0 n

/-- A default TID entry has the format code of an unset one (R309). -/
theorem unset_fmt : ({} : TidEntry).fmt = 7 := by decide

theorem start_rP (nmr : Word) (n : Nat) : (Arch.start nmr).rP n = (n % 16 == 0) := by
  unfold Arch.rP
  by_cases h : n % 16 = 0
  · simp [h]
  · have other : vget (Arch.start nmr).p n = false := (vget_set_zero _ true h).trans (vget_replicate 15 false n)
    simp [h, other]

theorem start_rM (nmr : Word) (n : Nat) : (Arch.start nmr).rM n = if n % 8 = 0 then BitVec.allOnes 128 else 0 := by
  unfold Arch.rM
  by_cases h : n % 8 = 0
  · simp [h]
  · have other : vget (Arch.start nmr).m n = 0 := (vget_set_zero _ _ h).trans (vget_replicate 7 0 n)
    simp [h, other]

/-! ### The forms every step keeps -/

theorem reset_formsOk : formsOk State.reset := ⟨reset_mem_wf, fun t => by simp [sumpOk, Tile.idle]⟩

theorem idle_pcOk : pcOk Ctx.idle := by simp [pcOk, isPc, Ctx.idle]

theorem reset_mgmtOk : mgmtOk State.reset.mgmt := by simp [mgmtOk, State.reset, Mgmt.reset]

/-- Settles O58: every context and every tile is a copy of one idle value, whose registers are those of step start. -/
theorem resetState : Obligations.ResetState := by
  refine ⟨rfl, rfl, rfl, rfl, rfl, rfl, rfl, rfl, fun c n => ?_, fun t n => ?_, reset_formsOk, fun c => ?_, reset_mgmtOk⟩
  · rw [reset_ctx]
    exact ⟨rfl, start_rS 0 n, start_rA 0 n, start_rV 0 n, start_rW 0 n, start_rP 0 n, start_rM 0 n, vget_replicate 31 0 n, rfl,
      vget_replicate 3 [] n⟩
  · rw [reset_tile]
    exact ⟨(congrArg TidEntry.fmt (vget_replicate 63 ({} : TidEntry) n)).trans unset_fmt, rfl⟩
  · rw [reset_ctx]
    exact idle_pcOk

end Sys2Proof.AfterReset

/-! ## The host's accesses (O54): registers, mailbox and logs -/

namespace Sys2Proof.HostSide
open Sys2Proof.Machine Sys2Proof.Claims

variable {s : State}

/-! ### Configuration registers (R378, R381) -/

theorem configOffset_iff (o : Nat) : configOffset o = true ↔ o = 0x0020 ∨ o = 0x0028 ∨ o = 0x0030 ∨ o = 0x0038 ∨ o = 0x0040 ∨
    o = 0x0048 ∨ o = 0x0050 ∨ o = 0x0058 ∨ o = 0x0060 ∨ o = 0x0068 ∨ o = 0x0088 := by
  simp [configOffset]

theorem rootLive_eq_false : s.rootLive = false ↔ s.tasks = [] := by simp [State.rootLive]

theorem registerWrite_put (hc : configOffset s.arg.a = true) (h4 : s.mgmt.state = 4) (ht : s.tasks = []) :
    exec .registerWrite s = .next (s.updMgmt fun m => m.put s.arg.a s.arg.v) := by
  show execRegisterWrite s = _
  simp [execRegisterWrite, hc, h4, rootLive_eq_false.mpr ht]

theorem registerWrite_refused (hc : configOffset s.arg.a = true) (h : s.mgmt.state ≠ 4 ∨ s.tasks ≠ []) :
    exec .registerWrite s = .next s.refuse := by
  show execRegisterWrite s = _
  have closed : ¬ (s.mgmt.state = 4 ∧ s.rootLive = false) := by
    rw [rootLive_eq_false]
    rintro ⟨h4, ht⟩
    exact h.elim (· h4) (· ht)
  simp [execRegisterWrite, hc, closed]

theorem registerWrite_elsewhere (hc : configOffset s.arg.a = false) : exec .registerWrite s = .next s := by
  show execRegisterWrite s = _
  simp [execRegisterWrite, hc]

/-! The service-tile mask: 192 bits in three registers. -/

/-- Where the three registers begin in the mask. -/
def svcStart (o : Nat) : Prop := o = 0 ∨ o = 64 ∨ o = 128

theorem bits_putBits_same {n lo : Nat} (v : Nat) (h : svcStart lo) : bits (putBits n lo 64 v % 2 ^ 192) lo 64 = v % 2 ^ 64 := by
  rcases h with rfl | rfl | rfl <;> simp only [putBits, bits] <;> omega

theorem bits_putBits_other {n lo o : Nat} (v : Nat) (hn : n < 2 ^ 192) (h : svcStart lo) (ho : svcStart o) (hne : o ≠ lo) :
    bits (putBits n lo 64 v % 2 ^ 192) o 64 = bits n o 64 := by
  rcases h with rfl | rfl | rfl <;> rcases ho with rfl | rfl | rfl <;> simp only [putBits, bits, ne_eq, not_true_eq_false] at hne ⊢ <;> omega

/-- The service-tile register that begins at bit `lo` of the mask, read after it is written. -/
theorem svcRegister_put (n v : Nat) {lo : Nat} (h : svcStart lo) :
    bits (BitVec.ofNat 192 (putBits n lo 64 v)).toNat lo 64 = v % 2 ^ 64 := by
  rw [BitVec.toNat_ofNat, bits_putBits_same v h]

theorem svcRegister_keep (x : BitVec 192) (v : Nat) {lo o : Nat} (h : svcStart lo) (ho : svcStart o) (hne : o ≠ lo) :
    bits (BitVec.ofNat 192 (putBits x.toNat lo 64 v)).toNat o 64 = bits x.toNat o 64 := by
  rw [BitVec.toNat_ofNat, bits_putBits_other v x.isLt h ho hne]

/-- A configuration register holds what was written to it, reserved bits 0. -/
theorem barRead_put_same {a : Nat} (hc : configOffset a = true) (v : Nat) :
    (s.updMgmt fun m => m.put a v).barRead a = configValue a v := by
  have svc := fun lo (h : svcStart lo) => svcRegister_put s.mgmt.svcTile.toNat v h
  rcases (configOffset_iff a).mp hc with rfl | rfl | rfl | rfl | rfl | rfl | rfl | rfl | rfl | rfl | rfl
  case inr.inr.inl =>
    simpa [State.barRead, State.updMgmt, Mgmt.put, configValue, -BitVec.toNat_ofNat] using svc 0 (.inl rfl)
  case inr.inr.inr.inl =>
    simpa [State.barRead, State.updMgmt, Mgmt.put, configValue, -BitVec.toNat_ofNat] using svc 64 (.inr (.inl rfl))
  case inr.inr.inr.inr.inl =>
    simpa [State.barRead, State.updMgmt, Mgmt.put, configValue, -BitVec.toNat_ofNat] using svc 128 (.inr (.inr rfl))
  all_goals simp [State.barRead, State.updMgmt, Mgmt.put, configValue, bits]

/-- No other register of the BAR changes: each is a field of its own, but for the three parts of the service-tile mask. -/
theorem barRead_put_other {a o : Nat} (hc : configOffset a = true) (ho : o ≠ a) (v : Nat) :
    (s.updMgmt fun m => m.put a v).barRead o = s.barRead o := by
  rcases (configOffset_iff a).mp hc with rfl | rfl | rfl | rfl | rfl | rfl | rfl | rfl | rfl | rfl | rfl
  all_goals
    unfold State.barRead
    split <;> simp_all [State.updMgmt, Mgmt.put, -BitVec.toNat_ofNat]
  all_goals exact svcRegister_keep _ v (by simp [svcStart]) (by simp [svcStart]) (by decide)

/-! ### The mailbox (R390) -/

theorem mailboxSpdm_of_parts {l : List (List Byte)} (h : s.mgmt.spdmParts s.arg.bs = some l) : exec .mailboxSpdm s =
    .next { s with mgmt := { s.mgmt with reply := Config.spdmAnswer (spdmCode s.arg.bs % 128) l } } := by
  show execMailboxSpdm s = _
  simp only [execMailboxSpdm, State.updMgmt, h]

theorem mailboxSpdm_unknown (h : s.mgmt.spdmParts s.arg.bs = none) :
    exec .mailboxSpdm s = .next { s with mgmt := { s.mgmt with reply := Config.spdmAnswer 0x7F [] } } := by
  show execMailboxSpdm s = _
  simp only [execMailboxSpdm, State.updMgmt, h]

section
variable {m : Mgmt} {bs : List Byte}

theorem spdmParts_version (h : spdmCode bs = 0x84) : m.spdmParts bs = some [bytesOfNat 1 0x12] := by
  simp only [Mgmt.spdmParts, h]

theorem spdmParts_capabilities (h : spdmCode bs = 0xE1) : m.spdmParts bs = some [] := by
  simp only [Mgmt.spdmParts, h]

theorem spdmParts_algorithms (h : spdmCode bs = 0xE3) : m.spdmParts bs = some [bytesOfNat 4 (2 ^ 10), bytesOfNat 4 (2 ^ 2)] := by
  simp only [Mgmt.spdmParts, h, spdmSign, spdmHash]

theorem spdmParts_digests (h : spdmCode bs = 0x81) : m.spdmParts bs = some [sha512 m.certificate] := by
  simp only [Mgmt.spdmParts, h]

theorem spdmParts_certificate (h : spdmCode bs = 0x82) : m.spdmParts bs = some [m.certificate] := by
  simp only [Mgmt.spdmParts, h]

theorem spdmParts_challenge (h : spdmCode bs = 0x83) :
    m.spdmParts bs = some (m.signedParts bs [sha512 m.certificate, sha512 m.measured.flatten]) := by
  simp only [Mgmt.spdmParts, h]

theorem spdmParts_measurements (h : spdmCode bs = 0xE0) :
    m.spdmParts bs = some (if (bs.getD 2 0).toNat % 2 = 1 then m.signedParts bs m.measured else m.measured) := by
  simp [Mgmt.spdmParts, h, spdmByte, bitAt]

theorem spdmParts_unknown (h : spdmCode bs ∉ [0x84, 0xE1, 0xE3, 0x81, 0x82, 0x83, 0xE0]) : m.spdmParts bs = none := by
  unfold Mgmt.spdmParts
  split
  case h_8 => rfl
  all_goals simp_all

end

end Sys2Proof.HostSide

/-! ## The host's accesses (O54): the root launch, TLB invalidation and the latched registers -/

namespace Sys2Proof.HostSide
open Sys2Proof.Machine Sys2Proof.Claims

variable {s : State}

/-! ### What the task engine's reads correct (R391) -/

/-- The list of tasks and the next task number are the same. -/
structure SameTasks (s t : State) : Prop where
  tasks : t.tasks = s.tasks
  nextTask : t.nextTask = s.nextTask

theorem SameTasks.refl (s : State) : SameTasks s s := ⟨rfl, rfl⟩

theorem SameTasks.trans {s t u : State} (h : SameTasks s t) (k : SameTasks t u) : SameTasks s u :=
  ⟨k.tasks.trans h.tasks, k.nextTask.trans h.nextTask⟩

theorem SameTasks.foldl {α : Type} {f : State → α → State} (hf : ∀ s x, SameTasks s (f s x)) :
    ∀ (l : List α) (s : State), SameTasks s (l.foldl f s)
  | [], s => .refl s
  | x :: l, s => (hf s x).trans (SameTasks.foldl hf l (f s x))

theorem logAt_sameTasks (s : State) (g : Nat) (b : Bool) : SameTasks s (s.logAt g b) := by
  unfold State.logAt
  split <;> exact ⟨rfl, rfl⟩

theorem correct_sameTasks (s : State) (p n : Nat) : SameTasks s (s.correct p n) := by
  unfold State.correct
  dsimp only
  split
  · exact .refl s
  · exact SameTasks.trans (t := { s with softMem := s.softMem.filter fun g => !granuleMeets p n g }) ⟨rfl, rfl⟩
      (SameTasks.foldl (fun t g => logAt_sameTasks t g true) _ _)

theorem correctWalk_sameTasks (s : State) (table va : Nat) : SameTasks s (s.correctWalk table va) := by
  unfold State.correctWalk State.correctAll
  split
  · exact .refl s
  · exact SameTasks.foldl (fun t (e : Nat × Nat) => correct_sameTasks t e.1 e.2) _ s

theorem correctMap_sameTasks (s : State) (table va n : Nat) : SameTasks s (s.correctMap table va n) := by
  unfold State.correctMap
  split
  · exact .refl s
  · exact SameTasks.foldl (fun t p => correctWalk_sameTasks t table _) _ s

theorem correctRead_sameTasks (s : State) (table va n : Nat) : SameTasks s (s.correctRead table va n) := by
  unfold State.correctRead
  split
  · exact .refl s
  · refine SameTasks.foldl (fun t p => ?_) _ s
    have walked := correctWalk_sameTasks t table (p.2.2 % 2 ^ 56)
    dsimp only
    split
    · exact walked.trans (correct_sameTasks _ _ _)
    · exact walked

theorem correctLaunch_sameTasks (s : State) (table va : Nat) (o : List Byte) : SameTasks s (s.correctLaunch table va o) :=
  ((((correctRead_sameTasks s _ _ _).trans (correctRead_sameTasks _ _ _ _)).trans (correctRead_sameTasks _ _ _ _)).trans
    (correctMap_sameTasks _ _ _ _)).trans (correctWalk_sameTasks _ _ _)

/-! ### Writes leave the tasks alone -/

theorem write_sameTasks (s : State) (l : List Host.Cell) : SameTasks s (s.write l) := by
  unfold State.write dropLines
  split <;> exact ⟨rfl, rfl⟩

theorem writeRecord_sameTasks (s : State) (t : Task) (status cause : Nat) : SameTasks s (s.writeRecord t status cause) := by
  have walked := fun table va => correctWalk_sameTasks s table va
  unfold State.writeRecord
  dsimp only
  split
  · exact (walked _ _).trans (write_sameTasks _ _)
  · exact (walked _ _).trans ⟨rfl, rfl⟩

/-! ### ROOT (R29, R381, R363) -/

/-- An accepted launch appends its task, numbered next: recorded at once, or live. -/
theorem acceptLaunch_task (s : State) (rev table va parent key : Nat) (kind : LaunchKind) (o : List Byte) :
    ∃ k, (acceptLaunch s rev table va parent key kind o).tasks = s.tasks ++ [k] ∧
      (k.recorded = false → k.num = s.nextTask ∧ k.opb = o ∧ k.kind = kind ∧ k.st = .live) := by
  obtain ⟨tasks, nextTask⟩ := correctLaunch_sameTasks s table va o
  unfold acceptLaunch
  generalize s.correctLaunch table va o = u at tasks nextTask
  have accepted : ∀ (v : State) (k : Task), SameTasks u v → v.tasks ++ [k] = s.tasks ++ [k] := fun v k h => by
    rw [h.tasks, tasks]
  dsimp only
  cases crecPlace u table (opbCrec o) with
  | some p =>
    dsimp only
    split
    · exact ⟨_, (writeRecord_sameTasks _ _ _ _).tasks.trans (accepted _ _ (write_sameTasks u _)), nofun⟩
    · exact ⟨_, accepted _ _ (write_sameTasks u _), fun _ => ⟨nextTask, rfl, rfl, rfl⟩⟩
  | none =>
    dsimp only
    split
    · exact ⟨_, (writeRecord_sameTasks _ _ _ _).tasks.trans (accepted _ _ (.refl u)), nofun⟩
    · exact ⟨_, accepted _ _ (.refl u), fun _ => ⟨nextTask, rfl, rfl, rfl⟩⟩

theorem rootLaunch_refused (h : s.mgmt.state ≠ 4 ∨ s.mgmt.fbuf = 0 ∨ s.tasks ≠ []) : exec .rootLaunch s = .next s.refuse := by
  show execRootLaunch s = _
  have shut : (s.mgmt.state != 4 || !s.fbufOk || s.rootLive) = true := by
    rcases h with h | h | h <;> simp [State.fbufOk, State.rootLive, h]
  simp only [execRootLaunch, shut, if_true]

theorem rootLaunch_launches {o : List Byte} (h4 : s.mgmt.state = 4) (hf : s.fbufOk = true) (ht : s.tasks = [])
    (ho : readWhole s s.mgmt.rootTbl (s.arg.a % 2 ^ 56) 256 = some o) :
    exec .rootLaunch s = .next (launchRoot (s.arg.a % 2 ^ 56) o s) := by
  show execRootLaunch s = _
  have opened : (s.mgmt.state != 4 || !s.fbufOk || s.rootLive) = false := by simp [h4, hf, State.rootLive, ht]
  simp only [execRootLaunch, opened, ho, Bool.false_eq_true, if_false]

/-- A launch that is not over at once leaves what its acceptance leaves. -/
theorem launchRoot_of_live {va : Nat} {o : List Byte}
    (h : (acceptLaunch { s with
        revs := [{ id := s.nextRev, table := s.mgmt.rootTbl, parent := 0, depth := 0, owner := 1 }], nextRev := s.nextRev + 1 }
      s.nextRev s.mgmt.rootTbl va 0 0 .root o).tasks.all Task.recorded = false) :
    launchRoot va o s = acceptLaunch { s with
        revs := [{ id := s.nextRev, table := s.mgmt.rootTbl, parent := 0, depth := 0, owner := 1 }], nextRev := s.nextRev + 1 }
      s.nextRev s.mgmt.rootTbl va 0 0 .root o := if_neg (by rw [h]; exact Bool.false_ne_true)

/-! ### The flag window (R382) -/

theorem flagWindowPost_posts (hc : s.arg.c < 384) (hn : s.arg.n < 32) :
    exec .flagWindowPost s = .next (s.updCtx s.arg.c fun x => x.post s.arg.n (s.arg.v % 2 ^ 16)) := by
  show execFlagWindowPost s = _
  simp [execFlagWindowPost, Nat.not_le.mpr hc, Nat.not_le.mpr hn]

/-! ### TLBINV (R383) -/

theorem vget_map {α β : Type} {n : Nat} (f : α → β) (v : Vector α (n + 1)) (i : Nat) : vget (v.map f) i = f (vget v i) := by
  simp [vget]

theorem invalidate_tile (s : State) (rev k : Nat) : (s.invalidate rev).tile k = { s.tile k with
    siphonTlb := (s.tile k).siphonTlb.filter fun e => e.rev != rev
    pumpTlb := (s.tile k).pumpTlb.filter fun e => e.rev != rev } := vget_map _ s.tiles k

theorem invalidate_cis (s : State) (rev k : Nat) : (s.invalidate rev).cis k = { s.cis k with
    tlb2 := (s.cis k).tlb2.filter fun e => e.rev != rev } := vget_map _ s.ciss k

/-- No translation of an invalidated revision is left, in a tile or in a cistern. -/
theorem invalidate_drops (s : State) (rev k : Nat) :
    (∀ e ∈ ((s.invalidate rev).tile k).siphonTlb ++ ((s.invalidate rev).tile k).pumpTlb, e.rev ≠ rev) ∧
    ∀ e ∈ ((s.invalidate rev).cis k).tlb2, e.rev ≠ rev := by
  rw [invalidate_tile, invalidate_cis]
  constructor
  · intro e he
    rcases List.mem_append.mp he with he | he <;> simpa using (List.mem_filter.mp he).2
  · intro e he
    simpa using (List.mem_filter.mp he).2

theorem tlbinv_begins {r : Revision} (hi : s.mgmt.tlbInv = false) (hv : s.arg.v % 2 = 1)
    (hr : s.revs.find? (fun r => r.table / 2 ^ 12 == bits s.arg.v 12 40) = some r) :
    exec .tlbinv s = .next (State.updMgmt { s.invalidate r.id with
      invs := s.invs ++ [{ rev := r.id, waits := s.heldFrames r.id }] } fun m => { m with tlbInv := true }) := by
  show execTlbinv s = _
  have asked : bitAt s.arg.v 0 = true := by simp [bitAt, hv]
  simp only [execTlbinv, hi, asked, hr, Bool.not_true, Bool.or_false, Bool.false_eq_true, if_false]
  rfl

/-! ### Other devices (R396, log 84) -/

theorem peerContained_contained (s : State) : ∃ t, exec .peerContained s = .next t ∧ t.mem = s.mem ∧
    ∀ d, d ∈ t.contained ↔ if d = s.arg.n then s.arg.ok = true else d ∈ s.contained := by
  refine ⟨_, rfl, rfl, fun d => ?_⟩
  dsimp only
  cases s.arg.ok with
  | true =>
    by_cases known : s.contained.contains s.arg.n = true
    · rw [if_pos rfl, if_pos known]
      split <;> simp_all
    · rw [if_pos rfl, if_neg known]
      split <;> simp_all
  | false => by_cases hd : d = s.arg.n <;> simp [hd]

end Sys2Proof.HostSide

/-! ## The host's accesses (O54): device memory, from the host and from other devices -/

namespace Sys2Proof.HostSide
open Sys2Proof.Machine Sys2Proof.Claims

variable {s : State}

theorem memOpen_iff : s.memOpen = true ↔ s.mgmt.state = 4 ∧ s.mgmt.fullWidth = true := by simp [State.memOpen]

/-- When the dump can be read (R395, log 107). -/
theorem dumpOpen_iff (a : Nat) : s.dumpOpen a = true ↔
    (s.mgmt.state = 5 ∨ s.mgmt.state = 7 ∧ s.mgmt.fatal = none) ∧ s.mgmt.dumpDone = true ∧ Config.dumpAt ≤ a := by
  simp [State.dumpOpen, and_assoc]

theorem write_ctxs (s : State) (l : List Host.Cell) : (s.write l).ctxs = s.ctxs := by
  unfold State.write dropLines
  split <;> rfl

theorem memReads_length (m : List Host.Cell) : ∀ (k n : Nat), (memReads m k n).length = n
  | _, 0 => rfl
  | k, n + 1 => congrArg (· + 1) (memReads_length m (k + 1) n)

/-- Without an uncorrectable granule an outside reader gets the bytes of memory. -/
theorem readOut_eq_bytesAt (h : s.badMem = []) (a n : Nat) : s.readOut a n = bytesAt s a n := by
  simp [State.readOut, bytesAt, upTo, State.badAt, h]

/-! ### The host (R31, R264, R377, R394) -/

theorem hostMemWrite_own (hk : s.arg.k = 1) (ha : s.arg.a + s.arg.bs.length ≤ 2 ^ 51) :
    exec .hostMemWrite s = .next ((s.write (cellsAt (hostBase + s.arg.a) s.arg.bs)).respond .done []) := by
  show execHostMemWrite s = _
  simp only [execHostMemWrite, hk, ha, if_true]

theorem hostMemWrite_device (ho : s.memOpen = true) (hk : s.arg.k ≠ 1)
    (ha : s.arg.a + s.arg.bs.length ≤ Config.deviceBytes) :
    exec .hostMemWrite s = .next ((s.write (cellsAt s.arg.a s.arg.bs)).respond .done []) := by
  show execHostMemWrite s = _
  simp only [execHostMemWrite, hk, ho, ha, decide_true, Bool.and_true, if_true, if_false]

theorem hostMemWrite_refused (h : if s.arg.k = 1 then 2 ^ 51 < s.arg.a + s.arg.bs.length
      else s.memOpen = false ∨ Config.deviceBytes < s.arg.a + s.arg.bs.length) :
    exec .hostMemWrite s = .next (s.respond .error []) := by
  show execHostMemWrite s = _
  unfold execHostMemWrite
  split at h
  case isTrue hk => rw [if_pos hk, if_neg (by omega)]
  case isFalse hk =>
    rw [if_neg hk, if_neg ?_]
    rcases h with h | h
    · simp [h]
    · simp [Nat.not_le.mpr h]

theorem hostMemRead_served (ho : s.memOpen = true ∨ s.dumpOpen s.arg.a = true) (ha : s.arg.a + s.arg.n ≤ Config.deviceBytes) :
    exec .hostMemRead s = .next ((s.correct s.arg.a s.arg.n).respond .done (s.readOut s.arg.a s.arg.n)) := by
  show execHostMemRead s = _
  have served : ((s.memOpen || s.dumpOpen s.arg.a) && decide (s.arg.a + s.arg.n ≤ Config.deviceBytes)) = true := by simp [ho, ha]
  simp only [execHostMemRead, served, if_true]

theorem hostMemRead_refused (h : s.memOpen = false ∧ s.dumpOpen s.arg.a = false ∨ Config.deviceBytes < s.arg.a + s.arg.n) :
    exec .hostMemRead s = .next (s.respond .error []) := by
  show execHostMemRead s = _
  have refused : ((s.memOpen || s.dumpOpen s.arg.a) && decide (s.arg.a + s.arg.n ≤ Config.deviceBytes)) = false := by
    rcases h with ⟨h1, h2⟩ | h
    · simp [h1, h2]
    · simp [Nat.not_le.mpr h]
  simp only [execHostMemRead, refused, Bool.false_eq_true, if_false]

/-! ### Other devices (R264, R272, R394) -/

theorem galeRemoteAccess_lost (h : s.mgmt.state ≠ 4) : exec .galeRemoteAccess s = .next (s.respond .lost []) := by
  show execGaleRemoteAccess s = _
  simp [execGaleRemoteAccess, h]

theorem galeRemoteAccess_read (h4 : s.mgmt.state = 4) (hk : s.arg.k = 0) (ha : s.arg.a + s.arg.n ≤ Config.deviceBytes)
    (hb : s.badIn s.arg.a s.arg.n = false) :
    exec .galeRemoteAccess s = .next ((s.correct s.arg.a s.arg.n).respond .done (s.readOut s.arg.a s.arg.n)) := by
  show execGaleRemoteAccess s = _
  simp [execGaleRemoteAccess, h4, hk, Nat.not_lt.mpr ha, hb]

theorem galeRemoteAccess_write (h4 : s.mgmt.state = 4) (hk : s.arg.k = 1) (ha : s.arg.a + s.arg.bs.length ≤ Config.deviceBytes) :
    exec .galeRemoteAccess s = .next ((s.write (cellsAt s.arg.a s.arg.bs)).respond .done []) := by
  show execGaleRemoteAccess s = _
  simp [execGaleRemoteAccess, h4, hk, Nat.not_lt.mpr ha, remoteAct]

theorem galeRemoteAccess_atomic (h4 : s.mgmt.state = 4) (hk : s.arg.k = 2) (ha : s.arg.a + s.arg.n ≤ Config.deviceBytes)
    (hb : s.badIn s.arg.a s.arg.n = false) :
    exec .galeRemoteAccess s = .next (((s.correct s.arg.a s.arg.n).write (cellsAt s.arg.a (bytesOfNat s.arg.n
      (sphAtomNew s.arg.v (8 * s.arg.n) (s.readNat s.arg.a s.arg.n) (natOfBytes (s.arg.bs.take s.arg.n))
        (natOfBytes (s.arg.bs.drop s.arg.n)))))).respond .done (s.read s.arg.a s.arg.n)) := by
  show execGaleRemoteAccess s = _
  have len : (s.read s.arg.a s.arg.n).length = s.arg.n := memReads_length _ _ _
  simp [execGaleRemoteAccess, h4, hk, Nat.not_lt.mpr ha, hb, remoteAct, len, State.readNat]

theorem galeRemoteAccess_exactAdd (h4 : s.mgmt.state = 4) (hk : s.arg.k = 3) (ha : s.arg.a + 40 ≤ Config.deviceBytes)
    (hb : s.badIn s.arg.a 40 = false) :
    exec .galeRemoteAccess s = .next (((s.correct s.arg.a 40).write (cellsAt s.arg.a (bytesOfNat 40
      (exactAdd (s.readNat s.arg.a 40) (natOfBytes s.arg.bs)).1))).respond .done []) := by
  show execGaleRemoteAccess s = _
  simp [execGaleRemoteAccess, h4, hk, Nat.not_lt.mpr ha, hb, remoteAct, State.readNat]

/-- Operation 0 is the add. -/
theorem sphAtomNew_eq (op w old y z : Nat) : sphAtomNew op w old y z = if op = 0 then (old + y) % 2 ^ w else sphAtomNew op w old y z := by
  split
  · rename_i h
    rw [h, sphAtomNew]
  · rfl

end Sys2Proof.HostSide

/-! ## The host's accesses (O54): the statement -/

namespace Sys2Proof.HostSide
open Sys2Proof.Machine Sys2Proof.Claims

/-- Settles O54: each access is the state it answers with, read off part by part. -/
theorem hostAccesses : Obligations.HostAccesses := by
  refine ⟨fun s hc => ⟨fun h4 ht => ?_, registerWrite_refused hc⟩, fun s => registerWrite_elsewhere, fun s => rootLaunch_refused,
    fun s o h4 hf ht ho => ?_, fun s => flagWindowPost_posts, fun s r hi hv hr => ?_, fun s => ?_, fun s => ?_,
    fun s => ⟨fun hk ha => ?_, fun h4 hw hk ha => ?_⟩, fun s => ?_,
    peerContained_contained, fun s h4 => ⟨fun hk ha hb => ?_, fun hk ha => ?_, fun hk ha hb => ?_, fun hk ha hb => ?_⟩,
    fun s => galeRemoteAccess_lost⟩
  case refine_1 => exact ⟨_, registerWrite_put hc h4 ht, rfl, rfl, barRead_put_same hc _, fun o ho => barRead_put_other hc ho _⟩
  case refine_2 =>
    intro r u live
    obtain ⟨k, tasks, fresh⟩ := acceptLaunch_task { s with revs := [r], nextRev := s.nextRev + 1 } s.nextRev s.mgmt.rootTbl
      (s.arg.a % 2 ^ 56) 0 0 .root o
    have one : u.tasks = [k] := by rw [tasks, ht, List.nil_append]
    have pending : k.recorded = false := by simpa [one] using live
    exact ⟨(rootLaunch_launches h4 hf ht ho).trans (congrArg _ (launchRoot_of_live live)), k, one, fresh pending⟩
  case refine_3 =>
    exact ⟨_, tlbinv_begins hi hv hr, rfl, rfl, fun k => (invalidate_drops s r.id k).1, fun k => (invalidate_drops s r.id k).2, _, rfl⟩
  case refine_4 =>
    exact ⟨rfl, rfl, rfl, rfl, rfl, _, rfl, rfl, rfl, fun k => congrArg Cistern.log (vget_map _ s.ciss k)⟩
  case refine_5 =>
    intro code seed cert answers proof
    exact ⟨fun h => mailboxSpdm_of_parts (spdmParts_version h), fun h => mailboxSpdm_of_parts (spdmParts_capabilities h),
      fun h => mailboxSpdm_of_parts (spdmParts_algorithms h), fun h => mailboxSpdm_of_parts (spdmParts_digests h),
      fun h => mailboxSpdm_of_parts (spdmParts_certificate h), fun h => mailboxSpdm_of_parts (spdmParts_challenge h),
      fun h => mailboxSpdm_of_parts (spdmParts_measurements h), fun h => mailboxSpdm_unknown (spdmParts_unknown h)⟩
  case refine_6 => exact ⟨_, hostMemWrite_own hk ha, rfl, State.write_mem _ _, write_ctxs _ _⟩
  case refine_7 =>
    refine ⟨_, hostMemWrite_device (memOpen_iff.mpr ⟨h4, hw⟩) hk ha, rfl, State.write_mem _ _, write_ctxs _ _, fun p hp => ?_⟩
    exact (congrArg (memRead · p) (State.write_mem s _)).trans (MemoryBytes.memRead_cellsAt_other _ hp)
  case refine_8 =>
    intro dump opened refused
    have closed : ¬ opened → s.memOpen = false := fun h => Bool.eq_false_iff.mpr fun e => h (memOpen_iff.mp e)
    have shut : ¬ dump → s.dumpOpen s.arg.a = false := fun h => Bool.eq_false_iff.mpr fun e => h ((dumpOpen_iff _).mp e)
    refine ⟨fun h ha hb => ?_, fun hk h => ?_, fun hk h => ?_, fun h => ?_⟩
    · exact ⟨_, hostMemRead_served (h.imp memOpen_iff.mpr (dumpOpen_iff _).mpr) ha, rfl, readOut_eq_bytesAt hb _ _,
        State.correct_mem _ _ _, State.correct_ctxs _ _ _⟩
    · exact hostMemWrite_refused (by rw [if_neg hk]; exact h.imp_left closed)
    · exact hostMemWrite_refused (by rwa [if_pos hk])
    · exact hostMemRead_refused (h.imp_left fun h => ⟨closed h.1, shut h.2⟩)
  case refine_9 =>
    exact ⟨_, galeRemoteAccess_read h4 hk ha (by simp [State.badIn, hb]), rfl, readOut_eq_bytesAt hb _ _, State.correct_mem _ _ _,
      State.correct_ctxs _ _ _⟩
  case refine_10 => exact ⟨_, galeRemoteAccess_write h4 hk ha, rfl, State.write_mem _ _, write_ctxs _ _⟩
  case refine_11 =>
    intro old y
    refine ⟨_, galeRemoteAccess_atomic h4 hk ha hb, rfl, rfl, (State.write_mem _ _).trans ?_⟩
    rw [State.correct_mem]
    exact congrArg (fun x => memWrites s.mem (cellsAt s.arg.a (bytesOfNat s.arg.n x))) (sphAtomNew_eq _ _ _ _ _)
  case refine_12 =>
    refine ⟨_, galeRemoteAccess_exactAdd h4 hk ha hb, rfl, (State.write_mem _ _).trans ?_⟩
    rw [State.correct_mem]

end Sys2Proof.HostSide
